-- ==== Sys2Proof/Word.lean ====
section
/-!
DEFINITION. The word types of the Preow J4 (R4, R49, R203) and nothing else: a register holds 64 bits, an
instruction word 32, a byte of memory 8, a lane or k mask 64 bits whatever the group width.
-/
namespace Sys2Proof

/-- One 64-bit register, address or mask (R49). -/
abbrev Word := BitVec 64

/-- One byte of memory (R4). -/
abbrev Byte := BitVec 8

/-- One instruction word (R69). -/
abbrev IWord := BitVec 32

/-- One 7-bit register specifier, or the code a 7-bit field carries in its place (R49, R78). -/
abbrev Spec := BitVec 7

/-- NZCV, with N in bit 3, Z in bit 2, C in bit 1 and V in bit 0 (R60, R349). -/
abbrev Nzcv := BitVec 4

/-- The sticky flags of FPSR: IV in bit 4, DZ, OF, UF, NX in bit 0 (R63). -/
abbrev FpFlags := BitVec 5

end Sys2Proof
end

