-- ==== Sys2Proof/Config.lean ====
section
/-!
DEFINITION. What an implementation fixes and the manual leaves open. A constant with a body is a figure that the manual
states. An `opaque` constant is a FREE VALUE: it has no body, nothing in Lean can evaluate it, and a statement about it
holds whatever it is. Each free value has its entry in the assumption log.
-/
namespace Sys2Proof.Config

/-- Cores of the package (R10, R13). -/
def cores : Nat := 1024
/-- Group slots of a core (R24). -/
def slots : Nat := 64
/-- Lane-registers of a core's main file (R13, R24). -/
def laneRegs : Nat := 32768
/-- Bytes of a line (R14). -/
def line : Nat := 128
/-- Bytes of a page, and of a large page (R14). -/
def page : Nat := 65536
def largePage : Nat := 67108864
/-- Lines of a cluster cache of 1 MiB, and of a slice of the LLC of 2 MiB (R13). -/
def clusterLines : Nat := 8192
def sliceLines : Nat := 16384
/-- Transaction entries of a slice, those reserved for evictions and returns, a line's waiting list, and the 64-byte records
of a spill queue of 2 MiB (R133). -/
def sliceEntries : Nat := 256
def sliceReserve : Nat := 32
def lineWaiting : Nat := 64
def spillRecords : Nat := 32768
/-- Bytes of a core's instruction store (R13). -/
def instrStore : Nat := 65536
/-- Bytes of a core's arrival buffer (R13). -/
def arrivalBytes : Nat := 131072
/-- Lock entries of a slice (R179). -/
def lockEntries : Nat := 16384
/-- Live guarded tasks of the package (R13, R196). -/
def liveTasks : Nat := 4096
/-- Entries of a die's fault buffer, and those reserved for kinds 2 and 3 (R277). -/
def faultBuffer : Nat := 512
def faultReserve : Nat := 32
/-- The limit of one wait for a send, and of BRG's wait (R44, R95). -/
def sendLimit : Nat := 4096
/-- Clocks at a barrier or a mask before a group parks (R47). -/
def parkAfter : Nat := 16384
/-- Clocks ready without issuing before a group is boosted (R258). -/
def boostAfter : Nat := 256

/-- FREE VALUE: the result of an instruction where the manual names it unspecified (R8), by a counter. (DESIGN CHOICE, log entry 3.) -/
opaque freeWord : Nat → Word
/-- FREE VALUE: a choice among `n` members of a closed set (R8), by a counter; the model takes it modulo `n`.
(DESIGN CHOICE, log entry 4.) -/
opaque freeChoice : Nat → Nat
/-- FREE VALUE: the candidate of an approximate operation (R220), by the operation and its operand. (DESIGN CHOICE, log entry 5.) -/
opaque freeApprox : Nat → Nat → Nat
/-- FREE VALUE: the hash that chooses a lock's home slice (R179), by context and descriptor. (DESIGN CHOICE, log entry 6.) -/
opaque lockHash : Nat → Nat → Nat
/-- FREE VALUE: the hash that chooses a line's slice within its die (R126). (DESIGN CHOICE, log entry 6.) -/
opaque sliceHash : Nat → Nat
/-- FREE VALUE: the hash that chooses a line's set within its slice (R198). -/
opaque setHash : Nat → Nat
/-- FREE VALUE: where the search for a grid's private arena starts (R111), by the grid's number. (DESIGN CHOICE, log entry 7.) -/
opaque arenaBase : Nat → Word
/-- FREE VALUE: bytes of an HBM staging pseudo-channel (R295). (DESIGN CHOICE, log entry 77.) -/
opaque stagingChannel : Nat
/-- FREE VALUE: records that the I/O die's event queue holds beyond one (R271, R277). (DESIGN CHOICE, log entry 8.) -/
opaque eventQueueMore : Nat
/-- Records that the event queue holds: at least one. (DESIGN CHOICE, log entry 8.) -/
def eventQueueSize : Nat := eventQueueMore + 1
/-- FREE VALUE: the fused ECDSA identity signature over a measurement response (R303), by the registers, the port and the nonce that it covers.
(DESIGN CHOICE, log entry 9.) -/
opaque signature : Nat → Nat

end Sys2Proof.Config
end

