-- ==== Sys2Proof/Machine/Tab.lean ====
section
/-!
DEFINITION. Keyed tables, the plain data in which the state holds whatever the device has a sparse number of: lists of a
number and a value, in rising order of the number. The laws are in Laws/Tab.lean.
-/
namespace Sys2Proof.Machine

/-- A table from numbers to values, in rising order, no number twice. -/
abbrev Tab (α : Type) := List (Nat × α)

/-- Numbers rise strictly. -/
def tsorted {α : Type} : Tab α → Bool
  | [] => true
  | [_] => true
  | (j, _) :: (k, y) :: r => decide (j < k) && tsorted ((k, y) :: r)

/-- The entry at `k`. -/
def tget {α : Type} (k : Nat) : Tab α → Option α
  | [] => none
  | (j, x) :: r => if j == k then some x else tget k r

/-- The entry at `k`, or a default. -/
def tgetD {α : Type} (t : Tab α) (k : Nat) (d : α) : α := (tget k t).getD d

/-- The table with `x` at `k`. -/
def tset {α : Type} (k : Nat) (x : α) : Tab α → Tab α
  | [] => [(k, x)]
  | (j, y) :: r => if j == k then (k, x) :: r else if k < j then (k, x) :: (j, y) :: r else (j, y) :: tset k x r

/-- The table without the entry at `k`. -/
def tdel {α : Type} (k : Nat) (t : Tab α) : Tab α := t.filter fun e => e.1 != k

/-- The table with the entry at `k` changed, if there is one. -/
def tmod {α : Type} (k : Nat) (f : α → α) : Tab α → Tab α
  | [] => []
  | (j, y) :: r => if j == k then (j, f y) :: r else (j, y) :: tmod k f r

/-- Every entry changed. -/
def tmap {α : Type} (f : Nat → α → α) (t : Tab α) : Tab α := t.map fun e => (e.1, f e.1 e.2)

/-- The values in order. -/
def tvals {α : Type} (t : Tab α) : List α := t.map fun e => e.2

/-- The numbers in order. -/
def tkeys {α : Type} (t : Tab α) : List Nat := t.map fun e => e.1

/-- The lowest number from `n` on that the table leaves free, searched over as many numbers as it has entries. -/
def tfree {α : Type} (n : Nat) (t : Tab α) : Nat :=
  match t with
  | [] => n
  | (j, _) :: r => if j == n then tfree (n + 1) r else if j < n then tfree n r else n

/-- The numbers below `n`, rising. -/
def upTo (n : Nat) : List Nat := List.range n

/-- The bits of a mask that are set, rising, below `n`. -/
def bitsSet (m n : Nat) : List Nat := (upTo n).filter fun i => m.testBit i

/-- The mask of a list of bit numbers. -/
def maskOf (l : List Nat) : Nat := l.foldl (fun m i => if m.testBit i then m else m + 2 ^ i) 0

/-- Bits hi down to lo of a number (R4). -/
def bitsOf (x hi lo : Nat) : Nat := x / 2 ^ lo % 2 ^ (hi + 1 - lo)

/-- The bytes of a number, least significant first (R4). -/
def toBytes (n x : Nat) : List Byte := (upTo n).map fun i => BitVec.ofNat 8 (x / 2 ^ (8 * i))

/-- The number that bytes make, least significant first (R4). -/
def ofBytes : List Byte → Nat
  | [] => 0
  | b :: r => b.toNat + 256 * ofBytes r

/-- `x` of `n` bits, sign-extended to 64 (R85). -/
def sExt (x n : Nat) : Word := BitVec.ofNat 64 (if x % 2 ^ n < 2 ^ (n - 1) then x % 2 ^ n else x % 2 ^ n + 2 ^ 64 - 2 ^ n)

/-- `x` of `n` bits, zero-extended to 64 (R85). -/
def zExt (x n : Nat) : Word := BitVec.ofNat 64 (x % 2 ^ n)

/-- The first element that a test accepts, and the list without it. -/
def takeFirst {α : Type} (p : α → Bool) : List α → Option (α × List α)
  | [] => none
  | x :: r => if p x then some (x, r) else (takeFirst p r).map fun y => (y.1, x :: y.2)

end Sys2Proof.Machine
end

