-- ==== Sys2Proof/Machine/Float.lean ====
section
/-!
DEFINITION. The binary formats and their arithmetic (R203 to R210, R217 to R220), as exact computation on numbers of the
form ± m × 2^e and one rounding. Values are the bits of the format as a natural number; every operation answers the
result's bits and the flags IV DZ OF UF NX in bits 4 to 0 (R63, R208).
-/
namespace Sys2Proof.Machine

/-- A binary format: exponent and fraction widths (R203). -/
structure Fmt where
  ew : Nat
  fw : Nat
  deriving DecidableEq, Repr

def b64 : Fmt := { ew := 11, fw := 52 }
def b32 : Fmt := { ew := 8, fw := 23 }
def bf16 : Fmt := { ew := 8, fw := 7 }
def b16 : Fmt := { ew := 5, fw := 10 }

/-- Rounding modes, by the codes 0 to 3 of R78 and FPCR.RM (R63). -/
inductive Rm where
  | rne | rz | rp | rm
  deriving DecidableEq, Repr

def rmOf (n : Nat) : Rm := if n == 1 then .rz else if n == 2 then .rp else if n == 3 then .rm else .rne

def fIV : FpFlags := 16
def fDZ : FpFlags := 8
def fOF : FpFlags := 4
def fUF : FpFlags := 2
def fNX : FpFlags := 1

/-- A result and its flags. -/
abbrev FRes := Nat × FpFlags

def Fmt.bias (f : Fmt) : Nat := 2 ^ (f.ew - 1) - 1
def Fmt.width (f : Fmt) : Nat := 1 + f.ew + f.fw
def Fmt.sign (f : Fmt) (x : Nat) : Bool := x.testBit (f.ew + f.fw)
def Fmt.expo (f : Fmt) (x : Nat) : Nat := x / 2 ^ f.fw % 2 ^ f.ew
def Fmt.frac (f : Fmt) (x : Nat) : Nat := x % 2 ^ f.fw
def Fmt.signBit (f : Fmt) (neg : Bool) : Nat := if neg then 2 ^ (f.ew + f.fw) else 0
def Fmt.inf (f : Fmt) (neg : Bool) : Nat := f.signBit neg + (2 ^ f.ew - 1) * 2 ^ f.fw
def Fmt.zero (f : Fmt) (neg : Bool) : Nat := f.signBit neg
def Fmt.largest (f : Fmt) (neg : Bool) : Nat := f.inf neg - 1
def Fmt.defNaN (f : Fmt) : Nat := f.inf false + 2 ^ (f.fw - 1)
def Fmt.isNaN (f : Fmt) (x : Nat) : Bool := f.expo x == 2 ^ f.ew - 1 && f.frac x != 0
def Fmt.isSNaN (f : Fmt) (x : Nat) : Bool := f.isNaN x && !x.testBit (f.fw - 1)
def Fmt.isInf (f : Fmt) (x : Nat) : Bool := f.expo x == 2 ^ f.ew - 1 && f.frac x == 0
def Fmt.isZero (f : Fmt) (x : Nat) : Bool := f.expo x == 0 && f.frac x == 0
def Fmt.isSub (f : Fmt) (x : Nat) : Bool := f.expo x == 0 && f.frac x != 0
def Fmt.quiet (f : Fmt) (x : Nat) : Nat := if x.testBit (f.fw - 1) then x else x + 2 ^ (f.fw - 1)
def Fmt.negate (f : Fmt) (x : Nat) : Nat := if f.sign x then x - f.signBit true else x + f.signBit true

/-- The value of a finite number: magnitude m × 2^e. -/
def Fmt.mag (f : Fmt) (x : Nat) : Nat := if f.expo x == 0 then f.frac x else f.frac x + 2 ^ f.fw
def Fmt.lsb (f : Fmt) (x : Nat) : Int :=
  (if f.expo x == 0 then 1 else (f.expo x : Int)) - (f.bias : Int) - (f.fw : Int)

/-- A subnormal operand read as zero of its sign where flushing is on (R206). -/
def Fmt.flush (f : Fmt) (ftz : Bool) (x : Nat) : Nat := if ftz && f.isSub x then f.zero (f.sign x) else x

/-- The first NaN operand, quieted, with IV if any operand is signalling (R207). -/
def nanOf (f : Fmt) (xs : List Nat) : Option FRes :=
  match xs.find? f.isNaN with
  | none => none
  | some x => some (f.quiet x, if xs.any f.isSNaN then fIV else 0)

/-- m × 2^e plus a positive rest below one unit when `more`, rounded to a multiple of 2^q: the multiple, and whether it
is inexact. -/
def roundAt (rd : Rm) (neg : Bool) (m : Nat) (e : Int) (more : Bool) (q : Int) : Nat × Bool :=
  if q ≤ e then (m * 2 ^ (e - q).toNat, more)
  else
    let k := (q - e).toNat
    let w := m / 2 ^ k
    let r := m % 2 ^ k
    let half := 2 ^ (k - 1)
    let inexact := r != 0 || more
    let up := match rd with
      | .rne => decide (r > half) || (r == half && (more || w % 2 == 1))
      | .rz => false
      | .rp => inexact && !neg
      | .rm => inexact && neg
    (if up then w + 1 else w, inexact)

/-- Bits that a magnitude takes. -/
def bitLen (m : Nat) : Nat := if m == 0 then 0 else Nat.log2 m + 1

/-- What overflow delivers (R208). -/
def overflowTo (f : Fmt) (rd : Rm) (neg : Bool) : Nat :=
  match rd with
  | .rne => f.inf neg
  | .rz => f.largest neg
  | .rp => if neg then f.largest true else f.inf false
  | .rm => if neg then f.inf true else f.largest false

/-- The exact value (−1)^neg × (m × 2^e, plus a rest below one unit when `more`) rounded once (RoundD, RoundF, R205),
with OF, UF and NX (R208) and flushing of a tiny result (R206). A nonzero rest needs m with more bits than the format. -/
def roundF (f : Fmt) (rd : Rm) (ftz : Bool) (neg : Bool) (m : Nat) (e : Int) (more : Bool) : FRes :=
  if m == 0 && !more then (f.zero neg, 0)
  else
    let emin : Int := 1 - (f.bias : Int)
    let top : Int := e + (bitLen m : Int) - 1
    let qu : Int := top - (f.fw : Int)
    let ru := roundAt rd neg m e more qu
    let topu : Int := if bitLen ru.1 > f.fw + 1 then top + 1 else top
    if topu > (f.bias : Int) then (overflowTo f rd neg, fOF ||| fNX)
    else
      let tiny := decide (topu < emin)
      if tiny && ftz then (f.zero neg, fUF ||| fNX)
      else
        let q : Int := if qu < emin - (f.fw : Int) then emin - (f.fw : Int) else qu
        let r := roundAt rd neg m e more q
        let base : Nat := (q - (emin - (f.fw : Int))).toNat
        -- a fraction with its hidden bit adds one to the exponent field by itself
        let bits := if r.1 < 2 ^ f.fw then r.1 else r.1 + base * 2 ^ f.fw
        (f.signBit neg + bits, if r.2 then (if tiny then fUF ||| fNX else fNX) else 0)

/-- A signed exact sum x × 2^e of integers, rounded; a zero sum takes its sign from the mode, or from `zneg` where both
addends were zeros of one sign (R347). -/
def roundInt (f : Fmt) (rd : Rm) (ftz : Bool) (x : Int) (e : Int) (zneg : Option Bool) : FRes :=
  if x == 0 then (f.zero (zneg.getD (rd == .rm)), 0)
  else roundF f rd ftz (decide (x < 0)) x.natAbs e false

/-- A finite number as a signed integer times 2^e. -/
def Fmt.sval (f : Fmt) (x : Nat) : Int := if f.sign x then -(f.mag x : Int) else (f.mag x : Int)

/-- The exact sum of x × 2^ex and y × 2^ey, at the lesser exponent. -/
def addExact (x : Int) (ex : Int) (y : Int) (ey : Int) : Int × Int :=
  if ex ≤ ey then (x + y * 2 ^ (ey - ex).toNat, ex) else (x * 2 ^ (ex - ey).toNat + y, ey)

/-- The signs agree on a sum of two zeros. -/
def zeroSign (x y : Bool × Bool) : Option Bool :=
  if x.1 && y.1 && x.2 == y.2 then some x.2 else none

/-- a + b, or a − b with the sign of b inverted after its NaN test (R347). -/
def fadd (f : Fmt) (rd : Rm) (ftz sub : Bool) (a b : Nat) : FRes :=
  let a := f.flush ftz a
  let b := f.flush ftz b
  match nanOf f [a, b] with
  | some r => r
  | none =>
    let b := if sub then f.negate b else b
    if f.isInf a && f.isInf b then (if f.sign a == f.sign b then (a, 0) else (f.defNaN, fIV))
    else if f.isInf a then (a, 0)
    else if f.isInf b then (b, 0)
    else
      let s := addExact (f.sval a) (f.lsb a) (f.sval b) (f.lsb b)
      roundInt f rd ftz s.1 s.2 (zeroSign (f.isZero a, f.sign a) (f.isZero b, f.sign b))

/-- a × b. -/
def fmul (f : Fmt) (rd : Rm) (ftz : Bool) (a b : Nat) : FRes :=
  let a := f.flush ftz a
  let b := f.flush ftz b
  match nanOf f [a, b] with
  | some r => r
  | none =>
    let neg := f.sign a != f.sign b
    if f.isInf a || f.isInf b then (if f.isZero a || f.isZero b then (f.defNaN, fIV) else (f.inf neg, 0))
    else roundF f rd ftz neg (f.mag a * f.mag b) (f.lsb a + f.lsb b) false

/-- ±(a × b) ± d, rounded once: `np` negates the product, `nd` the addend (FFMA, FFMS, FFNM; R347). -/
def ffma (f : Fmt) (rd : Rm) (ftz np nd : Bool) (a b d : Nat) : FRes :=
  let a := f.flush ftz a
  let b := f.flush ftz b
  let d := f.flush ftz d
  let bad := (f.isInf a && f.isZero b) || (f.isZero a && f.isInf b)
  match nanOf f [a, b, d] with
  | some (r, fl) => (r, if bad then fl ||| fIV else fl)
  | none =>
    let neg := (f.sign a != f.sign b) != np
    let d := if nd then f.negate d else d
    if bad then (f.defNaN, fIV)
    else if f.isInf a || f.isInf b then
      (if f.isInf d && f.sign d != neg then (f.defNaN, fIV) else (f.inf neg, 0))
    else if f.isInf d then (d, 0)
    else
      let p : Int := (f.mag a * f.mag b : Nat)
      let s := addExact (if neg then -p else p) (f.lsb a + f.lsb b) (f.sval d) (f.lsb d)
      roundInt f rd ftz s.1 s.2 (zeroSign (p == 0, neg) (f.isZero d, f.sign d))

/-- a ÷ b, correctly rounded. -/
def fdiv (f : Fmt) (rd : Rm) (ftz : Bool) (a b : Nat) : FRes :=
  let a := f.flush ftz a
  let b := f.flush ftz b
  match nanOf f [a, b] with
  | some r => r
  | none =>
    let neg := f.sign a != f.sign b
    if f.isInf a then (if f.isInf b then (f.defNaN, fIV) else (f.inf neg, 0))
    else if f.isInf b then (f.zero neg, 0)
    else if f.isZero b then (if f.isZero a then (f.defNaN, fIV) else (f.inf neg, fDZ))
    else if f.isZero a then (f.zero neg, 0)
    else
      let k := 2 * f.fw + 8
      let n := f.mag a * 2 ^ k
      roundF f rd ftz neg (n / f.mag b) (f.lsb a - f.lsb b - (k : Int)) (n % f.mag b != 0)

/-- Integer square root: bits tried from the highest down. -/
def isqrtFrom (n : Nat) : Nat → Nat → Nat
  | 0, r => r
  | k + 1, r => let t := r + 2 ^ k; isqrtFrom n k (if t * t ≤ n then t else r)

def isqrt (n : Nat) : Nat := isqrtFrom n (bitLen n / 2 + 1) 0

/-- √a, correctly rounded. -/
def fsqrt (f : Fmt) (rd : Rm) (ftz : Bool) (a : Nat) : FRes :=
  let a := f.flush ftz a
  match nanOf f [a] with
  | some r => r
  | none =>
    if f.isZero a then (a, 0)
    else if f.sign a then (f.defNaN, fIV)
    else if f.isInf a then (a, 0)
    else
      let e := f.lsb a
      let odd : Nat := if e % 2 == 0 then 0 else 1
      let k := 2 * (f.fw + 4)
      let n := f.mag a * 2 ^ (k + odd)
      let r := isqrt n
      roundF f rd ftz false r ((e - (odd : Int) - (k : Int)) / 2) (r * r != n)

/-- Order of two numbers that are no NaN: less, equal. −0 equals +0. -/
def Fmt.skey (f : Fmt) (x : Nat) : Int :=
  let m : Int := (x % 2 ^ (f.ew + f.fw) : Nat)
  if f.sign x then -m else m
def Fmt.lt (f : Fmt) (a b : Nat) : Bool := decide (f.skey a < f.skey b)

/-- minimumNumber and maximumNumber (R207): a NaN is ignored beside a number, two give the default NaN, and −0 lies
below +0. -/
def fminmax (f : Fmt) (ftz max : Bool) (a b : Nat) : FRes :=
  let a := f.flush ftz a
  let b := f.flush ftz b
  let fl := if f.isSNaN a || f.isSNaN b then fIV else 0
  if f.isNaN a && f.isNaN b then (f.defNaN, fl)
  else if f.isNaN a then (b, fl)
  else if f.isNaN b then (a, fl)
  else
    let aLess := f.lt a b || (f.skey a == f.skey b && f.sign a)
    (if aLess != max then a else b, fl)

/-- NZCV of FCMP (R349). -/
def fcmp (f : Fmt) (ftz : Bool) (a b : Nat) : Nzcv × FpFlags :=
  let a := f.flush ftz a
  let b := f.flush ftz b
  let fl := if f.isSNaN a || f.isSNaN b then fIV else 0
  if f.isNaN a || f.isNaN b then (3, fl)
  else if f.lt a b then (8, fl)
  else if f.lt b a then (2, fl)
  else (6, fl)

/-- FCLS (R350). -/
def fcls (f : Fmt) (ftz : Bool) (a : Nat) : Nat :=
  let a := f.flush ftz a
  if f.isNaN a then (if f.isSNaN a then 2 ^ 8 else 2 ^ 9)
  else if f.isInf a then (if f.sign a then 1 else 2 ^ 7)
  else if f.isZero a then (if f.sign a then 2 ^ 3 else 2 ^ 4)
  else if f.isSub a then (if f.sign a then 2 ^ 2 else 2 ^ 5)
  else if f.sign a then 2 else 2 ^ 6

/-- FRND (R351): to an integral value, the sign kept. -/
def frnd (f : Fmt) (rd : Rm) (ftz : Bool) (a : Nat) : FRes :=
  let a := f.flush ftz a
  match nanOf f [a] with
  | some r => r
  | none =>
    if f.isInf a || f.isZero a then (a, 0)
    else
      let r := roundAt rd (f.sign a) (f.mag a) (f.lsb a) false (if f.lsb a < 0 then 0 else f.lsb a)
      let e : Int := if f.lsb a < 0 then 0 else f.lsb a
      ((roundF f rd false (f.sign a) r.1 e false).1, if r.2 then fNX else 0)

/-- A conversion between binary formats (R207, R210). -/
def fcvt (src dst : Fmt) (rd : Rm) (ftzIn ftzOut : Bool) (a : Nat) : FRes :=
  let a := src.flush ftzIn a
  if src.isNaN a then
    let q := src.quiet a
    let fr := src.frac q
    let fr := if dst.fw < src.fw then fr / 2 ^ (src.fw - dst.fw) else fr * 2 ^ (dst.fw - src.fw)
    (dst.inf (src.sign a) + fr, if src.isSNaN a then fIV else 0)
  else if src.isInf a then (dst.inf (src.sign a), 0)
  else roundF dst rd ftzOut (src.sign a) (src.mag a) (src.lsb a) false

/-- A conversion to an integer of `n` bits, signed or not (R210): the integer modulo 2^n. -/
def ftoInt (src : Fmt) (rd : Rm) (ftz signed : Bool) (n : Nat) (a : Nat) : Nat × FpFlags :=
  let a := src.flush ftz a
  let lo : Int := if signed then -(2 ^ (n - 1)) else 0
  let hi : Int := if signed then 2 ^ (n - 1) - 1 else 2 ^ n - 1
  let enc (x : Int) : Nat := (x % 2 ^ n).toNat
  if src.isNaN a then (0, fIV)
  else if src.isInf a then (enc (if src.sign a then lo else hi), fIV)
  else
    let r := roundAt rd (src.sign a) (src.mag a) (src.lsb a) false 0
    let x : Int := if src.sign a then -(r.1 : Int) else r.1
    if x < lo then (enc lo, fIV) else if hi < x then (enc hi, fIV) else (enc x, if r.2 then fNX else 0)

/-- A conversion from an integer (R210). -/
def intToF (dst : Fmt) (rd : Rm) (x : Int) : FRes := roundInt dst rd false x 0 (some false)

/-- The largest of a list of exponents, and the exact sum of terms x × 2^e at the least of theirs. -/
def sumExact : List (Int × Int) → Int × Int
  | [] => (0, 0)
  | [t] => t
  | t :: r => let s := sumExact r; addExact t.1 t.2 s.1 s.2

/-- The value ± m × 2^e rounded RNE into a format without flushing, as at the home and in the engines (R128, R205). -/
def addRne (f : Fmt) (a b : Nat) : FRes := fadd f .rne false false a b

/-- Floating-point NZCV of a result (R60). -/
def fpNzcv (f : Fmt) (x : Nat) : Nzcv :=
  (if f.sign x then 8 else 0) ||| (if f.isZero x then 4 else 0) ||| (if f.isNaN x then 1 else 0)

end Sys2Proof.Machine
end

