-- ==== Sys2Proof/Syntax.lean ====
section
/-!
DEFINITION. The syntax of the Preow J4: ONE constructor for each row of spec/opcode_table.json, in the table's order.
The first 228 are the Marby instructions (R74); their arguments are the fields of the word, raw, under the table's
letters (d, a, b: the three 7-bit fields of R70; w, f, g: the W, Fa and Fb bits; x: the x3 field; i: an immediate;
c, m, k, n, p, h, op: the code, mode, mask, number, displacement, hint and operation fields).
The other 102 are the events of spec/95_what_each_step_holds.md, steps of the device that no word encodes; their
arguments say which of the device's parts the event befalls (a core, a group id, a team, a cluster and a line), or
carry what arrives from outside (a packet, a host access, a reading of a sensor).
-/
namespace Sys2Proof

/-- What a request at the management port carries, with the session over which it comes: the session's number and the key
under which it is sealed (R305). -/
structure Sealed where
  via : Nat × Nat
  value : Nat
  deriving DecidableEq, Repr

/-- One step of the device: a Marby instruction with the fields of its word, or an event (spec/opcode_table.json).
(DESIGN CHOICE, log entry 12.) -/
inductive Instr where
  /-- ADD (R318): Adds a and b modulo 2^64 in each lane of E, and writes flags when W is 1. -/
  | add (d : BitVec 7) (a : BitVec 7) (b : BitVec 7) (w : BitVec 1) (f : BitVec 1) (g : BitVec 1)
  /-- SUB (R388): Subtracts b from a modulo 2^64 in each lane of E. -/
  | sub (d : BitVec 7) (a : BitVec 7) (b : BitVec 7) (w : BitVec 1) (f : BitVec 1) (g : BitVec 1)
  /-- MUL (R374): Writes the low 64 bits of a × b. -/
  | mul (d : BitVec 7) (a : BitVec 7) (b : BitVec 7) (w : BitVec 1) (f : BitVec 1) (g : BitVec 1)
  /-- MULH_S (R374): Writes bits [127:64] of the signed product a × b. -/
  | mulhS (d : BitVec 7) (a : BitVec 7) (b : BitVec 7) (w : BitVec 1) (f : BitVec 1) (g : BitVec 1)
  /-- MULH_Z (R374): Writes bits [127:64] of the unsigned product a × b. -/
  | mulhZ (d : BitVec 7) (a : BitVec 7) (b : BitVec 7) (w : BitVec 1) (f : BitVec 1) (g : BitVec 1)
  /-- AND (R318): Writes a AND b. -/
  | and (d : BitVec 7) (a : BitVec 7) (b : BitVec 7) (w : BitVec 1) (f : BitVec 1) (g : BitVec 1)
  /-- OR (R374): Writes a OR b. -/
  | or (d : BitVec 7) (a : BitVec 7) (b : BitVec 7) (w : BitVec 1) (f : BitVec 1) (g : BitVec 1)
  /-- XOR (R388): Writes a XOR b. -/
  | xor (d : BitVec 7) (a : BitVec 7) (b : BitVec 7) (w : BitVec 1) (f : BitVec 1) (g : BitVec 1)
  /-- SHL (R387): Shifts a left by b[5:0]. -/
  | shl (d : BitVec 7) (a : BitVec 7) (b : BitVec 7) (w : BitVec 1) (f : BitVec 1) (g : BitVec 1)
  /-- SHR (R387): Shifts a right logically by b[5:0]. -/
  | shr (d : BitVec 7) (a : BitVec 7) (b : BitVec 7) (w : BitVec 1) (f : BitVec 1) (g : BitVec 1)
  /-- SAR (R387): Shifts a right arithmetically by b[5:0]. -/
  | sar (d : BitVec 7) (a : BitVec 7) (b : BitVec 7) (w : BitVec 1) (f : BitVec 1) (g : BitVec 1)
  /-- MIN_S (R374): Writes the signed minimum of a and b. -/
  | minS (d : BitVec 7) (a : BitVec 7) (b : BitVec 7) (w : BitVec 1) (f : BitVec 1) (g : BitVec 1)
  /-- MAX_S (R374): Writes the signed maximum of a and b. -/
  | maxS (d : BitVec 7) (a : BitVec 7) (b : BitVec 7) (w : BitVec 1) (f : BitVec 1) (g : BitVec 1)
  /-- MIN_Z (R374): Writes the unsigned minimum of a and b. -/
  | minZ (d : BitVec 7) (a : BitVec 7) (b : BitVec 7) (w : BitVec 1) (f : BitVec 1) (g : BitVec 1)
  /-- MAX_Z (R374): Writes the unsigned maximum of a and b. -/
  | maxZ (d : BitVec 7) (a : BitVec 7) (b : BitVec 7) (w : BitVec 1) (f : BitVec 1) (g : BitVec 1)
  /-- ADC (R318): Adds a, b and the incoming carry. -/
  | adc (d : BitVec 7) (a : BitVec 7) (b : BitVec 7) (w : BitVec 1) (f : BitVec 1) (g : BitVec 1)
  /-- SBC (R388): Computes a + NOT b + C. -/
  | sbc (d : BitVec 7) (a : BitVec 7) (b : BitVec 7) (w : BitVec 1) (f : BitVec 1) (g : BitVec 1)
  /-- CMP_S (R320): Compares a and b as signed values and always writes NZCV. -/
  | cmpS (a : BitVec 7) (b : BitVec 7) (f : BitVec 1) (g : BitVec 1)
  /-- CMP_Z (R320): Compares a and b as unsigned values, with N set when a < b, and always writes NZCV. -/
  | cmpZ (a : BitVec 7) (b : BitVec 7) (f : BitVec 1) (g : BitVec 1)
  /-- DIV_S (R339): Divides a by b as signed values, truncating toward zero. -/
  | divS (d : BitVec 7) (a : BitVec 7) (b : BitVec 7) (w : BitVec 1) (f : BitVec 1) (g : BitVec 1)
  /-- DIV_Z (R339): Divides a by b as unsigned values. -/
  | divZ (d : BitVec 7) (a : BitVec 7) (b : BitVec 7) (w : BitVec 1) (f : BitVec 1) (g : BitVec 1)
  /-- REM_S (R374): Writes the signed remainder, which takes the sign of a. -/
  | remS (d : BitVec 7) (a : BitVec 7) (b : BitVec 7) (w : BitVec 1) (f : BitVec 1) (g : BitVec 1)
  /-- REM_Z (R374): Writes the unsigned remainder. -/
  | remZ (d : BitVec 7) (a : BitVec 7) (b : BitVec 7) (w : BitVec 1) (f : BitVec 1) (g : BitVec 1)
  /-- ADD_W (R318): Adds at 32 bits and sign-extends the result. -/
  | addW (d : BitVec 7) (a : BitVec 7) (b : BitVec 7) (w : BitVec 1) (f : BitVec 1) (g : BitVec 1)
  /-- SUB_W (R388): Subtracts at 32 bits and sign-extends the result. -/
  | subW (d : BitVec 7) (a : BitVec 7) (b : BitVec 7) (w : BitVec 1) (f : BitVec 1) (g : BitVec 1)
  /-- MUL_W (R374): Multiplies at 32 bits and sign-extends the result. -/
  | mulW (d : BitVec 7) (a : BitVec 7) (b : BitVec 7) (w : BitVec 1) (f : BitVec 1) (g : BitVec 1)
  /-- POPC (R374): Counts the one bits of a. -/
  | popc (d : BitVec 7) (a : BitVec 7) (w : BitVec 1) (f : BitVec 1)
  /-- CLZ (R318): Counts the leading zero bits of a. -/
  | clz (d : BitVec 7) (a : BitVec 7) (w : BitVec 1) (f : BitVec 1)
  /-- BREV (R318): Reverses the bit order of a. -/
  | brev (d : BitVec 7) (a : BitVec 7) (w : BitVec 1) (f : BitVec 1)
  /-- BFX (R319): Extracts a bit field of a at the position and length given in b. -/
  | bfx (d : BitVec 7) (a : BitVec 7) (b : BitVec 7) (w : BitVec 1) (f : BitVec 1) (g : BitVec 1)
  /-- BFI (R319): Inserts a bit field of a into d at the position and length given in b. -/
  | bfi (d : BitVec 7) (a : BitVec 7) (b : BitVec 7) (w : BitVec 1) (f : BitVec 1) (g : BitVec 1)
  /-- FADD_D (R347): Adds two binary64 values with one rounding. -/
  | faddD (d : BitVec 7) (a : BitVec 7) (b : BitVec 7) (w : BitVec 1) (f : BitVec 1) (g : BitVec 1)
  /-- FSUB_D (R347): Subtracts two binary64 values. -/
  | fsubD (d : BitVec 7) (a : BitVec 7) (b : BitVec 7) (w : BitVec 1) (f : BitVec 1) (g : BitVec 1)
  /-- FMUL_D (R347): Multiplies two binary64 values. -/
  | fmulD (d : BitVec 7) (a : BitVec 7) (b : BitVec 7) (w : BitVec 1) (f : BitVec 1) (g : BitVec 1)
  /-- FFMA_D (R347): Computes a × b + d in binary64 with one rounding. -/
  | ffmaD (d : BitVec 7) (a : BitVec 7) (b : BitVec 7) (w : BitVec 1) (f : BitVec 1) (g : BitVec 1)
  /-- FFMS_D (R347): Computes a × b − d in binary64 with one rounding. -/
  | ffmsD (d : BitVec 7) (a : BitVec 7) (b : BitVec 7) (w : BitVec 1) (f : BitVec 1) (g : BitVec 1)
  /-- FFNM_D (R347): Computes −(a × b) + d in binary64 with one rounding. -/
  | ffnmD (d : BitVec 7) (a : BitVec 7) (b : BitVec 7) (w : BitVec 1) (f : BitVec 1) (g : BitVec 1)
  /-- FMIN_D (R347): Writes minimumNumber of two binary64 values. -/
  | fminD (d : BitVec 7) (a : BitVec 7) (b : BitVec 7) (w : BitVec 1) (f : BitVec 1) (g : BitVec 1)
  /-- FMAX_D (R347): Writes maximumNumber of two binary64 values. -/
  | fmaxD (d : BitVec 7) (a : BitVec 7) (b : BitVec 7) (w : BitVec 1) (f : BitVec 1) (g : BitVec 1)
  /-- FDIV_D (R347): Divides two binary64 values, correctly rounded. -/
  | fdivD (d : BitVec 7) (a : BitVec 7) (b : BitVec 7) (w : BitVec 1) (f : BitVec 1) (g : BitVec 1)
  /-- FSQRT_D (R347): Writes the correctly rounded square root of a binary64 value. -/
  | fsqrtD (d : BitVec 7) (a : BitVec 7) (w : BitVec 1) (f : BitVec 1)
  /-- FCMP_D (R349): Compares two binary64 values and sets NZCV. -/
  | fcmpD (a : BitVec 7) (b : BitVec 7) (f : BitVec 1) (g : BitVec 1)
  /-- FABS_D (R347): Clears the sign bit of a binary64 value. -/
  | fabsD (d : BitVec 7) (a : BitVec 7) (w : BitVec 1) (f : BitVec 1)
  /-- FNEG_D (R347): Inverts the sign bit of a binary64 value. -/
  | fnegD (d : BitVec 7) (a : BitVec 7) (w : BitVec 1) (f : BitVec 1)
  /-- FCPYS_D (R347): Writes a with the sign bit of b, in binary64. -/
  | fcpysD (d : BitVec 7) (a : BitVec 7) (b : BitVec 7) (w : BitVec 1) (f : BitVec 1) (g : BitVec 1)
  /-- FRND_D (R351): Rounds a binary64 value to an integral value in the mode that the b field gives. -/
  | frndD (d : BitVec 7) (a : BitVec 7) (m : BitVec 7) (w : BitVec 1) (f : BitVec 1)
  /-- FCLS_D (R350): Classifies a binary64 value as a one-hot integer. -/
  | fclsD (d : BitVec 7) (a : BitVec 7) (w : BitVec 1) (f : BitVec 1)
  /-- FADD_F (R347): Adds two binary32 values. -/
  | faddF (d : BitVec 7) (a : BitVec 7) (b : BitVec 7) (w : BitVec 1) (f : BitVec 1) (g : BitVec 1)
  /-- FSUB_F (R347): Subtracts two binary32 values. -/
  | fsubF (d : BitVec 7) (a : BitVec 7) (b : BitVec 7) (w : BitVec 1) (f : BitVec 1) (g : BitVec 1)
  /-- FMUL_F (R347): Multiplies two binary32 values. -/
  | fmulF (d : BitVec 7) (a : BitVec 7) (b : BitVec 7) (w : BitVec 1) (f : BitVec 1) (g : BitVec 1)
  /-- FFMA_F (R347): Computes a fused multiply-add in binary32. -/
  | ffmaF (d : BitVec 7) (a : BitVec 7) (b : BitVec 7) (w : BitVec 1) (f : BitVec 1) (g : BitVec 1)
  /-- FFMS_F (R347): Computes a × b − d in binary32 with one rounding. -/
  | ffmsF (d : BitVec 7) (a : BitVec 7) (b : BitVec 7) (w : BitVec 1) (f : BitVec 1) (g : BitVec 1)
  /-- FFNM_F (R347): Computes −(a × b) + d in binary32 with one rounding. -/
  | ffnmF (d : BitVec 7) (a : BitVec 7) (b : BitVec 7) (w : BitVec 1) (f : BitVec 1) (g : BitVec 1)
  /-- FMIN_F (R347): Writes minimumNumber of two binary32 values. -/
  | fminF (d : BitVec 7) (a : BitVec 7) (b : BitVec 7) (w : BitVec 1) (f : BitVec 1) (g : BitVec 1)
  /-- FMAX_F (R347): Writes maximumNumber of two binary32 values. -/
  | fmaxF (d : BitVec 7) (a : BitVec 7) (b : BitVec 7) (w : BitVec 1) (f : BitVec 1) (g : BitVec 1)
  /-- FDIV_F (R347): Divides two binary32 values, correctly rounded. -/
  | fdivF (d : BitVec 7) (a : BitVec 7) (b : BitVec 7) (w : BitVec 1) (f : BitVec 1) (g : BitVec 1)
  /-- FSQRT_F (R347): Writes the square root of a binary32 value. -/
  | fsqrtF (d : BitVec 7) (a : BitVec 7) (w : BitVec 1) (f : BitVec 1)
  /-- FCMP_F (R349): Compares two binary32 values and sets NZCV. -/
  | fcmpF (a : BitVec 7) (b : BitVec 7) (f : BitVec 1) (g : BitVec 1)
  /-- FABS_F (R347): Clears the sign bit of a binary32 value. -/
  | fabsF (d : BitVec 7) (a : BitVec 7) (w : BitVec 1) (f : BitVec 1)
  /-- FNEG_F (R347): Inverts the sign bit of a binary32 value. -/
  | fnegF (d : BitVec 7) (a : BitVec 7) (w : BitVec 1) (f : BitVec 1)
  /-- FCPYS_F (R347): Writes a with the sign bit of b, in binary32. -/
  | fcpysF (d : BitVec 7) (a : BitVec 7) (b : BitVec 7) (w : BitVec 1) (f : BitVec 1) (g : BitVec 1)
  /-- FRND_F (R351): Rounds a binary32 value to an integral value. -/
  | frndF (d : BitVec 7) (a : BitVec 7) (m : BitVec 7) (w : BitVec 1) (f : BitVec 1)
  /-- FCLS_F (R350): Classifies a binary32 value. -/
  | fclsF (d : BitVec 7) (a : BitVec 7) (w : BitVec 1) (f : BitVec 1)
  /-- CVT_D_F (R338): Converts binary32 to binary64 exactly. -/
  | cvtDF (d : BitVec 7) (a : BitVec 7) (m : BitVec 7)
  /-- CVT_F_D (R338): Converts binary64 to binary32 with rounding. -/
  | cvtFD (d : BitVec 7) (a : BitVec 7) (m : BitVec 7)
  /-- CVT_D_S64 (R338): Converts a signed 64-bit integer to binary64. -/
  | cvtDS64 (d : BitVec 7) (a : BitVec 7) (m : BitVec 7)
  /-- CVT_S64_D (R338): Converts binary64 to a signed 64-bit integer. -/
  | cvtS64D (d : BitVec 7) (a : BitVec 7) (m : BitVec 7)
  /-- CVT_D_Z64 (R338): Converts an unsigned 64-bit integer to binary64. -/
  | cvtDZ64 (d : BitVec 7) (a : BitVec 7) (m : BitVec 7)
  /-- CVT_Z64_D (R338): Converts binary64 to an unsigned 64-bit integer. -/
  | cvtZ64D (d : BitVec 7) (a : BitVec 7) (m : BitVec 7)
  /-- CVT_F_S32 (R338): Converts a signed 32-bit integer to binary32. -/
  | cvtFS32 (d : BitVec 7) (a : BitVec 7) (m : BitVec 7)
  /-- CVT_S32_F (R338): Converts binary32 to a signed 32-bit integer, sign-extended. -/
  | cvtS32F (d : BitVec 7) (a : BitVec 7) (m : BitVec 7)
  /-- CVT_B_F (R338): Converts binary32 to BF16. -/
  | cvtBF (d : BitVec 7) (a : BitVec 7) (m : BitVec 7)
  /-- CVT_F_B (R338): Converts BF16 to binary32 exactly. -/
  | cvtFB (d : BitVec 7) (a : BitVec 7) (m : BitVec 7)
  /-- CVT_H_F (R338): Converts binary32 to binary16. -/
  | cvtHF (d : BitVec 7) (a : BitVec 7) (m : BitVec 7)
  /-- CVT_F_H (R338): Converts binary16 to binary32 exactly. -/
  | cvtFH (d : BitVec 7) (a : BitVec 7) (m : BitVec 7)
  /-- QDX_X8 (R215): Quantises 32 lanes into one DXB8 block with gap δ and clip count c. -/
  | qdxX8 (d : BitVec 7) (a : BitVec 7) (g : BitVec 7) (c : BitVec 3)
  /-- QDX_X4 (R215): Quantises 32 lanes into one DXB4 block. -/
  | qdxX4 (d : BitVec 7) (a : BitVec 7) (g : BitVec 7) (c : BitVec 3)
  /-- DQX_X8 (R216): Dequantises a DXB8 element under its header into binary32. -/
  | dqxX8 (d : BitVec 7) (a : BitVec 7) (b : BitVec 7)
  /-- DQX_X4 (R216): Dequantises a DXB4 element into binary32. -/
  | dqxX4 (d : BitVec 7) (a : BitVec 7) (b : BitVec 7)
  /-- FRCP_F (R341): Approximates the binary32 reciprocal. -/
  | frcpF (d : BitVec 7) (a : BitVec 7) (w : BitVec 1) (f : BitVec 1)
  /-- FRSQ_F (R341): Approximates the binary32 reciprocal square root. -/
  | frsqF (d : BitVec 7) (a : BitVec 7) (w : BitVec 1) (f : BitVec 1)
  /-- FEX2_F (R341): Approximates 2^x in binary32. -/
  | fex2F (d : BitVec 7) (a : BitVec 7) (w : BitVec 1) (f : BitVec 1)
  /-- FLG2_F (R341): Approximates log2 in binary32. -/
  | flg2F (d : BitVec 7) (a : BitVec 7) (w : BitVec 1) (f : BitVec 1)
  /-- FSIN_F (R341): Approximates the sine in binary32. -/
  | fsinF (d : BitVec 7) (a : BitVec 7) (w : BitVec 1) (f : BitVec 1)
  /-- FCOS_F (R341): Approximates the cosine in binary32. -/
  | fcosF (d : BitVec 7) (a : BitVec 7) (w : BitVec 1) (f : BitVec 1)
  /-- DRCA (R341): Returns a binary64 reciprocal seed. -/
  | drca (d : BitVec 7) (a : BitVec 7) (w : BitVec 1) (f : BitVec 1)
  /-- DRSA (R341): Returns a binary64 reciprocal square-root seed. -/
  | drsa (d : BitVec 7) (a : BitVec 7) (w : BitVec 1) (f : BitVec 1)
  /-- RBOX (R384): Tests each lane's ray against the four child boxes of a BVH node. -/
  | rbox (d : BitVec 7) (a : BitVec 7) (f : BitVec 1)
  /-- RTRI (R385): Tests each lane's ray against one triangle. -/
  | rtri (d : BitVec 7) (a : BitVec 7) (f : BitVec 1)
  /-- SEL (R390): Selects a or b per lane under a condition on NZCV. -/
  | sel (d : BitVec 7) (a : BitVec 7) (b : BitVec 7) (c : BitVec 3)
  /-- MOV (R376): Copies any readable specifier into d. -/
  | mov (d : BitVec 7) (a : BitVec 7) (w : BitVec 1) (f : BitVec 1)
  /-- CCGET (R330): Writes NZCV into d. -/
  | ccget (d : BitVec 7)
  /-- CCSET (R331): Sets NZCV from a[3:0]. -/
  | ccset (a : BitVec 7) (f : BitVec 1)
  /-- SHFL_IDX (R391): Reads a from the lane that b indexes. -/
  | shflIdx (d : BitVec 7) (a : BitVec 7) (b : BitVec 7) (f : BitVec 1) (g : BitVec 1)
  /-- SHFL_XOR (R391): Reads a from lane L XOR b. -/
  | shflXor (d : BitVec 7) (a : BitVec 7) (b : BitVec 7) (f : BitVec 1) (g : BitVec 1)
  /-- SHFL_UP (R391): Reads a from lane L − b. -/
  | shflUp (d : BitVec 7) (a : BitVec 7) (b : BitVec 7) (f : BitVec 1) (g : BitVec 1)
  /-- SHFL_DN (R391): Reads a from lane L + b. -/
  | shflDn (d : BitVec 7) (a : BitVec 7) (b : BitVec 7) (f : BitVec 1) (g : BitVec 1)
  /-- BCST (R323): Broadcasts one lane's a to every lane of E. -/
  | bcst (d : BitVec 7) (a : BitVec 7) (b : BitVec 7) (f : BitVec 1) (g : BitVec 1)
  /-- VOTE (R404): Writes the mask of the lanes of E whose a is nonzero. -/
  | vote (d : BitVec 7) (a : BitVec 7) (f : BitVec 1)
  /-- MTCH (R378): Writes the mask of the lanes of E whose a equals the lane's own a. -/
  | mtch (d : BitVec 7) (a : BitVec 7) (f : BitVec 1)
  /-- XRD (R412): Reads a register of another thread of the team on the same core, through the remap table. -/
  | xrd (d : BitVec 7) (a : BitVec 7) (b : BitVec 7) (g : BitVec 1)
  /-- RED_ADD (R381): Sums b over the lanes of E, modulo 2^64. -/
  | redAdd (d : BitVec 7) (b : BitVec 7) (g : BitVec 1)
  /-- RED_MIN (R381): Takes the signed minimum of b over the lanes of E. -/
  | redMin (d : BitVec 7) (b : BitVec 7) (g : BitVec 1)
  /-- RED_MAX (R381): Takes the signed maximum of b over the lanes of E. -/
  | redMax (d : BitVec 7) (b : BitVec 7) (g : BitVec 1)
  /-- RED_FADD_D (R219): Forms the binary64 sum over the physical-lane tree. -/
  | redFaddD (d : BitVec 7) (b : BitVec 7) (g : BitVec 1)
  /-- RED_FADD_F (R219): Forms the binary32 sum over the physical-lane tree. -/
  | redFaddF (d : BitVec 7) (b : BitVec 7) (g : BitVec 1)
  /-- SCAN_ADD (R389): Writes the inclusive integer prefix sum over the lanes. -/
  | scanAdd (d : BitVec 7) (b : BitVec 7) (g : BitVec 1)
  /-- SCAN_FADD_D (R389): Writes the inclusive binary64 prefix sum in Kogge–Stone order. -/
  | scanFaddD (d : BitVec 7) (b : BitVec 7) (g : BitVec 1)
  /-- LDX_64 (R367): Loads 8 bytes from a + b × 8. -/
  | ldx64 (d : BitVec 7) (a : BitVec 7) (b : BitVec 7) (f : BitVec 1) (g : BitVec 1)
  /-- LDX_S32 (R367): Loads 4 bytes from a + b × 4 and sign-extends them. -/
  | ldxS32 (d : BitVec 7) (a : BitVec 7) (b : BitVec 7) (f : BitVec 1) (g : BitVec 1)
  /-- STX_64 (R396): Stores 8 bytes at a + b × 8. -/
  | stx64 (d : BitVec 7) (a : BitVec 7) (b : BitVec 7) (f : BitVec 1) (g : BitVec 1)
  /-- STX_32 (R396): Stores 4 bytes at a + b × 4. -/
  | stx32 (d : BitVec 7) (a : BitVec 7) (b : BitVec 7) (f : BitVec 1) (g : BitVec 1)
  /-- LDV (R166): Loads a named version of a versioned page. -/
  | ldv (d : BitVec 7) (a : BitVec 7) (b : BitVec 7) (x : BitVec 3)
  /-- LDA (R369): Loads 8 bytes as an acquire at the scope. -/
  | lda (d : BitVec 7) (a : BitVec 7) (x : BitVec 3)
  /-- STR (R398): Stores 8 bytes as a release at the scope. -/
  | str (d : BitVec 7) (a : BitVec 7) (x : BitVec 3)
  /-- PTOG (R112): Converts a generic pointer to a global address. -/
  | ptog (d : BitVec 7) (a : BitVec 7) (f : BitVec 1)
  /-- PREF (R380): Prefetches each lane's line under the hint and never traps. -/
  | pref (a : BitVec 7) (h : BitVec 3)
  /-- FLSH (R356): Writes back the dirty SCO lines of the cluster cache at the scope. -/
  | flsh (x : BitVec 3)
  /-- INVL (R356): Writes back, then invalidates, the SCO lines of the L1 and the cluster cache. -/
  | invl (x : BitVec 3)
  /-- LDQ (R368): Loads 16 bytes into vn and v(n+1) as one single-copy atomic access. -/
  | ldq (d : BitVec 7) (a : BitVec 7) (f : BitVec 1)
  /-- STQ (R397): Stores vn and v(n+1) as one 16-byte single-copy atomic access. -/
  | stq (d : BitVec 7) (a : BitVec 7) (f : BitVec 1)
  /-- LD_S8 (R364): Loads one byte with sign extension. -/
  | ldS8 (d : BitVec 7) (a : BitVec 7) (i : BitVec 10)
  /-- LD_Z8 (R364): Loads one byte with zero extension. -/
  | ldZ8 (d : BitVec 7) (a : BitVec 7) (i : BitVec 10)
  /-- LD_S16 (R364): Loads 2 bytes with sign extension. -/
  | ldS16 (d : BitVec 7) (a : BitVec 7) (i : BitVec 10)
  /-- LD_Z16 (R364): Loads 2 bytes with zero extension. -/
  | ldZ16 (d : BitVec 7) (a : BitVec 7) (i : BitVec 10)
  /-- LD_S32 (R364): Loads 4 bytes with sign extension. -/
  | ldS32 (d : BitVec 7) (a : BitVec 7) (i : BitVec 10)
  /-- LD_Z32 (R364): Loads 4 bytes with zero extension. -/
  | ldZ32 (d : BitVec 7) (a : BitVec 7) (i : BitVec 10)
  /-- LD_64 (R364): Loads 8 bytes. -/
  | ld64 (d : BitVec 7) (a : BitVec 7) (i : BitVec 10)
  /-- ST_8 (R394): Stores one byte. -/
  | st8 (d : BitVec 7) (a : BitVec 7) (i : BitVec 10)
  /-- ST_16 (R394): Stores 2 bytes. -/
  | st16 (d : BitVec 7) (a : BitVec 7) (i : BitVec 10)
  /-- ST_32 (R394): Stores 4 bytes. -/
  | st32 (d : BitVec 7) (a : BitVec 7) (i : BitVec 10)
  /-- ST_64 (R394): Stores 8 bytes. -/
  | st64 (d : BitVec 7) (a : BitVec 7) (i : BitVec 10)
  /-- ADDI (R321): Adds a sign-extended immediate to a. -/
  | addi (d : BitVec 7) (a : BitVec 7) (i : BitVec 10)
  /-- ANDI (R321): Computes a AND a sign-extended immediate. -/
  | andi (d : BitVec 7) (a : BitVec 7) (i : BitVec 10)
  /-- ORI (R375): Computes a OR a sign-extended immediate. -/
  | ori (d : BitVec 7) (a : BitVec 7) (i : BitVec 10)
  /-- XORI (R388): Computes a XOR a sign-extended immediate. -/
  | xori (d : BitVec 7) (a : BitVec 7) (i : BitVec 10)
  /-- CMPI (R321): Compares a with an immediate as CMP.S does. -/
  | cmpi (a : BitVec 7) (i : BitVec 10)
  /-- SHLI (R387): Shifts a left by an immediate. -/
  | shli (d : BitVec 7) (a : BitVec 7) (i : BitVec 6)
  /-- SHRI (R387): Shifts a right logically by an immediate. -/
  | shri (d : BitVec 7) (a : BitVec 7) (i : BitVec 6)
  /-- SARI (R387): Shifts a right arithmetically by an immediate. -/
  | sari (d : BitVec 7) (a : BitVec 7) (i : BitVec 6)
  /-- MULI (R375): Multiplies a by a sign-extended immediate. -/
  | muli (d : BitVec 7) (a : BitVec 7) (i : BitVec 10)
  /-- MOVI (R377): Loads a sign-extended 17-bit immediate. -/
  | movi (d : BitVec 7) (i : BitVec 17)
  /-- MOVH (R377): Shifts d left by 17 and ORs in a 17-bit immediate. -/
  | movh (d : BitVec 7) (i : BitVec 17)
  /-- ADPC (R322): Writes pc plus a scaled displacement. -/
  | adpc (d : BitVec 7) (i : BitVec 17)
  /-- AADD (R311): Relaxed atomic 64-bit add at the scope. -/
  | aadd (d : BitVec 7) (a : BitVec 7) (b : BitVec 7) (x : BitVec 3)
  /-- AADD_W (R311): Relaxed atomic 32-bit add. -/
  | aaddW (d : BitVec 7) (a : BitVec 7) (b : BitVec 7) (x : BitVec 3)
  /-- AMIN_S (R311): Relaxed atomic signed minimum. -/
  | aminS (d : BitVec 7) (a : BitVec 7) (b : BitVec 7) (x : BitVec 3)
  /-- AMAX_S (R311): Relaxed atomic signed maximum. -/
  | amaxS (d : BitVec 7) (a : BitVec 7) (b : BitVec 7) (x : BitVec 3)
  /-- AMIN_Z (R311): Relaxed atomic unsigned minimum. -/
  | aminZ (d : BitVec 7) (a : BitVec 7) (b : BitVec 7) (x : BitVec 3)
  /-- AMAX_Z (R311): Relaxed atomic unsigned maximum. -/
  | amaxZ (d : BitVec 7) (a : BitVec 7) (b : BitVec 7) (x : BitVec 3)
  /-- AAND (R311): Relaxed atomic AND. -/
  | aand (d : BitVec 7) (a : BitVec 7) (b : BitVec 7) (x : BitVec 3)
  /-- AOR (R311): Relaxed atomic OR. -/
  | aor (d : BitVec 7) (a : BitVec 7) (b : BitVec 7) (x : BitVec 3)
  /-- AXOR (R311): Relaxed atomic XOR. -/
  | axor (d : BitVec 7) (a : BitVec 7) (b : BitVec 7) (x : BitVec 3)
  /-- AXCH (R311): Relaxed atomic exchange. -/
  | axch (d : BitVec 7) (a : BitVec 7) (b : BitVec 7) (x : BitVec 3)
  /-- ACAS (R311): Relaxed atomic 64-bit compare-and-swap. -/
  | acas (d : BitVec 7) (a : BitVec 7) (b : BitVec 7) (x : BitVec 3)
  /-- ACAS_W (R311): Relaxed atomic 32-bit compare-and-swap. -/
  | acasW (d : BitVec 7) (a : BitVec 7) (b : BitVec 7) (x : BitVec 3)
  /-- AFADD_F (R313): Relaxed atomic binary32 add, rounded RNE. -/
  | afaddF (d : BitVec 7) (a : BitVec 7) (b : BitVec 7) (x : BitVec 3)
  /-- AFADD_D (R313): Relaxed atomic binary64 add, rounded RNE. -/
  | afaddD (d : BitVec 7) (a : BitVec 7) (b : BitVec 7) (x : BitVec 3)
  /-- AINC (R311): Relaxed atomic wrapping increment. -/
  | ainc (d : BitVec 7) (a : BitVec 7) (b : BitVec 7) (x : BitVec 3)
  /-- ADEC (R311): Relaxed atomic wrapping decrement. -/
  | adec (d : BitVec 7) (a : BitVec 7) (b : BitVec 7) (x : BitVec 3)
  /-- AADD_AR (R311): Atomic 64-bit add with full fences at the scope. -/
  | aaddAr (d : BitVec 7) (a : BitVec 7) (b : BitVec 7) (x : BitVec 3)
  /-- AADD_W_AR (R311): Acquire-release atomic 32-bit add. -/
  | aaddWAr (d : BitVec 7) (a : BitVec 7) (b : BitVec 7) (x : BitVec 3)
  /-- AMIN_S_AR (R311): Acquire-release atomic signed minimum. -/
  | aminSAr (d : BitVec 7) (a : BitVec 7) (b : BitVec 7) (x : BitVec 3)
  /-- AMAX_S_AR (R311): Acquire-release atomic signed maximum. -/
  | amaxSAr (d : BitVec 7) (a : BitVec 7) (b : BitVec 7) (x : BitVec 3)
  /-- AMIN_Z_AR (R311): Acquire-release atomic unsigned minimum. -/
  | aminZAr (d : BitVec 7) (a : BitVec 7) (b : BitVec 7) (x : BitVec 3)
  /-- AMAX_Z_AR (R311): Acquire-release atomic unsigned maximum. -/
  | amaxZAr (d : BitVec 7) (a : BitVec 7) (b : BitVec 7) (x : BitVec 3)
  /-- AAND_AR (R311): Acquire-release atomic AND. -/
  | aandAr (d : BitVec 7) (a : BitVec 7) (b : BitVec 7) (x : BitVec 3)
  /-- AOR_AR (R311): Acquire-release atomic OR. -/
  | aorAr (d : BitVec 7) (a : BitVec 7) (b : BitVec 7) (x : BitVec 3)
  /-- AXOR_AR (R311): Acquire-release atomic XOR. -/
  | axorAr (d : BitVec 7) (a : BitVec 7) (b : BitVec 7) (x : BitVec 3)
  /-- AXCH_AR (R311): Acquire-release atomic exchange. -/
  | axchAr (d : BitVec 7) (a : BitVec 7) (b : BitVec 7) (x : BitVec 3)
  /-- ACAS_AR (R311): Acquire-release atomic 64-bit compare-and-swap. -/
  | acasAr (d : BitVec 7) (a : BitVec 7) (b : BitVec 7) (x : BitVec 3)
  /-- ACAS_W_AR (R311): Acquire-release atomic 32-bit compare-and-swap. -/
  | acasWAr (d : BitVec 7) (a : BitVec 7) (b : BitVec 7) (x : BitVec 3)
  /-- AFADD_F_AR (R313): Acquire-release atomic binary32 add. -/
  | afaddFAr (d : BitVec 7) (a : BitVec 7) (b : BitVec 7) (x : BitVec 3)
  /-- AFADD_D_AR (R313): Acquire-release atomic binary64 add. -/
  | afaddDAr (d : BitVec 7) (a : BitVec 7) (b : BitVec 7) (x : BitVec 3)
  /-- AINC_AR (R311): Acquire-release atomic wrapping increment. -/
  | aincAr (d : BitVec 7) (a : BitVec 7) (b : BitVec 7) (x : BitVec 3)
  /-- ADEC_AR (R311): Acquire-release atomic wrapping decrement. -/
  | adecAr (d : BitVec 7) (a : BitVec 7) (b : BitVec 7) (x : BitVec 3)
  /-- BR (R324): Branches per lane under a condition. -/
  | br (c : BitVec 4) (p : BitVec 20)
  /-- BRG (R44): Branches and empties the group into bins for regrouping. -/
  | brg (c : BitVec 4) (p : BitVec 20)
  /-- CALL (R326): Writes pc + 4 to o15 and branches. -/
  | call (p : BitVec 20)
  /-- RET (R382): Sets each lane's pcv to o15. -/
  | ret
  /-- JMP (R357): Jumps to the address in a, per lane. -/
  | jmp (a : BitVec 7)
  /-- JMPL (R357): Jumps to a and writes pc + 4 to d. -/
  | jmpl (d : BitVec 7) (a : BitVec 7)
  /-- SPAWN (R43): Creates one new thread of the team for each lane of E and puts its record into bins. -/
  | spawn (d : BitVec 7) (a : BitVec 7) (b : BitVec 7)
  /-- EXIT (R344): Ends the lanes of E, frees their tids and runs CheckRelease. -/
  | exit
  /-- YIELD (R270): Saves the group's registers when a pre-emption request is pending; otherwise only advances pcv. -/
  | yield
  /-- RESM (R269): Resumes a ready parked frame, or reports that it is not ready. -/
  | resm (d : BitVec 7) (a : BitVec 7)
  /-- WINB (R410): Sets the group's window base WBASE. -/
  | winb (m : BitVec 7)
  /-- NOP (R379): Advances pcv only. -/
  | nop
  /-- TRAP (R400): Raises cause TRAP at TVEC with the code given. -/
  | trap (c : BitVec 7)
  /-- ERET (R265): Returns the trapped lanes to EPC, or to their kept statuses, in user mode. -/
  | eret
  /-- BKPT (R329): Raises cause BKPT with the code given. -/
  | bkpt (c : BitVec 7)
  /-- SVC (R400): Raises cause SVC at TVEC with the code given. -/
  | svc (c : BitVec 7)
  /-- JOIN (R358): Adds the lanes of E to mask k. -/
  | join (k : BitVec 7)
  /-- LEAVE (R372): Removes the lanes of E from mask k and runs CheckRelease. -/
  | leave (k : BitVec 7)
  /-- WAITK (R37): Makes the members of E wait on mask k until every member arrives. -/
  | waitk (k : BitVec 7)
  /-- KGET (R359): Copies mask k into a register. -/
  | kget (k : BitVec 7) (a : BitVec 7)
  /-- KSET (R360): Sets mask k from a register and runs CheckRelease. -/
  | kset (k : BitVec 7) (a : BitVec 7)
  /-- KLOG (R361): Combines masks with a logical operation and runs CheckRelease. -/
  | klog (k : BitVec 7) (j : BitVec 7) (m : BitVec 7) (op : BitVec 3)
  /-- BART (R327): Arrives at the team barrier, and the lanes wait until the phase releases. -/
  | bart
  /-- BARG (R328): Arrives at the grid barrier of a cooperative grid. -/
  | barg
  /-- WAITA (R407): Waits while a memory word equals, or differs from, a comparand. -/
  | waita (d : BitVec 7) (a : BitVec 7) (b : BitVec 7) (op : BitVec 3)
  /-- FENCE (R353): Orders the thread's accesses by kind and scope. -/
  | fence (k : BitVec 7) (x : BitVec 3)
  /-- CSRR (R332): Reads a control register. -/
  | csrr (d : BitVec 7) (n : BitVec 7)
  /-- CSRW (R333): Writes a control register that has no row of its own. -/
  | csrw (a : BitVec 7) (n : BitVec 7)
  /-- MMA (R227): Issues a matrix multiply-accumulate of two fragments into a tile, or a tile pair. -/
  | mma (d : BitVec 7) (a : BitVec 7) (b : BitVec 7) (x : BitVec 3)
  /-- MDRN (R230): Drains a tile into registers, with conversion and optional scales. -/
  | mdrn (d : BitVec 7) (a : BitVec 7) (b : BitVec 7) (c : BitVec 3)
  /-- MZRO (R229): Zeroes a tile. -/
  | mzro (d : BitVec 7)
  /-- MFIL (R229): Fills a tile from registers. -/
  | mfil (d : BitVec 7) (a : BitVec 7)
  /-- MSAV (R232): Saves the 32 KiB tile image to memory and frees the accumulator store. -/
  | msav (a : BitVec 7)
  /-- MRST (R232): Restores the tile image and claims the accumulator store. -/
  | mrst (a : BitVec 7)
  /-- BCPY (R233): Reads a box-copy descriptor and hands the operation to the BCE. -/
  | bcpy (a : BitVec 7)
  /-- WTAL (R241): Waits until every masked tag is ready. -/
  | wtal (a : BitVec 7)
  /-- WTAN (R241): Waits until some masked tag is ready and returns its index. -/
  | wtan (d : BitVec 7) (a : BitVec 7)
  /-- FFRT (R354): Returns the lowest ready masked tag, or −1, without waiting. -/
  | ffrt (d : BitVec 7) (a : BitVec 7)
  /-- TGCL (R401): Clears the ready bit and the error of each masked tag that is not in flight. -/
  | tgcl (a : BitVec 7)
  /-- COLL (R292): Issues a collective descriptor to the fabric engine. -/
  | coll (a : BitVec 7)
  /-- CDEC (R335): Releases at .pkg, then decrements counted-launch counters. -/
  | cdec (a : BitVec 7)
  /-- LOCK (R190): Requests resources in a mode, waiting or wounding under wound-wait. -/
  | lock (d : BitVec 7) (a : BitVec 7) (m : BitVec 3)
  /-- LCKT (R190): Tries to lock resources without waiting or wounding. -/
  | lckt (d : BitVec 7) (a : BitVec 7) (m : BitVec 3)
  /-- ULCK (R192): Lowers or releases the team's mode on a resource. -/
  | ulck (d : BitVec 7) (a : BitVec 7) (m : BitVec 3)
  /-- LUPG (R191): Escalates a held mode ahead of other waiters. -/
  | lupg (d : BitVec 7) (a : BitVec 7) (m : BitVec 3)
  /-- TSKB (R196): Opens a guarded task with an abort address. -/
  | tskb (d : BitVec 7) (a : BitVec 7)
  /-- TSKE (R200): Commits the guarded task at one indivisible instant. -/
  | tske
  /-- TSKA (R201): Aborts the open guarded task. -/
  | tska
  /-- PUBL (R169): Publishes the open version of a domain and advances O. -/
  | publ (d : BitVec 7) (a : BitVec 7)
  /-- RETV (R170): Retires every version of a domain below v. -/
  | retv (d : BitVec 7) (a : BitVec 7) (b : BitVec 7)
  /-- VQRY (R171): Returns the published version with acquire at .sys. -/
  | vqry (d : BitVec 7) (a : BitVec 7)
  /-- REP (R83): Issues the next word up to 64 times, stepping its register fields. -/
  | rep (n : BitVec 6) (p : BitVec 1) (q : BitVec 1) (r : BitVec 1) (x : BitVec 2)
  /-- RECORD_ARRIVAL (R95): A thread record arrives over the mesh into the arrival buffer and enters a bin. -/
  | recordArrival (core : Nat) (n : Nat)
  /-- ARRIVAL_BUFFER_REFILL (R40): The arrival buffer takes records back from the spill or the ring in FIFO order when it has room. -/
  | arrivalBufferRefill (core : Nat)
  /-- OVERFLOW_RING_DRAIN (R97): A core drains its arrival overflow ring into its arrival buffer. -/
  | overflowRingDrain (grid : Nat) (core : Nat)
  /-- DEPARTURE_WAIT_TIMEOUT (R95): After 4,096 clocks a waiting record is written to the target's overflow ring. -/
  | departureWaitTimeout (gid : Nat)
  /-- BRG_WAIT_TIMEOUT (R44): After 4,096 clocks a waiting BRG places every record without further waiting. -/
  | brgWaitTimeout (gid : Nat)
  /-- BIN_TIMER_EXPIRE (R41): A bin's timer expires, making the bin able to launch. -/
  | binTimerExpire (core : Nat) (bin : Nat)
  /-- BIN_LAUNCH (R41): A bin launches one group once a slot and the lane-registers are free. -/
  | binLaunch (core : Nat) (bin : Nat)
  /-- GROUP_PARK (R47): A group whose lanes have waited 16,384 clocks at BART or WAITK is parked to its core's park area. -/
  | groupPark (gid : Nat)
  /-- GROUP_REFORM (R47): A parked group re-forms in its old lanes once its barrier releases and a slot is free. -/
  | groupReform (gid : Nat)
  /-- GROUP_BOOST (R258): A group that has been ready for 256 clocks without issuing is boosted. -/
  | groupBoost (gid : Nat)
  /-- OCCUPANCY_REPORT (R93): Each core reports its waiting-record count to the placement at least once every 256 clocks. -/
  | occupancyReport (core : Nat)
  /-- REPLICATION_WINDOW (R105): At the end of each 4,096-clock window the scheduler measures segment occupancy and may start a replication. -/
  | replicationWindow (grid : Nat)
  /-- REPLICA_ADD (R106): After the chosen core has drained, the scheduler loads the new segment and sets a REPL slot. -/
  | replicaAdd (grid : Nat)
  /-- BART_ARRIVAL (R100): An arrival message reaches the home core and counts towards the BART phase. -/
  | bartArrival (team : Nat) (tid : Nat)
  /-- REGISTER_FILL (R58): A long-class value arrives, is written to its register and sets the register full. -/
  | registerFill (gid : Nat) (frame : Nat) (lane : Nat) (reg : Nat)
  /-- RDS (R131): The home handles a shared read request. -/
  | rds (cl : Nat) (line : Nat)
  /-- RDX (R131): The home handles an exclusive read request. -/
  | rdx (cl : Nat) (line : Nat)
  /-- UPG (R132): The home handles an upgrade, converting it to RdX when the requester no longer holds the line. -/
  | upg (cl : Nat) (line : Nat)
  /-- RDU (R131): The home handles a request to enter U(k). -/
  | rdu (cl : Nat) (line : Nat) (kind : Nat)
  /-- WRL (R130): The home handles a whole-line store of one group as one event. -/
  | wrl (cl : Nat) (line : Nat) (bytes : Nat)
  /-- PUTE (R131): The home absorbs a clean eviction from E. -/
  | pute (cl : Nat) (line : Nat)
  /-- WB (R131): The home absorbs a dirty eviction, holding it when a forward to the owner is open. -/
  | wb (cl : Nat) (line : Nat)
  /-- WBU (R129): The home combines an evicted U partial. -/
  | wbu (cl : Nat) (line : Nat)
  /-- ACK (R131): The home takes an invalidation acknowledgement. -/
  | ack (cl : Nat) (line : Nat)
  /-- FWDACK (R131): The home records the new owner when a forward closes. -/
  | fwdack (cl : Nat) (line : Nat)
  /-- PARTIAL_RETURN (R129): The home combines a returned partial and grants the waiting request after the last one. -/
  | partialReturn (cl : Nat) (line : Nat)
  /-- MEMORY_DATA (R131): Data from memory reaches a home in H.IM. -/
  | memoryData (line : Nat)
  /-- INV (R132): A cluster cache answers an invalidation. -/
  | inv (cl : Nat) (line : Nat)
  /-- FWDS (R132): The owner sends the line to the requester and keeps O or S. -/
  | fwds (cl : Nat) (line : Nat)
  /-- FWDX (R132): The owner sends the line to the requester and goes to I. -/
  | fwdx (cl : Nat) (line : Nat)
  /-- RCL (R131): The owner returns the line to the home. -/
  | rcl (cl : Nat) (line : Nat)
  /-- COLL_MESSAGE (R129): A U holder finishes its reductions and returns its partial. -/
  | collMessage (cl : Nat) (line : Nat)
  /-- DATA (R131): A requester receives a Data or Ack grant. -/
  | data (cl : Nat) (line : Nat)
  /-- WBACK (R132): An agent frees its writeback buffer. -/
  | wback (cl : Nat) (line : Nat)
  /-- CLUSTER_EVICTION (R131): A cluster cache evicts a line and sends WB, WBU or PutE, or drops an S line silently. -/
  | clusterEviction (cl : Nat) (line : Nat)
  /-- LLC_EVICTION (R126): The LLC recalls a line from its holders before evicting it. -/
  | llcEviction (line : Nat)
  /-- SPILL_QUEUE_DRAIN (R133): A slice takes requests back from the spill queue in FIFO order as entries free. -/
  | spillQueueDrain (slice : Nat)
  /-- PAGE_WALK (R119): A translation walk completes and fills the TLBs, or raises PAGE. -/
  | pageWalk (core : Nat) (ctx : Nat) (va : Nat)
  /-- TRANSLATION_INVALIDATION (R118): The CP invalidates the translations of a context and a virtual range. -/
  | translationInvalidation (ctx : Nat) (lo : Nat) (hi : Nat)
  /-- COPY_ON_WRITE_COMPLETE (R172): Damson inserts the new record, remaps the leaf and releases the held stores. -/
  | copyOnWriteComplete (ctx : Nat) (va : Nat)
  /-- VPOOL_RESUME (R173): A group stalled on VPOOL issues again once the pool holds a frame. -/
  | vpoolResume (gid : Nat)
  /-- FRAME_RECLAIM (R170): Damson reclaims in the background frames below L and HOLDMIN to their pools. -/
  | frameReclaim (ctx : Nat) (dom : Nat) (page : Nat)
  /-- WAITA_RELEASE (R407): The home evaluates a write and releases a waiting WAITA lane with acquire. -/
  | waitaRelease (gid : Nat) (lane : Nat)
  /-- WOUND_DELIVERY (R193): A group receives the wound: its task aborts, or it enters WNDV. -/
  | woundDelivery (gid : Nat)
  /-- WOUND_DEADLINE_EXPIRY (R194): When WDEAD expires, Quince revokes the team's locks and its groups take LKREVOKE. -/
  | woundDeadlineExpiry (team : Nat)
  /-- LKMAT_WRITE (R183): A CSRW to LKMAT0 or LKMAT1 completes when every home slice holds the new matrix. -/
  | lkmatWrite (ctx : Nat)
  /-- MMA_RETIRE (R227): An MMA retires and accumulates into its tile or tiles, and its flags go to FPSR. -/
  | mmaRetire (core : Nat)
  /-- BCE_COMPLETE (R239): A BCE operation finishes, performs its release and sets its tag. -/
  | bceComplete (team : Nat) (tag : Nat)
  /-- CONTEXT_CREATE (R243): System software creates a context through the CP. -/
  | contextCreate (root : Nat) (domTab : Nat) (dies : Nat) (ctrLo : Nat) (ctrN : Nat) (qLo : Nat) (qN : Nat)
  /-- QUEUE_REGISTER (R244): System software registers a user-queue descriptor with the CP. -/
  | queueRegister (ctx : Nat) (q : Nat) (addr : Nat)
  /-- QUEUE_WAKE (R249): The address monitor sees WIDX ≠ RIDX and the queue becomes READY. -/
  | queueWake (q : Nat)
  /-- SLOT_GRANT (R250): The HQS grants a free slot to a READY queue, or unmaps one for a deadline queue. -/
  | slotGrant
  /-- PACKET_TAKE (R245): The HQS reads a packet whole and advances RIDX. -/
  | packetTake (q : Nat)
  /-- QUANTUM_EXPIRY (R250): A quantum expires and, when a READY queue waits, the queue is unmapped and pre-empted. -/
  | quantumExpiry (q : Nat)
  /-- QUEUE_UNMAP (R249): A mapped queue with no work goes IDLE and frees its slot. -/
  | queueUnmap (q : Nat)
  /-- TEAM_PLACEMENT (R254): The distributor places a team on the best-scoring core once it fits. -/
  | teamPlacement (grid : Nat)
  /-- DEADLINE_PREQ (R253): Before DEADLINE, the HQS raises PREQ for every team of a deadline launch. -/
  | deadlinePreq (grid : Nat)
  /-- DEADLINE_FORCED (R253): At DEADLINE − 2 µs, the remaining teams are stopped and DEADLINE_FORCED is recorded. -/
  | deadlineForced (grid : Nat)
  /-- TEAM_END (R345): After its accesses and engines complete, a team releases its locks and resources. -/
  | teamEnd (team : Nat)
  /-- COUNTER_DECREMENT (R259): The CP applies a counter decrement. -/
  | counterDecrement
  /-- LINK_SHARE_WINDOW (R257): Each 1 µs window the FE counts a context's remote bytes against SHARE. -/
  | linkShareWindow (ctx : Nat)
  /-- TVEC_ENTRY (R264): After any MMA retires, the group enters supervisor mode at TVEC with the trap record written. -/
  | tvecEntry (gid : Nat)
  /-- CONTV_ENTRY (R266): The group is parked into a frame and continues at CONTV or WNDV. -/
  | contvEntry (gid : Nat)
  /-- FRAME_READY (R267): A parked frame becomes ready and sets the CONTT tag. -/
  | frameReady (gid : Nat) (frame : Nat)
  /-- SERVICE_REPLY (R271): The control cores give a record's SEQ to the CP, and the stalled group re-issues. -/
  | serviceReply (seq : Nat)
  /-- FAULT_BUFFER_DRAIN (R277): The fault buffer drains into the event queue, oldest first, as room appears. -/
  | faultBufferDrain (die : Nat)
  /-- UNCORRECTABLE_ERROR (R277): An uncorrectable error is reported, and stops its die when the reserve is full. -/
  | uncorrectableError (core : Nat) (pa : Nat)
  /-- CORRECTED_ERROR (R277): A corrected error is counted into a kind 1 record. -/
  | correctedError (core : Nat) (pa : Nat)
  /-- PREEMPT_REQUEST (R270): The CP sets PREQ.REQ and loads LEFT from YLIM. -/
  | preemptRequest (team : Nat)
  /-- FORCED_SAVE (R273): When LEFT reaches 0, a group is saved instruction-precisely. -/
  | forcedSave (gid : Nat)
  /-- PARTITION_SWAP (R275): A die partition is saved to its shadow region. -/
  | partitionSwap (part : Nat)
  /-- PARTITION_RESTORE (R274): A partition's saved groups, records and waits are restored. -/
  | partitionRestore (part : Nat)
  /-- PACKET_RECEIVE (R282): A receiver checks and accepts a fabric packet in RSN order, or drops it. -/
  | packetReceive (src : Nat) (plane : Nat) (hdr : Nat) (body : List Byte) (key : Nat) (ctr : Nat) (intact : Bool)
  /-- RETRY_RESEND (R282): A sender resends from the oldest unacknowledged RSN. -/
  | retryResend (peer : Nat) (plane : Nat)
  /-- LINK_BRING_UP (R288): Link bring-up learns each peer's incarnation and zeroes the nonce counters. -/
  | linkBringUp (peer : Nat) (inc : Nat)
  /-- KEY_LOAD (R287): A key agreed over SPDM is loaded into the idle bank. -/
  | keyLoad (peer : Nat) (dir : Nat) (key : Nat)
  /-- KEY_CONFIRM (R287): The peer confirms the load, and the sender flips KG. -/
  | keyConfirm (peer : Nat)
  /-- REMOTE_REQUEST (R286): A target checks a remote request against its access table and performs or refuses it. -/
  | remoteRequest (src : Nat) (ctx : Nat) (kind : Nat) (addr : Nat) (len : Nat) (rtag : Nat) (op : Nat) (payload : List Byte) (mask : Nat)
  /-- REMOTE_RESPONSE (R290): The responses of a remote-access instruction return and complete it, or trap it. -/
  | remoteResponse (rtag : Nat) (status : Nat) (payload : List Byte)
  /-- ACCESS_TABLE_WRITE (R285): The control cores write an ingress access-table entry through the CP. -/
  | accessTableWrite (idx : Nat) (base : Nat) (limit : Nat) (word2 : Nat)
  /-- COLLECTIVE_GROUP_REGISTER (R291): System software registers a collective group on a member. -/
  | collectiveGroupRegister (group : Nat) (ctx : Nat) (members : List Nat) (staging : Nat)
  /-- COLLECTIVE_PACKET (R294): An arriving collective packet is checked and staged at a member. -/
  | collectivePacket (src : Nat) (ctx : Nat) (group : Nat) (seq : Nat) (dhash : Nat) (ops : List Nat) (offset : Nat) (nbytes : Nat) (ovh : Bool) (payload : List Byte)
  /-- COLLECTIVE_HOP (R294): Once the matching COLL has issued, a staged packet's hop is processed. -/
  | collectiveHop (n : Nat)
  /-- COLL_COMPLETE (R296): A COLL releases, writes its completion record and sets its tag. -/
  | collComplete (team : Nat) (tag : Nat)
  /-- HOST_MEM_ACCESS (R299): A host CXL.mem access is performed on a die's HBM. -/
  | hostMemAccess (die : Nat) (addr : Nat) (write : Bool) (len : Nat) (payload : List Byte)
  /-- HOST_UNBIND (R301): A host unbind is deferred until no context is resident. -/
  | hostUnbind (die : Nat)
  /-- PACKAGE_RESET (R304): Package reset increments the incarnation, zeroes the measurements and reruns boot. -/
  | packageReset (digests : List (BitVec 256)) (signed : List Bool)
  /-- GET_MEASUREMENTS (R303): An SPDM request returns the signed measurement registers. -/
  | getMeasurements (port : Nat) (nonce : Nat)
  /-- MANAGEMENT_REQUEST (R305): A management request over an SPDM secure session is accepted. `via` is the session's number and
  the key under which the request is sealed, and so for a
  trigger, which has none by the pin. -/
  | managementRequest (via : Nat × Nat) (kind : Nat) (arg : Nat) (value : Nat)
  /-- POWER_LIMIT_WRITE (R15): The package power limit is set through the management port. -/
  | powerLimitWrite (watts : Sealed)
  /-- STAGING_SETTING (R295): The number of HBM staging pseudo-channels per stack is set. -/
  | stagingSetting (stack : Sealed) (n : Nat)
  /-- THERMAL_HOLD (R306): A die sensor above 95 °C holds MMA issue until all sensors fall below 92 °C. -/
  | thermalHold (die : Nat) (temp : Nat)
  /-- THERMAL_STOP (R306): At 105 °C every core stops issue until all sensors fall below 95 °C. -/
  | thermalStop (die : Nat) (temp : Nat)
  /-- THERMAL_CLEAR (R306): All sensors fall below the release threshold and issue resumes. -/
  | thermalClear (temps : List Nat)
  /-- SNAPSHOT_TRIGGER (R308): The trigger captures the snapshot registers when armed, or increments MISSED. -/
  | snapshotTrigger (via : Option (Nat × Nat))
  /-- SNAPSHOT_ARM (R308): Writing ARM = 1 releases a frozen capture and arms the next one. -/
  | snapshotArm
  /-- SNAPSHOT_MISSED_CLEAR (R308): A write of one to MISSED clears it. -/
  | snapshotMissedClear (bits : Sealed)
  /-- RESERVED_ENCODING (R80): A group issues a word with a reserved OP, a reserved code or a nonzero must-be-zero field, and the word raises ILL with no effect. -/
  | reservedEncoding (word : IWord)
  /-- FETCH_FAULT (R69): A group's issue address is misaligned, lies outside the global window or fails translation, and the fetch raises ALIGN, NOADDR, PAGE or PROT. -/
  | fetchFault
  /-- HOME_ATOMIC (R131): A home takes an atomic request to be performed at the home, recalling the owner and sharers first. -/
  | homeAtomic (cl : Nat) (line : Nat) (off : Nat) (op : Nat) (arg : Nat) (cmp : Nat)
  /-- HOST_BIND (R300): A host binds a compute die's logical device to a virtual hierarchy, placing the die in a partition. -/
  | hostBind (die : Nat) (vh : Nat)
  /-- CXL_LINK_TRAINING (R299): CXL link training on the host port brings up CXL.io and CXL.mem and refuses a request for CXL.cache. -/
  | cxlLinkTraining (wantsCache : Bool)
  deriving DecidableEq, Repr

end Sys2Proof
end

