-- ==== Sys2Proof/Machine/State.lean ====
section
/-!
DEFINITION. The state of the package: plain data that holds every piece of state the manual gives the machine, and its
value after package reset. INVENTORY.md lists every field with the rule that names it. Numbers that name things (cores,
dies, clusters, teams, groups, lanes, contexts, queues, addresses of memory cells) are natural numbers; what software
sees as bits is a bit vector.
-/
namespace Sys2Proof.Machine

/-- The causes of R263. -/
inductive Cause where
  | ill | priv | winov | empty | align | noaddr | page | prot | vret | vfut | vpool | fpx | wound | lkhier | lkrevoke
  | tskcap | tskeng | brentry | brovf | mown | collmism | peerrst | fabdeny | engerr | bkpt | trap | svc | preempt
  | deadline
  deriving DecidableEq, Repr

/-- Why the machine stops with a fault: for no reason at all. Whatever the manual forbids it answers with an effect, a trap
or a refusal of the request that asked (R113, R262, R286), so no step of the model ends so. -/
inductive Fault where
  deriving DecidableEq, Repr

/-- Why a step has no meaning in the model. -/
inductive Refusal where
  /-- An arm of exec whose instruction has no meaning yet. Safe: the machine stops. -/
  | notModelled (mnemonic : String)
  /-- An access to a device register (physical 0xFF_0000_0000_0000 and up, R113): the manual lists no register there and
  says no behaviour. Raised by a program's load of a DEV page in that range, by a BCPY element's read there, and by a
  control core's load or store. Safe: the machine stops. -/
  | deviceRegister (pa : Nat)
  deriving DecidableEq, Repr

/-- Where a register lives (R49, R54): a main-file register by its number, an o register, a q register of the group, or
nowhere (z). -/
inductive RKey where
  | v (n : Nat)
  | o (n : Nat)
  | q (n : Nat)
  | none
  deriving DecidableEq, Repr

/-- Lane status (R29). A lane at WAITK names its mask; a lane at BART or BARG carries which of the two it is and the
number of the phase that it waits for. A lane is parked where its group stands in the park area (`GLoc.parkArea`) or its
state in a frame (`Frame`), which keep the status it takes back. -/
inductive LaneStatus where
  | ready
  | waitK (k : Nat)
  | waitB (grid : Bool) (phase : Nat)
  | waitA
  | exited
  | departed
  deriving DecidableEq, Repr

/-- What brings a long-class write: a load or a read of the ray instructions, which completes before a wound is delivered
(R371, R386); an LDA, behind whose value the thread's later accesses wait besides (R369); or something else. -/
inductive PendBy where
  | other | load | lda
  deriving DecidableEq, Repr

/-- A long-class write in flight (R54, R58): the register it is bound to, the value that will arrive, what brings it, for a
q register the lanes that issued it (R353), and, for an LDV, the context, the domain and the version it resolved
(R170). -/
structure Pend where
  key : RKey := .none
  val : Word := 0
  by_ : PendBy := .other
  lanes : Nat := 0
  ldv : Option (Nat × Nat × Nat) := none
  deriving DecidableEq, Repr

/-- A thread (R22, R28): tid, v registers by main-file number and o registers (an unlisted one holds zero), the
registers whose bit is empty, NZCV, the sticky flags IV DZ OF UF NX in bits 4 to 0 (R63), and the writes in flight. -/
structure Thread where
  tid : Nat := 0
  v : Tab Word := []
  o : Tab Word := []
  empties : List RKey := []
  nzcv : BitVec 4 := 0
  fpsr : BitVec 5 := 0
  pend : List Pend := []
  deriving DecidableEq, Repr

/-- A physical lane (R21, R28): occupancy, status, pcv, lat, the thread it holds, and the address at which a wait released
it, until it issues again (R92). -/
structure Lane where
  occ : Bool := false
  status : LaneStatus := .exited
  pcv : Word := 0
  lat : Word := 0
  th : Thread := {}
  freed : Option Word := none
  deriving DecidableEq, Repr

/-- The state of a group that parking, a frame and a save take with them (R28, R261): lanes, masks, uniform registers
with their empty bits and writes in flight, window base, REPI, the REP in progress (its address and its executing set,
R83), the trap record, the mode, and the statuses that R434 keeps. -/
structure GState where
  lanes : List Lane := []
  k : Tab (BitVec 64) := []
  q : Tab Word := []
  qEmpty : List Nat := []
  qPend : List Pend := []
  wbase : Nat := 0
  repi : Nat := 0
  repPc : Option Word := none
  repE : Nat := 0
  /-- The REP in progress is the handler's own (R82). -/
  repSup : Bool := false
  sup : Bool := false
  /-- The lanes that the trap made runnable; they stay so until ERET whatever TLANES holds (R264). -/
  supRun : Nat := 0
  cause : Word := 0
  epc : Word := 0
  tval : Word := 0
  tlanes : BitVec 64 := 0
  ttask : BitVec 32 := 0
  kept : Option (List (LaneStatus × Word × Option Word)) := none
  deriving DecidableEq, Repr

/-- Where a group is: on its core, in its core's park area (R47, R99), or in a saved team image (R273). -/
inductive GLoc where
  | onCore
  | parkArea
  | saved
  deriving DecidableEq, Repr

/-- A frame pool: of a context's domain, in HBM or in the second tier (R165). -/
structure Pool where
  ctx : Nat
  dom : Nat
  tier2 : Bool
  deriving DecidableEq, Repr

/-- What a group waits for at its instruction, beyond an empty register. -/
inductive Wait where
  /-- Nothing. -/
  | none
  /-- LOCK or LUPG has requests queued (R190). -/
  | lock
  /-- WTAL or WTAN (R241), or an engine operation on the tag (R233). -/
  | tag
  /-- A PAGE fault with CONTV zero, until the service reply to this record (R262). -/
  | page (seq : Nat)
  /-- A VPOOL fault with CONTV zero, until the pool holds a frame (R173). -/
  | pool (p : Pool)
  /-- A store to a page under copy-on-write, by its virtual page number (R172). -/
  | cow (ctx vpage : Nat)
  /-- The copy is complete: the store issues once more, before anything else reaches the group (R172, R399). -/
  | again
  /-- An access that would take data with an uncorrectable error, or translate by it (R277). -/
  | bad
  /-- A remote access until its responses return (R290). -/
  | remote
  /-- BRG or a departure that waits for room for a record (R44, R95), by the clock at which the wait began. -/
  | room (core : Nat) (since : Nat)
  /-- An MMA of the core in flight, or an MMA hold (R15, R223, R229). -/
  | mma
  /-- BRG waits for the group's MMA (R44): nothing interrupts it. -/
  | brg
  /-- An instruction waits, behind its own checks, for registers to be full or writes to arrive: a repeat of a REP, an MMA for
  its fragments, a YIELD, a TSKE (R82, R200, R227, R270). -/
  | regs
  /-- XRD waits for the register of another thread (R412). -/
  | xrd
  /-- An LDV of a version that RETV retires is outstanding (R170). -/
  | ldv
  /-- A FENCE waits for the reads of its lanes (R353): a wound and a forced save come after it. -/
  | fence
  /-- A YIELD that has aborted the group's task waits for the group's registers and MMA (R270). -/
  | yield
  /-- A write of LKMAT0 or LKMAT1 is on its way to the home slices (R183). -/
  | lkmat
  deriving DecidableEq, Repr

/-- A request to another package that an instruction has still to send (R122, R289): the package, the kind (0 read,
1 write, 2 atomic), the address, the operation, each access that it merges (lane, offset in the block, bytes, offset in
the value), the byte mask, the data, and the virtual ranges that it serves. The package itself stands for its own host
memory. -/
structure RemAsk where
  peer : Nat
  kind : Nat
  pa : Nat
  op : Nat
  parts : List (Nat × Nat × Nat × Nat)
  mask : Nat
  data : List Byte
  vas : List (Nat × Nat)
  deriving DecidableEq, Repr

/-- A trap that waits for its entry: for the group's MMA in flight (R223), or for room for its event record (R277). -/
structure TrapDue where
  cause : Cause
  tval : Word
  epc : Word
  lanes : Nat
  /-- It reached the group at no instruction (R434): a wound at TVEC, or a revocation. -/
  async : Bool
  task : Nat
  deriving DecidableEq, Repr

/-- A group (R21, R24, R28): beside its state, its core, slot, group number, team, width W and registers per lane R, its
place, the open task (TASKID), what it waits for, and what is due to it. -/
structure Group extends GState where
  core : Nat := 0
  slot : Nat := 0
  num : Nat := 0
  team : Nat := 0
  W : Nat := 16
  R : Nat := 16
  loc : GLoc := .onCore
  taskId : Nat := 0
  wait : Wait := .none
  trapDue : Option TrapDue := none
  woundDue : Bool := false
  revokeDue : Bool := false
  /-- Statuses of the requests of a LOCK or LUPG in progress: descriptor and status, `none` while queued (R190). -/
  lockSt : List (Nat × Option Nat) := []
  /-- A departure or a BRG in progress (R44, R93): the lanes still to be sent, with their targets and whether they go to
  the bins of this core, and the next addresses of the lanes that stay. -/
  depart : Option (List (Nat × Word × Bool) × List (Nat × Word)) := none
  /-- The lanes of E as they stood before the departing instruction (R93). -/
  before : List (Nat × Lane) := []
  /-- The wait for room was cut short (R44, R95). -/
  force : Bool := false
  /-- Results of the remote accesses of the instruction in progress: lane, status and value (R290). -/
  remote : List (Nat × Nat × Nat) := []
  /-- Requests of the instruction in progress that go out one after the other (R122). -/
  asks : List RemAsk := []
  /-- Fetches from another package that have returned for the instruction at hand (R113): address, status and bytes. -/
  fetched : List (Nat × Nat × List Byte) := []
  /-- The address and the lanes of an instruction that blocks or waits (R59, R85). -/
  latched : Option (Word × Nat) := none
  /-- Destinations that a waiting instruction keeps empty (R58): lane and register. -/
  marks : List (Nat × RKey) := []
  /-- The team was stopped with a store of this group held: the store issues once more (R253). -/
  last : Bool := false
  /-- A copy that the store waits for found the pool empty (R173). -/
  noPool : Option Pool := none
  /-- The tick at which the group formed, at which it last became ready, and at which it was boosted (R258). -/
  formedAt : Nat := 0
  readyAt : Nat := 0
  boosted : Option Nat := none
  /-- What the group waits for, beyond an empty register, has come: it is ready (R258). -/
  able : Bool := false
  /-- The tick from which every occupied lane has waited at BART, BARG or WAITK (R47). -/
  waitingSince : Option Nat := none
  deriving DecidableEq, Repr

/-- When a parked frame is ready (R267). -/
inductive FrameWait where
  | full
  | reply (seq : Nat)
  | pool (p : Pool)
  | now
  deriving DecidableEq, Repr

/-- A parked frame (R266): the group that holds it, the state, when it is ready, and whether its tag has been set. -/
structure Frame where
  gid : Nat
  st : GState
  until_ : FrameWait
  tagged : Bool
  deriving DecidableEq, Repr

/-- A thread record (R42, R93, R94): the team, the thread with its registers, the target address, and for a Bramble
record its segment, entry and live counts; the tick at which it came to its core. What a wound or a revocation still
owes the thread stands with its team (R103, R194). -/
structure Rec where
  team : Nat
  th : Thread
  tgt : Word
  bramble : Bool := false
  seg : Nat := 0
  ent : Nat := 0
  lv : Nat := 0
  lo : Nat := 0
  came : Nat := 0
  deriving DecidableEq, Repr

/-- A bin (R40, R41): its key, its records in order of arrival, the tick at which its timer runs out, and the tick at
which its first record came to the core. -/
structure Bin where
  team : Nat
  addr : Word
  recs : List Rec
  expires : Nat
  since : Nat
  /-- The timer has expired (R41). -/
  due : Bool
  deriving DecidableEq, Repr

/-- Owner of a core's accumulator store (R222). -/
inductive TileOwner where
  | free
  | team (t : Nat)
  | sup
  deriving DecidableEq, Repr

/-- An MMA in flight (R227): its group and team, tile, shape code, the fragments as read, the second B of a paired MMA, the
lanes whose FPSR it will write, and how many MMAs of the pair's other core must retire before it (R228). -/
structure Mma where
  gid : Nat
  team : Nat
  tile : Nat
  shape : Nat
  a : List Word
  b : List Word
  b2 : Option (List Word)
  lanes : Nat
  behind : Nat := 0
  deriving DecidableEq, Repr

/-- The pinned segment of a core in Bramble mode (R91): the grid, the segment, its code range, and the code that the
instruction store took when it was loaded. -/
structure Seg where
  grid : Nat
  seg : Nat
  base : Nat
  len : Nat
  code : List Byte
  deriving DecidableEq, Repr

/-- A core (R13, R40, R91, R221, R433): bins by index, arrival buffer, arrival spill and records in transit to it
over the mesh, pinned segment, accumulator store, MMAs in flight, power-hold counter, the occupancy reports that it has
received, and the group that issued last. -/
structure Core where
  bins : Tab Bin := []
  arrive : List Rec := []
  spill : List Rec := []
  transit : List Rec := []
  seg : Option Seg := none
  owner : TileOwner := .free
  tiles : Tab (List Word) := []
  mmaQ : List Mma := []
  holds : Nat := 0
  occSeen : Tab Nat := []
  deriving DecidableEq, Repr

/-- A completion tag (R241): ready, the error of its last operation (cause and TVAL), and whether one is in flight. -/
structure Tag where
  ready : Bool := false
  err : Option (Cause × Word) := none
  busy : Bool := false
  deriving DecidableEq, Repr

/-- A pre-emption request in progress on a team (R270): the tick at which LEFT reaches zero, and whether it belongs to a
deadline launch (R253). -/
structure Preq where
  until_ : Nat
  deadline : Bool
  deriving DecidableEq, Repr

/-- A team (R22, R23, R28, R63): grid, linear index, home core, capacity, live tids, TEAMTS, the control registers it
holds, local store (unlisted bytes zero), tags, parked frames, arrivals in the open BART and BARG phases, ensemble,
pre-emption request, the tick of the deadline of its last wound (R194), and whether its image is saved. -/
structure Team where
  grid : Nat := 0
  tix : Nat := 0
  home : Nat := 0
  cap : Nat := 0
  live : List Nat := []
  ts : Nat := 0
  fpcr : Word := 0
  contv : Word := 0
  contt : Word := 0
  wndv : Word := 0
  lsize : Nat := 0
  lstore : List Host.Cell := []
  ntags : Nat := 0
  tags : Tab Tag := []
  frames : Tab Frame := []
  bartAt : List Nat := []
  bartPhase : Nat := 0
  bargAt : List Nat := []
  ensemble : Option (Nat × Nat) := none
  paired : Bool := false
  preq : Option Preq := none
  wound : Option Nat := none
  /-- Threads that stood in no group when the team was wounded, or revoked, and have not received it yet (R185, R193,
  R194). -/
  woundTids : List Nat := []
  revokeTids : List Nat := []
  saved : Bool := false
  /-- Bin and arrival records moved out of the cores by a save, with the core and, for a bin, its key's address
  (R273). -/
  image : List (Nat × Option Word × Rec) := []
  /-- The accumulator store moved out of the core by a save (R273). -/
  tileImage : Option (TileOwner × Tab (List Word)) := none
  /-- Its deadline has stopped it: it issues nothing more, and its accesses in flight complete (R253). -/
  stopped : Bool := false
  /-- Every thread has exited; the team ends once its accesses and engines are done (R27, R345). -/
  ending : Bool := false
  /-- Clusters in which a group of the team has stood: their SCO lines may hold its stores (R121, R158). -/
  ran : List Nat := []
  deriving DecidableEq, Repr

/-- A launch packet's fields (R244 to R247), as read. -/
structure Packet where
  entry : Nat := 0
  gridx : Nat := 0
  gridy : Nat := 0
  gridz : Nat := 0
  tinit : Nat := 0
  tcap : Nat := 0
  gw : Nat := 0
  regs : Nat := 0
  tags : Nat := 0
  lstore : Nat := 0
  priv : Nat := 0
  flags : Nat := 0
  ensz : Nat := 0
  bint : Nat := 0
  argp : Nat := 0
  segm : Nat := 0
  signal : Nat := 0
  deadline : Nat := 0
  wcet : Nat := 0
  ctr : Nat := 0
  cinit : Nat := 0
  /-- Every reserved field of the packet is zero (R247, reason 1). -/
  clean : Bool := true
  deriving DecidableEq, Repr

/-- A grid (R21 to R27, R248, R260): its context, queue, class, packet, arena base, the next team to place, the teams
that live, the phase of the grid barrier, the core-clocks used, and the replication windows of a Bramble
kernel. -/
structure Grid where
  ctx : Nat := 0
  queue : Nat := 0
  cls : Nat := 1
  pkt : Packet := {}
  sigPa : Nat := 0
  arena : Word := 0
  next : Nat := 0
  teams : List Nat := []
  /-- Placed in full or waiting for its counter (R259): an armed grid waits. -/
  armed : Bool := false
  admitted : Bool := false
  used : Nat := 0
  bargPhase : Nat := 0
  /-- STATUS and CAUSE recorded at its end, when it ended before completing. -/
  fate : Option (Nat × Nat) := none
  /-- Windows in a row in which a segment exceeded its threshold, by segment; the tick at which the last window ended; the
  replication in progress: the segment and the core (R105, R106). -/
  hotRun : Tab Nat := []
  /-- By core: waiting records times the clocks for which they waited, since the last window ended (R105). -/
  occSum : Tab Nat := []
  window : Nat := 0
  repl : Option (Nat × Nat) := none
  deriving DecidableEq, Repr

/-- States of a user queue (R249). -/
inductive QState where
  | idle
  | ready
  | mapped
  | error
  deriving DecidableEq, Repr

/-- A registered user queue (R244, R249, R250): its context, descriptor address, state, the tick from which it has been
READY or MAPPED, its slot, class, quantum, reserved cores. -/
structure Queue where
  ctx : Nat := 0
  addr : Nat := 0
  state : QState := .idle
  since : Nat := 0
  slot : Option Nat := none
  cls : Nat := 1
  quant : Nat := 1000
  reserved : List Nat := []
  deriving DecidableEq, Repr

/-- A counted-launch counter (R259): its signed value, and the armed grid. -/
structure Counter where
  val : Int := 0
  armed : Option Nat := none
  deriving DecidableEq, Repr

/-- A context (R243, R261): page-table root, domain table, the partition's dies, its ranges of counters and queues, the
registers held per context, and the bytes its requests sent in the last and the current window of R257. -/
structure Ctx where
  root : Nat := 0
  domTab : Nat := 0
  dies : Nat := 0
  ctrLo : Nat := 0
  ctrN : Nat := 0
  qLo : Nat := 0
  qN : Nat := 0
  tvec : Word := 0
  ylim : Word := 0
  lkmat0 : Word := 0x0B071F7F
  lkmat1 : Word := 0x00012103
  share : BitVec 32 := 0
  wdead : BitVec 32 := 0
  /-- Bytes sent in the window of 1 µs of this number, and in the one before it (R257). -/
  sentNow : Nat := 0
  sentLast : Nat := 0
  sentWin : Nat := 0
  /-- LKMAT writes on their way to the home slices (R183). -/
  lkNew : Option (Word × Word) := none
  /-- Its partition is swapped out (R275). -/
  swapped : Bool := false
  deriving DecidableEq, Repr

/-- A cached translation (R119): level 0 a core's, 1 a cluster's, 2 a die's; the virtual page number and, for a large
page, its flag; the leaf entry as read. -/
structure Tlb where
  level : Nat
  owner : Nat
  ctx : Nat
  vpage : Nat
  large : Bool
  leaf : Nat
  deriving DecidableEq, Repr

/-- A copy-on-write in progress (R172): the page, the domain, the frame taken for it, and where step 2 runs the
second-tier frame for the oldest record and a further chain frame if the chain needs one (R164). -/
structure Cow where
  ctx : Nat
  vpage : Nat
  dom : Nat
  frame : Nat
  tier : Option (Nat × Option Nat)
  deriving DecidableEq, Repr

/-- The operation of a reduction form or of an atomic (R127, R310). -/
inductive AOp where
  | add | addW | minS | maxS | minZ | maxZ | and | or | xor | xch | cas | casW | faddF | faddD | inc | dec
  | redAddD | redAddF | redAddB | redMinD | redMinF | redMinB | redMaxD | redMaxF | redMaxB
  deriving DecidableEq, Repr

/-- State of a line in a cluster cache (R125 to R128). -/
inductive LineSt where
  | M | O | E | S
  | U (k : AOp)
  deriving DecidableEq, Repr

/-- A line in a cluster cache, with the partial of a line in U: element offset and value, the touched elements only
(R128); `wb` says the line stands in the writeback buffer (R132). -/
structure CLine where
  cl : Nat
  line : Nat
  st : LineSt
  part : Tab Nat := []
  wb : Bool := false
  deriving DecidableEq, Repr

/-- Requests of the protocol (R129); `homeAtomic`, `read` and `evict` are the home's own work for an atomic, for a read
by an agent that keeps no copy, and for an eviction of the LLC (R126, R127). -/
inductive Req where
  | rdS | rdX | upg
  | rdU (k : AOp)
  | wrL (data : Nat)
  | homeAtomic
  | read
  | evict
  deriving DecidableEq, Repr

/-- Stable and transient states of a home directory (R131). -/
inductive HSt where
  | I | S | E | O
  | U (k : AOp)
  | IM | SX | F | C
  deriving DecidableEq, Repr

/-- The directory entry of a line (R126, R131): state, owner, holders by cluster, whether the LLC's copy is current, the
transaction that is open (requester and request), the requests that wait, a held eviction, and whether the LLC has the
line at all: an entry that it has evicted stays for the requests that wait on it. -/
structure Dir where
  st : HSt := .I
  owner : Option Nat := none
  holders : List Nat := []
  fresh : Bool := true
  txn : Option (Nat × Req) := none
  waiting : List (Nat × Req) := []
  held : Option Nat := none
  inLlc : Bool := true
  deriving DecidableEq, Repr

/-- Messages of the protocol in flight (R129). -/
inductive MsgKind where
  | putE | wb | ack | fwdAck (was : LineSt) | wbAck | inv | fwdS | fwdX | rcl | coll | grant (st : LineSt) | memData
  | wbu (part : Tab Nat) (k : AOp)
  | partial_ (part : Tab Nat) (k : AOp)
  | req (r : Req)
  deriving DecidableEq, Repr

/-- A message in flight between a cluster and the home of a line. -/
structure Msg where
  kind : MsgKind
  cl : Nat
  line : Nat
  deriving DecidableEq, Repr

/-- The coherence machinery (R125 to R134): cluster caches, directories by line, messages in flight in order of
sending, and the spill queues of the slices. (DEDUCED, log entry 11.) -/
structure Coh where
  lines : List CLine := []
  dir : Tab Dir := []
  msgs : List Msg := []
  spill : Tab (List (Nat × Nat × Req)) := []
  deriving DecidableEq, Repr

/-- An SCO line in a cluster cache (R121): the 128 bytes it holds, and the mask of dirty bytes. -/
structure Sco where
  cl : Nat
  line : Nat
  data : List Byte
  dirty : Nat
  deriving DecidableEq, Repr

/-- A location of memory that a monitor or an anchor watches: a physical address, an offset in the local store of a
team, or an address in another package, whose home evaluates it (R408). -/
inductive Place where
  | phys (pa : Nat)
  | store (team off : Nat)
  | remote (pkg pa : Nat)
  deriving DecidableEq, Repr

/-- A monitor of WAITA (R407, R408): the group and lane, the place, the operation and comparand, where the value goes,
its virtual address, and the value that released it. A monitor on another package waits there under the request tag
`rtag`, and `denied` holds the cause with which that package turned it away; a monitor that a peer set here names the
peer, its request tag and its context in `peer` (R20, R408). -/
structure Monitor where
  gid : Nat
  lane : Nat
  place : Place
  va : Word
  ne : Bool
  cmp : Word
  key : RKey
  fired : Option Word
  rtag : Option Nat := none
  denied : Option Cause := none
  peer : Option (Nat × Nat × Nat) := none
  deriving DecidableEq, Repr

/-- The anchor of a thread at a place (R407): the values that the eight bytes took from the anchor on. The anchor of an
atomic on another package is the request tag `rtag` under which it went; its values stand at that package, under the peer
and the tag in `peer`. (DESIGN CHOICE, log entry 15.) -/
structure Anchor where
  team : Nat
  tid : Nat
  place : Place
  vals : List Word
  rtag : Nat := 0
  peer : Option (Nat × Nat) := none
  /-- The open task in which the atomic stands: its write, and so its first value, is still to come; 0 for none. -/
  task : Nat := 0
  deriving DecidableEq, Repr

/-- A lock entry (R179): resource, team, and the mode held, 0 while the team only waits. -/
structure Hold where
  ctx : Nat
  desc : Nat
  team : Nat
  mode : Nat
  deriving DecidableEq, Repr

/-- A queued request (R184, R186): resource, team, group, mode, and whether it is an escalation by LUPG. -/
structure LockWait where
  ctx : Nat
  desc : Nat
  team : Nat
  gid : Nat
  mode : Nat
  lupg : Bool
  /-- The matrix under which it was last evaluated (R183). -/
  mat : Word × Word
  deriving DecidableEq, Repr

/-- A conflict that wounded a team (R185, R194): who waits on which resource against whom, and the tick of the wound's
deadline; none where it joined a wound whose deadline had passed. -/
structure WoundBy where
  team : Nat
  ctx : Nat
  desc : Nat
  by_ : Nat
  due : Option Nat := none
  deriving DecidableEq, Repr

/-- A speculative line of a task (R198, R199): bytes stored, and deltas by element offset with their kind. -/
structure SpecLine where
  line : Nat
  /-- The virtual page and domain of a versioned page's line (R174). -/
  ver : Option (Nat × Nat) := none
  bytes : List Host.Cell := []
  deltas : Tab (AOp × Nat) := []
  deriving DecidableEq, Repr

/-- An open guarded task (R195 to R201): its group, context, abort address, lines, the log of lock requests (the
resource, the mode held before, and the join of what other groups were granted since), and the ULCKs recorded for the
commit: the resource, or none for every lock of the team, and the mode that it names (R403). -/
structure Task where
  gid : Nat
  ctx : Nat
  abort : Word
  lines : List SpecLine := []
  locks : List (Nat × Nat × Nat) := []
  unlocks : List (Option Nat × Nat) := []
  deriving DecidableEq, Repr

/-- A BCPY in flight (R233): team, tag, descriptor address, descriptor bytes, issuing thread's core and tid; 0 before it
has begun, 1 while its reads of other packages are out, 2 while its writes there are; and their answers: number, status
and value. -/
structure BceOp where
  team : Nat
  tag : Nat
  desc : Word
  bytes : List Byte
  core : Nat
  tid : Nat
  stage : Nat := 0
  got : List (Nat × Nat × Nat) := []
  deriving DecidableEq, Repr

/-- An event record (R271). -/
structure EvRec where
  kind : Nat
  cause : Nat := 0
  core : Nat := 0
  seq : Nat := 0
  val : Word := 0
  epc : Word := 0
  team : Nat := 0
  ctx : Nat := 0
  count : Nat := 0
  deriving DecidableEq, Repr

/-- A fabric packet (R281): the fields of its header, the collective's remaining op list, chunk word and chunk index, and
the data. -/
structure FPkt where
  type : Nat
  tc : Nat
  src : Nat
  ctx : Nat
  addr : Nat := 0
  rtag : Nat := 0
  status : Nat := 0
  group : Nat := 0
  seq : Nat := 0
  dhash : Nat := 0
  ops : List Nat := []
  offset : Nat := 0
  nbytes : Nat := 0
  ovh : Bool := false
  /-- Bits [63:52] of the chunk word, which are to be zero (R293). -/
  resv : Nat := 0
  /-- The chunk's index, which chooses the plane (R280). -/
  chunk : Nat := 0
  len : Nat := 1
  op : Nat := 0
  mask : Nat := 0
  data : List Byte := []
  deriving DecidableEq, Repr

/-- A packet held in a sender's retry buffer (R282): plane, RSN, bank, nonce counter, incarnation of the sender, its RP
bit, the credits that its link words carried (R281, R283), and the packet. -/
structure Sent where
  plane : Nat
  rsn : Nat
  bank : Nat
  ctr : Nat
  inc : Nat
  rp : Bool
  grant : Nat
  rack : Nat
  pkt : FPkt
  deriving DecidableEq, Repr

/-- A key bank of one direction (R287): the key, the counters by plane, and whether its warning was posted. -/
structure Bank where
  key : Nat
  ctr : Tab Nat := []
  warned : Bool := false
  deriving DecidableEq, Repr

/-- A peer package (R282, R283, R287, R288): among the rest the credits held with it, pool by plane and reserve by class,
and at this end the pool flits granted to it by plane and the reserve flits of each class freed and not yet returned. -/
structure Peer where
  up : Bool := false
  inc : Nat := 0
  reset : Bool := false
  txRsn : Tab Nat := []
  rxRsn : Tab Nat := []
  buf : List Sent := []
  wait : List FPkt := []
  retries : Tab Nat := []
  pool : Tab Nat := []
  reserve : Tab Nat := []
  granted : Tab Nat := []
  freed : Tab Nat := []
  tx : Tab Bank := []
  rx : Tab Bank := []
  kg : Nat := 0
  /-- The bank of the last packet accepted from the peer. -/
  rkg : Nat := 0
  /-- A key in the idle sending bank waits for the peer's confirmation (R287). -/
  unconfirmed : Bool := false
  errors : Nat := 0
  deriving DecidableEq, Repr

/-- What a request to another package serves: the lanes of a group's instruction, a BCPY of a team on a tag, a lane that
waits at WAITA, a fetch, an access of a control core, or a completion record that the CP writes. -/
inductive RemUse where
  | lanes
  | bce (team tag : Nat)
  | monitor
  | fetch
  | control (core : Nat)
  | cp
  deriving DecidableEq, Repr

/-- A request to another package outstanding (R289, R290): its tag, peer, context, the group that asked, what it serves,
and the virtual ranges under whose translations it went (R118), first address and length; none listed stands for any of
its context. -/
structure RemReq where
  rtag : Nat
  peer : Nat
  ctx : Nat
  gid : Nat
  use : RemUse := .lanes
  /-- Lane, offset in the block, bytes and offset in the value of each access that the request merges. -/
  parts : List (Nat × Nat × Nat × Nat)
  vas : List (Nat × Nat) := []
  deriving DecidableEq, Repr

/-- An ingress access-table entry (R285). -/
structure Access where
  base : Nat
  limit : Nat
  src : Nat
  valid : Bool
  rights : Nat
  sctx : Nat
  deriving DecidableEq, Repr

/-- A COLL in flight (R292 to R296): team, tag, descriptor address and bytes, issuing thread's core and tid, NRECV of each
plan entry used, arrivals processed by chunk, OVH seen, chunks stored with OVH, and the error that ended it. -/
structure CollOp where
  team : Nat
  tag : Nat
  desc : Word
  bytes : List Byte
  core : Nat
  tid : Nat
  nrecv : List Nat := []
  got : Tab Nat := []
  ovh : Bool := false
  ovcnt : Nat := 0
  fail : Option (Cause × Word) := none
  /-- A read of it met an uncorrectable error, and so never ends (R277). -/
  stuck : Bool := false
  deriving DecidableEq, Repr

/-- A collective group (R291): context, members, staging bytes, next expected sequence number, and the COLLs in flight by
sequence number. -/
structure CollGroup where
  ctx : Nat
  members : List Nat
  staging : Nat
  next : Nat := 0
  ops : Tab CollOp := []
  deriving DecidableEq, Repr

/-- A collective packet accepted for which staging has no room (R283, R295): the peer, the plane, whether it spent the shared
pool, its flits, which are not yet free, and the packet. -/
structure CollHeld where
  peer : Nat
  plane : Nat
  pool : Bool
  flits : Nat
  pkt : FPkt
  deriving DecidableEq, Repr

/-- Interrupts that the CP raises at the control cores (R245, R277). -/
inductive Intr where
  | queueFull
  | queueError (q : Nat)
  deriving DecidableEq, Repr

/-- Snapshot control (R307, R308). -/
structure SnapCtl where
  arm : Bool := false
  frozen : Bool := false
  src : Nat := 0
  missed : Nat := 0
  seq : Nat := 0
  deriving DecidableEq, Repr

/-- A control core (R10, R298): the bytes that its last load returned, and the cause with which its last access was
turned away. -/
structure Control where
  data : List Byte := []
  err : Option Cause := none
  deriving DecidableEq, Repr

/-- What a control core does at a turn (R276, R287, R298, R301, R305): a load, a store, a read of a slot status word, the
end of a context, and the beginning and the end of an SPDM session with its key. -/
inductive CtlAct where
  | load (pa n : Nat)
  | store (pa : Nat) (bytes : List Byte)
  | slotStatus (slot : Nat)
  | contextEnd (ctx : Nat)
  | openSession (id key : Nat)
  | closeSession (id : Nat)
  deriving DecidableEq, Repr

/-- The two pipes of a core (R76). -/
inductive Pipe where
  | a | m
  deriving DecidableEq, Repr

/-- What takes the next turn: a core issues, on a pipe or on the one whose group comes first, an event befalls, a control core acts, the operator installs a key of the
management port (R305), or the sensors report the package's draw in watts (R15). -/
inductive Act where
  | issue (core : Nat) (pipe : Option Pipe := none)
  | event (i : Instr)
  | control (core : Nat) (a : CtlAct)
  | operator (key : Nat)
  | sense (watts : Nat)
  deriving DecidableEq, Repr

/-- A turn: clocks that pass beyond the one that every step takes, and what takes it. (DESIGN CHOICE, log entry 54.) -/
structure Turn where
  dt : Nat
  act : Act
  deriving DecidableEq, Repr

/-- Everything that a block of the package holds (R307): the state of the machine but for the snapshot itself and the
schedule of turns. (DESIGN CHOICE, log entry 18.) -/
structure Blocks where
  /-- TICK: clocks since package reset (R63). -/
  tick : Nat := 0
  /-- Bytes of physical memory, in rising order of address, none zero: an unlisted byte reads as zero. The coherent
  value of every byte (R144). -/
  mem : List Host.Cell := []
  /-- Lines with an uncorrectable error (R277). -/
  bad : List Nat := []
  /-- The group whose instruction exec performs. -/
  cur : Nat := 0
  groups : Tab Group := []
  teams : Tab Team := []
  grids : Tab Grid := []
  ctxs : Tab Ctx := []
  queues : Tab Queue := []
  /-- The 64 hardware slots: the mapped queue of each taken one (R249, R276). -/
  slots : Tab Nat := []
  counters : Tab Counter := []
  /-- Counter decrements on their way to the CP, in order of arrival (R259). -/
  decs : List Nat := []
  /-- The 1,024 grid-barrier counters: the grid that holds each (R256). -/
  barriers : Tab Nat := []
  cores : Tab Core := []
  /-- The last core and pipe on which a group issued, where the model's own schedule goes on. -/
  lastSite : Nat := 0
  /-- Next numbers to be given: group, team, grid, task, event sequence number, request tag, TEAMTS. -/
  nextGid : Nat := 1
  nextTeam : Nat := 1
  nextGrid : Nat := 1
  nextTask : Nat := 1
  nextSeq : Nat := 0
  nextRtag : Nat := 0
  nextTs : Nat := 0
  /-- Vault bytes per pair of each die (LSCAP, R12). -/
  lscap : List Nat := [0x200000, 0x200000, 0x200000, 0x200000]
  tlb : List Tlb := []
  coh : Coh := {}
  sco : List Sco := []
  /-- Copies of RO lines in the cluster caches, which no home tracks (R120). -/
  ro : List Sco := []
  monitors : List Monitor := []
  anchors : List Anchor := []
  cows : List Cow := []
  /-- Frames that Damson keeps because their ring was full (R165). -/
  keptFrames : List (Pool × Nat) := []
  /-- Frames of migrated records that a view may still read, with the version from which they serve nothing (R176). -/
  viewFrames : List (Pool × Nat × Nat) := []
  holds : List Hold := []
  lockWaits : List LockWait := []
  /-- Locks revoked from teams whose accesses are still open (R158). -/
  revoked : List Hold := []
  wounds : List WoundBy := []
  tasks : Tab Task := []
  bce : List BceOp := []
  /-- BART arrivals on their way to the home core (R100): team and tid. -/
  bartMsgs : List (Nat × Nat) := []
  evq : List EvRec := []
  /-- Fault buffers by die (R277). -/
  fbuf : Tab (List EvRec) := []
  /-- Records that found no entry, by die, the I/O die being number 4; one of kind 2 has stopped its die's issue (R277). -/
  stopped : List (Nat × EvRec) := []
  /-- Corrected errors counted while no entry was free, by core (R277). -/
  corrected : Tab Nat := []
  intrs : List Intr := []
  /-- Package number (R278) and incarnation (R288). -/
  position : Nat := 0
  inc : Nat := 0
  peers : Tab Peer := []
  remReqs : List RemReq := []
  access : Tab Access := []
  collGroups : Tab CollGroup := []
  /-- Collective packets staged, from the fabric or from the package itself, in order of arrival (R293 to R295). -/
  hops : List FPkt := []
  /-- Collective packets for which staging has no room, oldest first (R295). -/
  collWait : List CollHeld := []
  /-- Stage index at which the boot stopped (R302). -/
  recovery : Option Nat := none
  meas : List (BitVec 256) := [0, 0, 0, 0, 0, 0]
  /-- Virtual hierarchy to which each die is bound (R299, R300). -/
  binds : Tab Nat := []
  unbinding : List Nat := []
  /-- Last save of each partition, in microseconds, by its virtual hierarchy (R276). -/
  saveTime : Tab Nat := []
  /-- Power limit and present draw in watts (R15), the last reading of each die's sensor, thermal hold and thermal stop
  (R306). -/
  limit : Nat := 5200
  draw : Nat := 0
  temps : Tab Nat := []
  hot : Bool := false
  stop : Bool := false
  /-- The 16 control cores (R298), the SPDM sessions that they hold with the key of each, and the keys that the operator
  has installed (R305). -/
  controls : Tab Control := []
  sessions : Tab Nat := []
  opKeys : List Nat := []
  /-- HBM staging pseudo-channels of each stack: 4 for a stack that is not listed (R295). -/
  staging : Tab Nat := []
  snapCtl : SnapCtl := {}
  /-- How many free values have been drawn (the model's own; R8). -/
  fresh : Nat := 0
  deriving DecidableEq, Repr

/-- What the package answered at its ports, newest first: a measurement response (R303), a management reply (R305), a
refusal at link training (R299), a read by the host. (DESIGN CHOICE, log entry 32.) -/
inductive Reply where
  | measurements (port nonce : Nat) (regs : List (BitVec 256)) (sig : Nat)
  | value (kind x : Nat)
  | failed (stage : Nat)
  | refused
  | hostData (bytes : List Byte)
  /-- The readout of the snapshot registers; nothing where none is frozen (R308). -/
  | snapshot (blocks : Option Blocks)
  deriving DecidableEq, Repr

/-- The state of the package: its blocks, the capture that the snapshot registers hold (R307), and the turns that the
world outside the model has fixed next (the model's own schedule goes on when there is none). -/
structure State extends Blocks where
  snap : Option Blocks := none
  /-- What the management port, the DOE mailbox and CXL have answered, the latest first (R299, R302, R303, R305). -/
  replies : List Reply := []
  sched : List Turn := []
  deriving DecidableEq, Repr

/-- The package right after reset: no context, queue, grid, team or group; memory with nothing listed; the values that
the register maps give. (DESIGN CHOICE, log entry 18.) -/
def State.reset : State := {}

end Sys2Proof.Machine
end

