-- ==== Sys2Proof/Machine/View.lean ====
section
/-!
DEFINITION. Named reads and writes of the state: the tables of groups, teams, grids, contexts, queues and cores; the
lanes of a group, its issue address and executing set (R31); its registers under their specifiers (R49 to R57) with
their full/empty bits (R58); and bytes of memory in the list's canonical form.
-/
namespace Sys2Proof.Machine

/-- What a step answers. -/
abbrev Out := Host.Outcome State Fault Refusal

/-- Goes on with a function where a state came about. -/
def Out.bind (o : Out) (f : State → Out) : Out :=
  match o with
  | .next s => f s
  | .fault r => .fault r
  | .refused r => .refused r

def State.grp (s : State) (g : Nat) : Group := tgetD s.groups g {}
def State.setGrp (s : State) (g : Nat) (x : Group) : State := { s with groups := tset g x s.groups }
def State.modGrp (s : State) (g : Nat) (f : Group → Group) : State := { s with groups := tmod g f s.groups }
def State.team (s : State) (t : Nat) : Team := tgetD s.teams t {}
def State.setTeam (s : State) (t : Nat) (x : Team) : State := { s with teams := tset t x s.teams }
def State.modTeam (s : State) (t : Nat) (f : Team → Team) : State := { s with teams := tmod t f s.teams }
def State.grid (s : State) (g : Nat) : Grid := tgetD s.grids g {}
def State.setGrid (s : State) (g : Nat) (x : Grid) : State := { s with grids := tset g x s.grids }
def State.modGrid (s : State) (g : Nat) (f : Grid → Grid) : State := { s with grids := tmod g f s.grids }
def State.ctx (s : State) (c : Nat) : Ctx := tgetD s.ctxs c {}
def State.setCtx (s : State) (c : Nat) (x : Ctx) : State := { s with ctxs := tset c x s.ctxs }
def State.modCtx (s : State) (c : Nat) (f : Ctx → Ctx) : State := { s with ctxs := tmod c f s.ctxs }
def State.queue (s : State) (q : Nat) : Queue := tgetD s.queues q {}
def State.setQueue (s : State) (q : Nat) (x : Queue) : State := { s with queues := tset q x s.queues }
def State.modQueue (s : State) (q : Nat) (f : Queue → Queue) : State := { s with queues := tmod q f s.queues }
def State.core (s : State) (c : Nat) : Core := tgetD s.cores c {}
def State.setCore (s : State) (c : Nat) (x : Core) : State := { s with cores := tset c x s.cores }
def State.modCore (s : State) (c : Nat) (f : Core → Core) : State := s.setCore c (f (s.core c))
def State.peer (s : State) (p : Nat) : Peer := tgetD s.peers p {}
def State.setPeer (s : State) (p : Nat) (x : Peer) : State := { s with peers := tset p x s.peers }
def State.modPeer (s : State) (p : Nat) (f : Peer → Peer) : State := s.setPeer p (f (s.peer p))

/-- The issuing group, its team, grid and context. -/
def State.me (s : State) : Group := s.grp s.cur
def State.setMe (s : State) (x : Group) : State := s.setGrp s.cur x
def State.modMe (s : State) (f : Group → Group) : State := s.setMe (f s.me)
def State.myTeam (s : State) : Team := s.team s.me.team
def State.gridOf (s : State) (g : Group) : Grid := s.grid (s.team g.team).grid
def State.myGrid (s : State) : Grid := s.gridOf s.me
def State.ctxOf (s : State) (g : Group) : Nat := (s.gridOf g).ctx
def State.myCtxNum (s : State) : Nat := s.ctxOf s.me
def State.myCtx (s : State) : Ctx := s.ctx s.myCtxNum

/-- Die, cluster (package-wide, R131) and pair of a core (R11). -/
def dieOf (c : Nat) : Nat := c / 256
def clusterOf (c : Nat) : Nat := c / 256 * 32 + c % 256 / 8
def pairOf (c : Nat) : Nat := c / 2

/-- Draws a free value's number (R8). (DESIGN CHOICE, log entry 2.) -/
def State.draw1 (s : State) : Nat × State := (s.fresh, { s with fresh := s.fresh + 1 })

/-! ### Lanes and the executing set -/

/-- Applies a function to every element with its index. -/
def imapFrom {α β : Type} (f : Nat → α → β) : Nat → List α → List β
  | _, [] => []
  | n, x :: r => f n x :: imapFrom f (n + 1) r

def Group.lane (g : Group) (l : Nat) : Lane := g.lanes.getD l {}

/-- Changes the lanes that a test names. -/
def Group.modLanes (g : Group) (p : Nat → Bool) (f : Nat → Lane → Lane) : Group :=
  { g with lanes := imapFrom (fun i x => if p i then f i x else x) 0 g.lanes }

def Group.setLane (g : Group) (l : Nat) (x : Lane) : Group := { g with lanes := g.lanes.set l x }
def Group.modLane (g : Group) (l : Nat) (f : Lane → Lane) : Group := g.setLane l (f (g.lane l))
def Group.modTh (g : Group) (l : Nat) (f : Thread → Thread) : Group :=
  g.modLane l fun x => { x with th := f x.th }

/-- The lanes of a group that pass a test, rising. -/
def Group.lanesWhere (g : Group) (p : Nat → Lane → Bool) : List Nat :=
  (upTo g.W).filter fun i => p i (g.lane i)

/-- An occupied lane that has neither exited nor departed. -/
def Lane.alive (x : Lane) : Bool := x.occ && x.status != .exited && x.status != .departed

/-- The occupied lanes that have not exited (R196, R266, R434). -/
def Group.aliveLanes (g : Group) : List Nat := g.lanesWhere fun _ x => x.alive

/-- A lane is runnable when it is ready (R29) and, in supervisor mode, one of its trap (R264). -/
def Group.runnable (g : Group) (i : Nat) (x : Lane) : Bool :=
  x.occ && x.status == .ready && (!g.sup || g.supRun.testBit i)

/-- The least pcv over some lanes. -/
def Group.minPcOf (g : Group) : List Nat → Option Word
  | [] => none
  | i :: r =>
    match g.minPcOf r with
    | none => some (g.lane i).pcv
    | some m => some (if (g.lane i).pcv.toNat ≤ m.toNat then (g.lane i).pcv else m)

/-- What holds the issue address and E: an instruction that blocks or waits (R59, R85), or a REP in progress (R83). -/
def Group.heldAt (g : Group) : Option (Word × Nat) :=
  match g.latched, g.repPc with
  | some x, _ => some x
  | none, some p => if !g.sup || g.repSup then some (p, g.repE) else none
  | none, none => none

/-- The lanes that an instruction holds at its address (R59, R83, R85). -/
def Group.heldLanes (g : Group) : List Nat :=
  match g.heldAt with
  | some (p, m) => g.lanesWhere fun i x => g.runnable i x && m.testBit i && x.pcv == p
  | none => []

/-- The issue address: that of the lanes held, or the least pcv of the runnable lanes (R31). -/
def Group.issuePc (g : Group) : Option Word :=
  match g.heldLanes with
  | [] => g.minPcOf (g.lanesWhere g.runnable)
  | l :: _ => some (g.lane l).pcv

/-- The executing set E, lanes rising: the lanes held, or the runnable lanes at the issue address (R31). -/
def Group.E (g : Group) : List Nat :=
  match g.heldLanes, g.issuePc with
  | [], some p => g.lanesWhere fun i x => g.runnable i x && x.pcv == p
  | h, _ => h

/-- The issue address as a word; zero where no lane is runnable. -/
def Group.pc (g : Group) : Word := g.issuePc.getD 0

/-- The lowest-numbered lane of E. -/
def Group.lowE (g : Group) : Nat := g.E.headD 0

/-! ### Registers -/

/-- The register that a specifier names under the window base (R49, R52, R54). -/
def Group.key (g : Group) (s : Spec) : RKey :=
  let n := s.toNat
  if n < 0x60 then .v (g.wbase + n) else if n < 0x70 then .o (n - 0x60) else if n < 0x78 then .q (n - 0x70) else .none

/-- What a register holds in a lane. -/
def Group.readKey (g : Group) (l : Nat) : RKey → Word
  | .v n => tgetD (g.lane l).th.v n 0
  | .o n => tgetD (g.lane l).th.o n 0
  | .q n => tgetD g.q n 0
  | .none => 0

/-- Writes a register of a lane (a q register of the group). -/
def Group.writeKey (g : Group) (l : Nat) (k : RKey) (x : Word) : Group :=
  match k with
  | .v n => g.modTh l fun t => { t with v := tset n x t.v }
  | .o n => g.modTh l fun t => { t with o := tset n x t.o }
  | .q n => { g with q := tset n x g.q }
  | .none => g

/-- The full/empty bit of a register in a lane (R51, R56, R58). -/
def Group.fullKey (g : Group) (l : Nat) : RKey → Bool
  | .q n => !g.qEmpty.contains n
  | .none => true
  | k => !(g.lane l).th.empties.contains k

/-- Marks a register empty in a lane, with the value that will arrive (R58); a q register once for the group. -/
def Group.pendKey (g : Group) (l : Nat) (p : Pend) : Group :=
  match p.key with
  | .none => g
  | .q n => { g with qEmpty := n :: g.qEmpty.filter (· != n), qPend := g.qPend ++ [p] }
  | k => g.modTh l fun t => { t with empties := k :: t.empties.filter (· != k), pend := t.pend ++ [p] }

/-- A register is empty, or full, in a lane, with no value on its way (R58). -/
def Group.emptyKey (g : Group) (l : Nat) (k : RKey) : Group :=
  match k with
  | .none => g
  | .q n => { g with qEmpty := n :: g.qEmpty.filter (· != n) }
  | k => g.modTh l fun t => { t with empties := k :: t.empties.filter (· != k) }
def Group.refullKey (g : Group) (l : Nat) (k : RKey) : Group :=
  match k with
  | .none => g
  | .q n => { g with qEmpty := g.qEmpty.filter (· != n) }
  | k => g.modTh l fun t => { t with empties := t.empties.filter (· != k) }

/-- The destinations of a waiting instruction are empty meanwhile, and as they were when it goes on (R58). -/
def Group.markDests (g : Group) (ks : List (Nat × RKey)) : Group :=
  { ks.foldl (fun g k => g.emptyKey k.1 k.2) g with marks := ks }
def Group.unmark (g : Group) : Group :=
  if g.marks.isEmpty then g else { g.marks.foldl (fun g k => g.refullKey k.1 k.2) g with marks := [] }

/-- A pending write completes: the register takes the value and its bit is set in the same clock (R58). -/
def Group.fillKey (g : Group) (l : Nat) (k : RKey) : Group :=
  match k with
  | .none => g
  | .q n =>
    match takeFirst (fun p => p.key == k) g.qPend with
    | none => g
    | some (p, r) => { g with q := tset n p.val g.q, qEmpty := g.qEmpty.filter (· != n), qPend := r }
  | k =>
    match takeFirst (fun p => p.key == k) (g.lane l).th.pend with
    | none => g
    | some (p, r) => (g.writeKey l k p.val).modTh l fun t => { t with empties := t.empties.filter (· != k), pend := r }

/-- The thread's own value of each read-only specifier (R49); in any lane its own (R34, R51). -/
def Group.readSpecial (g : Group) (tix : Nat) (s : Spec) (l : Nat) : Word :=
  match s.toNat with
  | 0x78 => (g.lane l).lat
  | 0x7A => BitVec.ofNat 64 (g.lane l).th.tid
  | 0x7B => BitVec.ofNat 64 l
  | 0x7C => (g.lane l).pcv
  | 0x7D => BitVec.ofNat 64 tix
  | _ => 0

/-- V[f] of a lane (R49, R85): an unoccupied lane reads as zero (R34, R391). -/
def Group.read (g : Group) (tix : Nat) (s : Spec) (l : Nat) : Word :=
  if !(g.lane l).occ then 0 else if s.toNat < 0x78 then g.readKey l (g.key s) else g.readSpecial tix s l

/-- V[f] of a lane of the issuing group. -/
def State.rd (s : State) (f : Spec) (l : Nat) : Word := s.me.read s.myTeam.tix f l

/-- A register result in the lanes listed: a q register takes the value of the lowest lane (R56), which comes first. -/
def Group.writeAll (g : Group) (k : RKey) (vals : List (Nat × Word)) : Group :=
  match k with
  | .none => g
  | .q n => match vals with | [] => g | (_, x) :: _ => { g with q := tset n x g.q }
  | k => vals.foldl (fun g p => g.writeKey p.1 k p.2) g

/-- lat of the lanes listed (R57). -/
def Group.writeLat (g : Group) (vals : List (Nat × Word)) : Group :=
  vals.foldl (fun g p => g.modLane p.1 fun x => { x with lat := p.2 }) g

/-- NZCV of the lanes listed (R60). -/
def Group.writeFlags (g : Group) (vals : List (Nat × Nzcv)) : Group :=
  vals.foldl (fun g p => g.modTh p.1 fun t => { t with nzcv := p.2 }) g

/-- FPSR of the lanes listed takes further sticky flags (R208). -/
def Group.orFpsr (g : Group) (vals : List (Nat × FpFlags)) : Group :=
  vals.foldl (fun g p => g.modTh p.1 fun t => { t with fpsr := t.fpsr ||| p.2 }) g

/-- A long-class result in the lanes listed: the destination is marked empty and the values are on their way (R58); z
discards (R51). `src` says what brings each lane's value. -/
def Group.pendAll (g : Group) (k : RKey) (vals : List (Nat × Word)) (src : Nat → Pend) : Group :=
  match k with
  | .none => g
  | .q n =>
    match vals with
    | [] => g
    | (l, x) :: _ => g.pendKey l { src l with key := .q n, val := x, lanes := maskOf (vals.map fun y => y.1) }
  | k => vals.foldl (fun g p => g.pendKey p.1 { src p.1 with key := k, val := p.2 }) g

/-- A group's mask register, bits at W and above reading zero (R61). -/
def Group.mask (g : Group) (k : Nat) : Nat := (tgetD g.k k 0).toNat % 2 ^ g.W
def Group.setMask (g : Group) (k : Nat) (m : Nat) : Group := { g with k := tset k (BitVec.ofNat 64 (m % 2 ^ g.W)) g.k }

/-- The mask of the executing set. -/
def Group.eMask (g : Group) : Nat := maskOf g.E

/-- An instruction that blocks or waits keeps its address and E (R59, R85). -/
def Group.latch (g : Group) : Group := if g.latched.isSome then g else { g with latched := some (g.pc, g.eMask) }
def State.latch (s : State) : State := s.modMe Group.latch

/-! ### Bytes of memory -/

/-- The byte at an address; an unlisted one is zero. -/
def mget (a : Nat) : List Host.Cell → Byte
  | [] => 0
  | (b, x) :: r => if b == a then x else mget a r

/-- Puts a nonzero byte in. -/
def mins (a : Nat) (x : Byte) : List Host.Cell → List Host.Cell
  | [] => [(a, x)]
  | (b, y) :: r =>
    if b == a then (a, x) :: r else if a < b then (a, x) :: (b, y) :: r else (b, y) :: mins a x r

/-- The memory with a byte at an address: a zero byte is listed nowhere. -/
def mset (a : Nat) (x : Byte) (m : List Host.Cell) : List Host.Cell :=
  if x == 0 then m.filter fun c => c.1 != a else mins a x m

/-- The canonical form: addresses rising, no byte zero. (DESIGN CHOICE, log entry 1.) -/
def Memory.wf : List Host.Cell → Bool
  | [] => true
  | [(_, x)] => x != 0
  | (a, x) :: (b, y) :: r => x != 0 && decide (a < b) && Memory.wf ((b, y) :: r)

/-- `n` bytes from an address on. (DESIGN CHOICE, log entry 1.) -/
def mread (m : List Host.Cell) (a n : Nat) : List Byte := (upTo n).map fun i => mget (a + i) m

/-- Bytes stored from an address on. -/
def mwrite (a : Nat) : List Byte → List Host.Cell → List Host.Cell
  | [], m => m
  | x :: r, m => mwrite (a + 1) r (mset a x m)

end Sys2Proof.Machine
end

