-- ==== Sys2Proof/Machine/Mem.lean ====
section
/-!
DEFINITION. Memory below translation: the operations of atomics and reductions (R127, R128, R310, R313), the one place
where bytes of physical memory and of local store change (with the monitors of WAITA and the anchors that watch them,
R407, R408), the coherence protocol with its U state (R125 to R134), and the SCO copies of a cluster (R121).

The memory list holds the coherent value of every byte. By R131 the readable copies of a line hold the same bytes, so a
copy in M, O, E or S carries no bytes here; what the protocol decides (who may read, write or reduce, when the LLC's
copy is current, which messages are open) is in `coh`. A partial in U and an SCO copy do hold bytes of their own.
-/
namespace Sys2Proof.Machine

/-! ### Operations of atomics -/

/-- Bytes that an atomic accesses (R310) or an element of a reduction (R127, R238). -/
def AOp.size : AOp → Nat
  | .addW | .casW | .faddF | .redAddF | .redMinF | .redMaxF => 4
  | .redAddB | .redMinB | .redMaxB => 2
  | _ => 8

/-- A signed reading of 64 bits. -/
def sgn (x : Nat) : Int := (BitVec.ofNat 64 x).toInt

/-- The new value of an atomic on `old` with operand `b` and, for ACAS, expected value `e` (R310, R313, R238). -/
def AOp.new (op : AOp) (old b e : Nat) : Nat :=
  match op with
  | .add => (old + b) % 2 ^ 64
  | .addW => (old + b) % 2 ^ 32
  | .minS => if sgn old ≤ sgn b then old else b
  | .maxS => if sgn b ≤ sgn old then old else b
  | .minZ => if old ≤ b then old else b
  | .maxZ => if b ≤ old then old else b
  | .and => Nat.land old b
  | .or => Nat.lor old b
  | .xor => Nat.xor old b
  | .xch => b
  | .cas => if old == e then b else old
  | .casW => if old == e % 2 ^ 32 then b % 2 ^ 32 else old
  | .faddF | .redAddF => (addRne b32 old (b % 2 ^ 32)).1
  | .faddD | .redAddD => (addRne b64 old b).1
  | .redAddB => (addRne bf16 old b).1
  | .inc => if old ≥ b then 0 else old + 1
  | .dec => if old == 0 || old > b then b else old - 1
  | .redMinD => (fminmax b64 false false old b).1
  | .redMinF => (fminmax b32 false false old b).1
  | .redMinB => (fminmax bf16 false false old b).1
  | .redMaxD => (fminmax b64 false true old b).1
  | .redMaxF => (fminmax b32 false true old b).1
  | .redMaxB => (fminmax bf16 false true old b).1

/-- Whether the atomic writes: an ACAS that compares unequal does not (R310). -/
def AOp.writes (op : AOp) (old e : Nat) : Bool :=
  match op with
  | .cas => old == e
  | .casW => old == e % 2 ^ 32
  | _ => true

/-- What d receives (R310). -/
def AOp.ret (op : AOp) (old : Nat) : Word :=
  match op with
  | .addW | .casW => sExt old 32
  | _ => BitVec.ofNat 64 old

/-- The operations that have a reduction form (R127). -/
def AOp.reduces : AOp → Bool
  | .xch | .cas | .casW | .inc | .dec => false
  | _ => true

/-- The identity with which a partial starts (R128). -/
def AOp.ident : AOp → Nat
  | .and => 2 ^ 64 - 1
  | .minS => 2 ^ 63 - 1
  | .maxS => 2 ^ 63
  | .minZ => 2 ^ 64 - 1
  | .faddF | .redAddF => 2 ^ 31
  | .faddD | .redAddD => 2 ^ 63
  | .redAddB => 2 ^ 15
  | .redMinD => b64.inf false
  | .redMinF => b32.inf false
  | .redMinB => bf16.inf false
  | .redMaxD => b64.inf true
  | .redMaxF => b32.inf true
  | .redMaxB => bf16.inf true
  | _ => 0

/-- A reduction applied to an element of a partial, the touched elements listed (R128). -/
def partAdd (op : AOp) (off b : Nat) (p : Tab Nat) : Tab Nat := tset off (op.new (tgetD p off op.ident) b 0) p

/-! ### Bytes, monitors and anchors -/

/-- Two ranges of bytes share a byte. -/
def overlap (a n b m : Nat) : Bool := decide (a < b + m) && decide (b < a + n)

/-- The eight bytes at a place. -/
def State.word8 (s : State) : Place → Nat
  | .phys pa => ofBytes (mread s.mem pa 8)
  | .store t off => ofBytes (mread (s.team t).lstore off 8)
  | .remote _ _ => 0

/-- A place lies in a range that a write touched. -/
def Place.hit (p : Place) (q : Place) (n : Nat) : Bool :=
  match p, q with
  | .phys a, .phys b => overlap a 8 b n
  | .store t a, .store u b => t == u && overlap a 8 b n
  | .remote p a, .remote q b => p == q && overlap a 8 b n
  | _, _ => false

/-- The condition on which a WAITA lane is released: op 0 waits while equal, op 1 while not equal (R406, R407). -/
def Monitor.lets (m : Monitor) (x : Word) : Bool := if m.ne then x == m.cmp else x != m.cmp

/-- A monitor sees a value: it fires at the first that lets the lane go (R407). -/
def Monitor.see (m : Monitor) (x : Word) : Monitor :=
  if m.fired.isNone && m.lets x then { m with fired := some x } else m

/-- After a write of `n` bytes at a place, every monitor on it evaluates and every anchor on it records, but one whose atomic
stands in an open task (R407). (DESIGN CHOICE, log entry 15.) -/
def State.noteWrite (s : State) (q : Place) (n : Nat) : State :=
  if s.monitors.isEmpty && s.anchors.isEmpty then s
  else
    { s with
      monitors := s.monitors.map fun m => if m.place.hit q n then m.see (BitVec.ofNat 64 (s.word8 m.place)) else m
      anchors := s.anchors.map fun a =>
        if a.task == 0 && a.place.hit q n then { a with vals := a.vals ++ [BitVec.ofNat 64 (s.word8 a.place)] } else a }

/-- Bytes of physical memory. -/
def State.peek (s : State) (pa n : Nat) : List Byte := mread s.mem pa n

/-- Bytes stored in physical memory: the only place where they change. -/
def State.poke (s : State) (pa : Nat) (bs : List Byte) : State :=
  ({ s with mem := mwrite pa bs s.mem }).noteWrite (.phys pa) bs.length

/-- Bytes of a team's local store (R123). -/
def State.peekStore (s : State) (t off n : Nat) : List Byte := mread (s.team t).lstore off n
def State.pokeStore (s : State) (t off : Nat) (bs : List Byte) : State :=
  (s.modTeam t fun x => { x with lstore := mwrite off bs x.lstore }).noteWrite (.store t off) bs.length

def lineOf (pa : Nat) : Nat := pa / 128

/-- A monitor watches the line: it takes no reduction in U, so that the monitor meets every write. -/
def State.watched (s : State) (line : Nat) : Bool :=
  s.monitors.any fun m => m.place.hit (.phys (line * 128)) 128

/-! ### The coherence protocol -/

def State.dirOf (s : State) (line : Nat) : Dir := tgetD s.coh.dir line {}
def State.setDir (s : State) (line : Nat) (d : Dir) : State :=
  { s with coh := { s.coh with dir := tset line d s.coh.dir } }
def State.cline (s : State) (cl line : Nat) : Option CLine :=
  s.coh.lines.find? fun x => x.cl == cl && x.line == line
/-- The line's state in a cluster cache, where it is in use there (not in the writeback buffer). -/
def State.lineSt (s : State) (cl line : Nat) : Option LineSt :=
  match s.cline cl line with
  | some x => if x.wb then none else some x.st
  | none => none
def State.dropLine (s : State) (cl line : Nat) : State :=
  { s with coh := { s.coh with lines := s.coh.lines.filter fun x => !(x.cl == cl && x.line == line) } }
def State.putLine (s : State) (x : CLine) : State :=
  let t := s.dropLine x.cl x.line
  { t with coh := { t.coh with lines := t.coh.lines ++ [x] } }
def State.send (s : State) (m : Msg) : State := { s with coh := { s.coh with msgs := s.coh.msgs ++ [m] } }
def State.sendAll (s : State) (k : MsgKind) (line : Nat) (cls : List Nat) : State :=
  cls.foldl (fun s c => s.send { kind := k, cl := c, line := line }) s

/-- Combines a returned partial into the line's bytes, touched elements only, each one operation (R128, R129); a partial has
elements of its line alone. -/
def State.combine (s : State) (line : Nat) (k : AOp) (p : Tab Nat) : State :=
  (p.filter fun e => decide (e.1 + k.size ≤ 128)).foldl (fun s e =>
    let pa := line * 128 + e.1
    let old := ofBytes (s.peek pa k.size)
    s.poke pa (toBytes k.size (k.new old e.2 0))) s

/-- The home answers the requester: a grant on its way, with the state it gives. -/
def State.grant (s : State) (cl line : Nat) (st : LineSt) : State := s.send { kind := .grant st, cl := cl, line := line }

/-- Closes the transaction on a line: the directory stands as given; a held eviction is discarded and acknowledged. -/
def State.closeTxn (s : State) (line : Nat) (d : Dir) : State :=
  let t := s.setDir line { d with txn := none, held := none }
  match d.held with
  | none => t
  | some c => t.send { kind := .wbAck, cl := c, line := line }

/-- The end of a transaction whose other copies are gone: the row "as the pending request gives" (R131). -/
def State.grantAlone (s : State) (line cl : Nat) (r : Req) (d : Dir) : State :=
  match r with
  | .rdS => (s.closeTxn line { d with st := .E, owner := some cl, holders := [] }).grant cl line .E
  | .rdX | .upg => (s.closeTxn line { d with st := .E, owner := some cl, holders := [] }).grant cl line .M
  | .rdU k => (s.closeTxn line { d with st := .U k, owner := none, holders := [cl] }).grant cl line (.U k)
  | .wrL x =>
    (s.closeTxn line { d with st := .I, owner := none, holders := [], fresh := true }).poke (line * 128) (toBytes 128 x)
  | .homeAtomic | .read => s.closeTxn line { d with st := .I, owner := none, holders := [] }
  | .evict =>
    let t := s.closeTxn line { d with st := .I, owner := none, holders := [], inLlc := false }
    if d.waiting.isEmpty then { t with coh := { t.coh with dir := tdel line t.coh.dir } } else t

/-- Slice of a line, package-wide, as the hash of R126 gives it within the die. -/
def sliceOf (line : Nat) : Nat :=
  let pa := line * 128
  (if pa < 0x00C000000000 then pa / 0x003000000000 else 0) * 32 + Config.sliceHash line % 32

/-- Lines that a slice has, of those that a test accepts, reach a number; the hash is asked only where the package has as
many. -/
def State.sliceHas (s : State) (line : Nat) (p : Dir → Bool) (n : Nat) : Bool :=
  if (s.coh.dir.filter fun e => p e.2).length < n then false
  else decide (n ≤ (s.coh.dir.filter fun e => p e.2 && sliceOf e.1 == sliceOf line).length)

/-- Every transaction entry of a line's slice is taken (R133). -/
def State.sliceFull (s : State) (line : Nat) : Bool := s.sliceHas line (fun d => d.txn.isSome) Config.sliceEntries

/-- The spill queue of a line's slice, and whether its 2 MiB are full (R133, R134). -/
def State.spillOf (s : State) (line : Nat) : List (Nat × Nat × Req) :=
  if s.coh.spill.isEmpty then [] else tgetD s.coh.spill (sliceOf line) []
def State.spillFull (s : State) (line : Nat) : Bool := decide (Config.spillRecords ≤ (s.spillOf line).length)
def State.setSpill (s : State) (slice : Nat) (q : List (Nat × Nat × Req)) : State :=
  { s with coh := { s.coh with spill := if q.isEmpty then tdel slice s.coh.spill else tset slice q s.coh.spill } }

/-- A line that the LLC is to take displaces another of its slice where the slice is full (R13, R126): the one longest
there with no transaction open, recalled first where a cluster holds it. (DESIGN CHOICE, log entry 11.) -/
def State.llcRoom (s : State) (line : Nat) : State :=
  if !s.sliceHas line (fun d => d.inLlc) Config.sliceLines then s
  else
    match s.coh.dir.find? fun e => e.2.inLlc && e.2.txn.isNone && e.1 != line && sliceOf e.1 == sliceOf line with
    | none => s
    | some (l, d) =>
      match d.st, d.owner with
      | .U _, _ => (s.setDir l { d with st := .C, txn := some (0, .evict) }).sendAll .coll l d.holders
      | .E, some o | .O, some o =>
        ((s.setDir l { d with st := .SX, txn := some (0, .evict) }).sendAll .inv l (d.holders.filter (· != o))).send
          { kind := .rcl, cl := o, line := l }
      | _, _ =>
        if d.holders.isEmpty then { s with coh := { s.coh with dir := tdel l s.coh.dir } }
        else (s.setDir l { d with st := .SX, txn := some (0, .evict) }).sendAll .inv l d.holders

/-- The home slice takes a line that it does not have (R126, R380). -/
def State.llcFetch (s : State) (line : Nat) : State :=
  if (tget line s.coh.dir).any fun d => d.inLlc then s
  else
    let t := s.llcRoom line
    t.setDir line { (t.dirOf line) with inLlc := true }

/-- The home takes a request to a line with no transaction open: the rows of R131's table. -/
def State.homeStart (s : State) (line cl : Nat) (r : Req) : State :=
  let d := s.dirOf line
  -- the requester keeps its own shared copy where it is to hold the line; WrL and the home's own work leave none (R127, R130)
  let others := match r with
    | .rdS | .rdX | .upg | .rdU _ => d.holders.filter (· != cl)
    | _ => d.holders
  -- an Upg of a cluster that no longer holds the line becomes an RdX (R132)
  let r := match r with
    | .upg => if d.holders.contains cl || d.owner == some cl then .upg else .rdX
    | r => r
  let dt : Dir := { d with txn := some (cl, r) }
  let absent := (tget line s.coh.dir).isNone || !d.inLlc
  if absent && (match r with | .rdU _ => true | _ => false) then
    (s.llcRoom line).grantAlone line cl r { dt with inLlc := true }
  else if absent && r != .evict then
    ((s.llcRoom line).setDir line { dt with st := .IM }).send { kind := .memData, cl := cl, line := line }
  else
    match d.st with
    | .S =>
      match r with
      | .rdS => (s.setDir line { d with holders := cl :: others }).grant cl line .S
      | .read => s
      | _ => if others.isEmpty then s.grantAlone line cl r dt
             else (s.setDir line { dt with st := .SX }).sendAll .inv line others
    | .E | .O =>
      match d.owner with
      | none => s.grantAlone line cl r dt
      | some o =>
        match r with
        | .rdS =>
          if o == cl then s.grant cl line .O
          else (s.setDir line { dt with st := .F }).send { kind := .fwdS, cl := o, line := line }
        | .read => s
        | .rdX | .upg =>
          if d.st == .E && o != cl then (s.setDir line { dt with st := .F }).send { kind := .fwdX, cl := o, line := line }
          else if o == cl && others.isEmpty then s.grantAlone line cl r dt
          else
            let t := (s.setDir line { dt with st := .SX }).sendAll .inv line (others.filter (· != o))
            if o == cl then t else t.send { kind := .fwdX, cl := o, line := line }
        | _ => ((s.setDir line { dt with st := .SX }).sendAll .inv line (d.holders.filter (· != o))).send
                 { kind := .rcl, cl := o, line := line }
    | .U k =>
      if r == .rdU k then (s.setDir line { d with holders := cl :: others }).grant cl line (.U k)
      else if d.holders.isEmpty then s.grantAlone line cl r dt
      else (s.setDir line { dt with st := .C }).sendAll .coll line d.holders
    | _ => s.grantAlone line cl r dt

/-- Takes waiting requests of a line, in their order, until one leaves a transaction open (R131). -/
def State.serveWaiting (line : Nat) : Nat → State → State
  | 0, s => s
  | n + 1, s =>
    let d := s.dirOf line
    match d.txn, d.waiting with
    | none, (cl, r) :: rest => State.serveWaiting line n ((s.setDir line { d with waiting := rest }).homeStart line cl r)
    | _, _ => s
def State.homeNext (s : State) (line : Nat) : State := State.serveWaiting line (s.dirOf line).waiting.length s

/-- A request reaches the home: it waits behind an open transaction (R131), goes to the slice's spill queue (R133), or is
taken; while the spill queue is full the slice does not accept it, and it stays in the mesh (R134). -/
def State.homeReq (s : State) (line cl : Nat) (r : Req) : State :=
  let d := s.dirOf line
  let q := s.spillOf line
  if !q.isEmpty || (d.txn.isSome && d.waiting.length ≥ Config.lineWaiting) || (d.txn.isNone && s.sliceFull line) then
    (if s.spillFull line then s.send { kind := .req r, cl := cl, line := line }
     else s.setSpill (sliceOf line) (q ++ [(line, cl, r)]))
  else if d.txn.isSome then s.setDir line { d with waiting := d.waiting ++ [(cl, r)] }
  else s.homeStart line cl r

/-- Some answer on the line is still on its way. -/
def State.answersOut (s : State) (line : Nat) : Bool :=
  s.coh.msgs.any fun m => m.line == line &&
    (match m.kind with
     | .inv | .fwdS | .fwdX | .rcl | .coll | .ack | .fwdAck _ | .partial_ _ _ | .wbu _ _ => true
     | _ => false)

/-- A forward or a recall of the home to a cluster is open: on its way, or its answer is (R131). -/
def State.fwdOpen (s : State) (cl line : Nat) : Bool :=
  s.coh.msgs.any fun m => m.line == line && m.cl == cl &&
    (match m.kind with | .fwdS | .fwdX | .rcl | .fwdAck _ => true | _ => false)

/-- A cluster gives up a line of its cache (R129, R131, R132): a dirty line goes out as WB, a clean sole copy as PutE, a
partial as WBU, and a shared copy without a message. -/
def State.evictLine (s : State) (x : CLine) : State :=
  if x.wb then s
  else
    match x.st with
    | .M | .O => (s.putLine { x with wb := true }).send { kind := .wb, cl := x.cl, line := x.line }
    | .E => (s.putLine { x with wb := true }).send { kind := .putE, cl := x.cl, line := x.line }
    | .S => s.dropLine x.cl x.line
    | .U k => (s.putLine { x with part := [], wb := true }).send { kind := .wbu x.part k, cl := x.cl, line := x.line }

/-- A cluster cache that is full gives up the line longest in it, an RO copy first (R13). SCO copies stay (R121).
(DESIGN CHOICE, log entry 11.) -/
def State.cacheRoom (s : State) (cl line : Nat) : State :=
  let mine := s.coh.lines.filter fun x => x.cl == cl && !x.wb && x.line != line
  let ros := s.ro.filter fun x => x.cl == cl
  if mine.length + ros.length + (s.sco.filter fun x => x.cl == cl).length < Config.clusterLines then s
  else
    match ros, mine with
    | y :: _, _ => { s with ro := s.ro.filter fun x => !(x.cl == cl && x.line == y.line) }
    | [], x :: _ => s.evictLine x
    | [], [] => s

/-- The line's copy leaves the cluster where a forward, a recall or a collection takes it; a writeback buffer keeps its
bytes until WBAck (R132). -/
def State.giveUp (s : State) (cl line : Nat) : State :=
  match s.cline cl line with
  | some x => if x.wb then s else s.dropLine cl line
  | none => s

/-- The last answer ends the transaction (rows H.SX, H.C of R131), and the next request is taken. -/
def State.maybeFinish (s : State) (line : Nat) : State :=
  if s.answersOut line then s
  else
    let d := s.dirOf line
    match d.txn with
    | some (cl, r) =>
      match d.st with
      | .SX | .C => (s.grantAlone line cl r { d with owner := none, holders := [] }).homeNext line
      | _ => s
    | none => s

/-- A message is delivered: the agent's answers (R129, R132) and the home's transitions (R131). A FwdS that a writeback buffer
serves leaves the requester in S where the line was clean, and makes it the owner in O where it was dirty; the table
names H.O and no owner. (DESIGN CHOICE, log entry 69.) -/
def State.deliver (s : State) (m : Msg) : State :=
  let line := m.line
  let cl := m.cl
  let d := s.dirOf line
  match m.kind with
  | .req r => s.homeReq line cl r
  | .memData =>
    match d.txn with
    | some (c, r) => (s.grantAlone line c r { d with st := .I, fresh := true }).homeNext line
    | none => s
  | .grant st => (s.cacheRoom cl line).putLine { cl := cl, line := line, st := st }
  | .inv => (s.giveUp cl line).send { kind := .ack, cl := cl, line := line }
  | .rcl => (s.giveUp cl line).send { kind := .fwdAck .M, cl := cl, line := line }
  | .fwdS =>
    let who := (d.txn.map fun t => t.1).getD cl
    match s.cline cl line with
    | some x =>
      if x.wb then
        -- the writeback buffer keeps no copy after WBAck: a dirty line's requester becomes its owner
        (if x.st == .E then (s.grant who line .S).send { kind := .fwdAck .E, cl := cl, line := line }
         else (s.grant who line .O).send { kind := .fwdAck .S, cl := cl, line := line })
      else
        let st : LineSt := if x.st == .E then .S else .O
        ((s.putLine { x with st := st }).grant who line .S).send { kind := .fwdAck x.st, cl := cl, line := line }
    | none => (s.grant who line .S).send { kind := .fwdAck .E, cl := cl, line := line }
  | .fwdX =>
    match d.st with
    | .F =>
      let who := (d.txn.map fun t => t.1).getD cl
      ((s.giveUp cl line).grant who line .M).send { kind := .fwdAck .M, cl := cl, line := line }
    | _ => (s.giveUp cl line).send { kind := .fwdAck .M, cl := cl, line := line }
  | .coll =>
    match s.cline cl line with
    | some x => (match x.st, x.wb with
        | .U k, false => (s.dropLine cl line).send { kind := .partial_ x.part k, cl := cl, line := line }
        | _, _ => s.send { kind := .ack, cl := cl, line := line })
    | none => s.send { kind := .ack, cl := cl, line := line }
  | .partial_ p k =>
    let t := s.combine line k p
    (t.setDir line { (t.dirOf line) with holders := d.holders.filter (· != cl) }).maybeFinish line
  | .wbu p k =>
    let t := s.combine line k p
    let hs := d.holders.filter (· != cl)
    let u := t.setDir line { d with holders := hs, st := if hs.isEmpty && d.txn.isNone then .I else d.st }
    (u.send { kind := .wbAck, cl := cl, line := line }).maybeFinish line
  | .ack => (s.setDir line { d with holders := d.holders.filter (· != cl) }).maybeFinish line
  | .fwdAck was =>
    match d.st, d.txn with
    | .F, some (c, r) =>
      let nd : Dir := match r with
        | .rdS =>
          if was == .S then { d with st := .O, owner := some c }
          else if was == .E then { d with st := .S, owner := none, holders := [c, cl] }
          else { d with st := .O, owner := some cl, holders := c :: d.holders.filter (· != c) }
        | _ => { d with st := .E, owner := some c, holders := [], fresh := false }
      (s.closeTxn line nd).homeNext line
    | _, some (_, r) =>
      let back := match r with | .rdX | .upg => d.fresh | _ => true
      (s.setDir line { d with owner := none, fresh := back }).maybeFinish line
    | _, none => s
  | .wb | .putE =>
    if d.owner == some cl then
      if s.fwdOpen cl line then s.setDir line { d with held := some cl }
      else
        (s.setDir line { d with
          owner := none, fresh := true, st := if d.txn.isSome then d.st else if d.holders.isEmpty then .I else .S }).send
          { kind := .wbAck, cl := cl, line := line }
    else s.send { kind := .wbAck, cl := cl, line := line }
  | .wbAck =>
    match s.cline cl line with
    | some x => if x.wb then s.dropLine cl line else s
    | none => s

/-- Takes out and delivers the first message that a test accepts. -/
def State.deliverFirst (s : State) (p : Msg → Bool) : Option State :=
  (takeFirst p s.coh.msgs).map fun y => ({ s with coh := { s.coh with msgs := y.2 } }).deliver y.1

/-- A message is a request. -/
def Msg.isReq (m : Msg) : Bool := match m.kind with | .req _ => true | _ => false

/-- A request in the mesh comes after those of lower cluster numbers on its line (R131); other messages have no such order. -/
def State.reqTurn (s : State) (m : Msg) : Bool :=
  !m.isReq || s.coh.msgs.all fun x => !x.isReq || x.line != m.line || decide (m.cl ≤ x.cl)

/-- Delivers every message on a line, in order, with what they cause; a request whose slice does not accept it stays. -/
def State.drainLine : Nat → State → Nat → State
  | 0, s, _ => s
  | n + 1, s, line =>
    match s.deliverFirst fun m => m.line == line && !(s.spillFull line && m.isReq) && s.reqTurn m with
    | some t => State.drainLine n t line
    | none => s

/-- How far a drain may go: a line has few messages open. -/
def drainFuel : Nat := 4096

/-- A transaction entry for a line's slice: where all are taken, one open transaction of the slice ends (R133). -/
def State.freeEntry (s : State) (line : Nat) : State :=
  if !s.sliceFull line then s
  else
    match s.coh.dir.find? fun e => e.2.txn.isSome && sliceOf e.1 == sliceOf line with
    | some (l, _) => s.drainLine drainFuel l
    | none => s

/-- A reserved entry of a line's slice for an eviction that is to be held: where 32 are, one of their transactions ends, so
that the slice always accepts (R133, R134). (DEDUCED, log entry 11.) -/
def State.freeHold (s : State) (line : Nat) : State :=
  if !s.sliceHas line (fun d => d.held.isSome) Config.sliceReserve then s
  else
    match s.coh.dir.find? fun e => e.2.held.isSome && sliceOf e.1 == sliceOf line with
    | some (l, _) => s.drainLine drainFuel l
    | none => s

/-- A slice's spill queue is served, the oldest request first, each to its grant (R133). -/
def State.drainSpill (slice : Nat) : Nat → State → State
  | 0, s => s
  | n + 1, s =>
    match tgetD s.coh.spill slice [] with
    | [] => s
    | (l, c, r) :: rest =>
      State.drainSpill slice n (((((s.setSpill slice rest).drainLine drainFuel l).freeEntry l).homeStart l c r).drainLine drainFuel l)

/-- A request that runs to its grant: what is open on the line first (R131), what the slice has spilled before it (R133),
then this one. (DEDUCED, log entry 11.) -/
def State.request (s : State) (line cl : Nat) (r : Req) : State :=
  let s := s.drainLine drainFuel line
  let s := if (s.spillOf line).isEmpty then s else State.drainSpill (sliceOf line) (s.spillOf line).length s
  ((s.freeEntry line).homeStart line cl r).drainLine drainFuel line

/-- The cluster may read the line (R126): a shared copy is fetched where it has none. -/
def State.ensureRead (s : State) (cl line : Nat) : State :=
  match s.lineSt cl line with
  | some .M | some .O | some .E | some .S => s
  | _ => s.request line cl .rdS

/-- The cluster may write the line: it holds M (R126). -/
def State.ensureWrite (s : State) (cl line : Nat) : State :=
  match s.lineSt cl line with
  | some .M => s
  | some .E =>
    (s.putLine { cl := cl, line := line, st := .M }).setDir line { (s.dirOf line) with fresh := false }
  | some .S | some .O =>
    let t := s.request line cl .upg
    t.setDir line { (t.dirOf line) with fresh := false }
  | _ =>
    let t := s.request line cl .rdX
    t.setDir line { (t.dirOf line) with fresh := false }

/-- Every cached copy recalled or collected, for an atomic at the home or a write there (R127, R129). -/
def State.recall (s : State) (line : Nat) : State :=
  if (tget line s.coh.dir).isNone then s else s.request line 0 .homeAtomic

/-- A read by an agent that keeps no copy: partials are collected first (R129). -/
def State.collect (s : State) (line : Nat) : State :=
  match (s.dirOf line).st with
  | .I | .S | .E | .O => s
  | _ => s.request line 0 .read

/-- Lines that a range of bytes touches. -/
def linesOf (pa n : Nat) : List Nat :=
  (upTo (lineOf (pa + n - 1) + 1 - lineOf pa)).map fun i => lineOf pa + i

/-- Bytes read at the homes, and written there, by an agent of the package other than a core (R129, R151). -/
def State.homeRead (s : State) (pa n : Nat) : List Byte × State :=
  let t := (linesOf pa n).foldl (fun s l => s.collect l) s
  (t.peek pa n, t)
def State.homeWrite (s : State) (pa : Nat) (bs : List Byte) : State :=
  ((linesOf pa bs.length).foldl (fun s l => s.recall l) s).poke pa bs

/-- A read of a number at the homes. -/
def State.homeNat (s : State) (pa n : Nat) : Nat × State := let r := s.homeRead pa n; (ofBytes r.1, r.2)

/-! ### SCO copies -/

def State.scoLine (s : State) (cl line : Nat) : Option Sco := s.sco.find? fun x => x.cl == cl && x.line == line
def State.dropSco (s : State) (cl line : Nat) : State :=
  { s with sco := s.sco.filter fun x => !(x.cl == cl && x.line == line) }
def State.putSco (s : State) (x : Sco) : State :=
  let t := s.dropSco x.cl x.line
  { t with sco := t.sco ++ [x] }

/-- The dirty bytes of every cluster's copy of an SCO line go to the home, where a walk reads them (R117); the copies stay,
clean. -/
def State.scoClean (s : State) (line : Nat) : State :=
  let t := (s.sco.filter fun x => x.line == line && x.dirty != 0).foldl (fun s x =>
    (bitsSet x.dirty 128).foldl (fun s off => s.poke (x.line * 128 + off) [x.data.getD off 0]) s) s
  { t with sco := t.sco.map fun x => if x.line == line then { x with dirty := 0 } else x }

/-- Every cluster's copy of an SCO line is recalled (R127): dirty bytes go to the home, and the copies go. -/
def State.scoRecall (s : State) (line : Nat) : State :=
  let t := s.scoClean line
  { t with sco := t.sco.filter fun x => x.line != line }

/-- Where a reduction form is performed on a COH line by a cluster (R126, R127): on its own M or E line, in U, or at the
home. -/
inductive RedAt where
  | own | u | home
  deriving DecidableEq, Repr

def State.redAt (s : State) (cl line : Nat) (k : AOp) : RedAt :=
  match s.lineSt cl line with
  | some .M | some .E => .own
  | some (.U j) => if j == k && !s.watched line then .u else .home
  | _ =>
    match (s.dirOf line).st with
    | .I => if s.watched line then .home else .u
    | .U j => if j == k && !s.watched line then .u else .home
    | _ => .home

/-- A reduction form on a COH location by a core of a cluster (R127, R128). -/
def State.reduce (s : State) (cl : Nat) (k : AOp) (pa b : Nat) : State :=
  let line := lineOf pa
  let s := s.drainLine drainFuel line
  let atHome (s : State) : State :=
    let t := (s.recall line).scoRecall line
    t.poke pa (toBytes k.size (k.new (ofBytes (t.peek pa k.size)) b 0))
  match s.redAt cl line k with
  | .own =>
    let t := s.ensureWrite cl line
    t.poke pa (toBytes k.size (k.new (ofBytes (t.peek pa k.size)) b 0))
  | .u =>
    let t := if (s.lineSt cl line).isSome then s else s.request line cl (.rdU k)
    match t.cline cl line with
    | some x => t.putLine { x with part := partAdd k (pa % 128) b x.part }
    | none => atHome t
  | .home => atHome s

/-! ### SCO copies in use -/

/-- The cluster's SCO copies fill its cache but for the line that other types keep (R13). -/
def State.scoFull (s : State) (cl : Nat) : Bool :=
  decide (Config.clusterLines ≤ (s.sco.filter fun x => x.cl == cl).length + 1)

/-- The cluster has a copy of an SCO line: what it has, or the home's bytes with every partial collected (R121, R129). No rule
lets a copy be given up for room, so a cluster whose SCO copies fill its cache takes no further one, and accesses of the
line are performed at its home. (DESIGN CHOICE, log entry 11.) -/
def State.scoFetch (s : State) (cl line : Nat) : State :=
  if (s.scoLine cl line).isSome then s
  else
    let t := s.collect line
    if t.scoFull cl then t
    else
      let t := t.cacheRoom cl line
      t.putSco { cl := cl, line := line, data := t.peek (line * 128) 128, dirty := 0 }

/-- A cluster's copy of an RO line, and its fetch (R120): no home tracks it, and no rule calls it back. -/
def State.roLine (s : State) (cl line : Nat) : Option Sco := s.ro.find? fun x => x.cl == cl && x.line == line
def State.roFetch (s : State) (cl line : Nat) : State :=
  if (s.roLine cl line).isSome then s
  else
    let t := (s.collect line).cacheRoom cl line
    { t with ro := t.ro ++ [{ cl := cl, line := line, data := t.peek (line * 128) 128, dirty := 0 }] }

/-- One byte read, and one written, in the cluster's copy. -/
def Sco.byte (x : Sco) (off : Nat) : Byte := x.data.getD off 0
def Sco.store (x : Sco) (off : Nat) (b : Byte) : Sco :=
  { x with data := x.data.set off b, dirty := if x.dirty.testBit off then x.dirty else x.dirty + 2 ^ off }

/-- Dirty bytes of an SCO copy go to the home (R121). -/
def State.scoBack (s : State) (x : Sco) : State :=
  (bitsSet x.dirty 128).foldl (fun s off => s.poke (x.line * 128 + off) [x.byte off]) s

/-- The write-back action of a release (R121): every dirty SCO line of a cluster; the copies stay, clean. -/
def State.scoRelease (s : State) (cl : Nat) : State :=
  let mine := s.sco.filter fun x => x.cl == cl && x.dirty != 0
  let t := mine.foldl (fun s x => s.scoBack x) s
  { t with sco := t.sco.map fun x => if x.cl == cl then { x with dirty := 0 } else x }

/-- The action of an acquire (R121): dirty lines written back, then every SCO line of the cluster invalidated. -/
def State.scoAcquire (s : State) (cl : Nat) : State :=
  let t := s.scoRelease cl
  { t with sco := t.sco.filter fun x => x.cl != cl }

end Sys2Proof.Machine
end

