-- ==== Sys2Proof/Machine/Translate.lean ====
section
/-!
DEFINITION. From a Marby address to the place that is accessed: windows (R109, R110), private slots (R111), the physical
map (R113), the page walk and its faults (R114 to R117), cached translations (R118, R119), the memory types (R120), and
the domain and version records that a versioned page's access needs (R160 to R166).
-/
namespace Sys2Proof.Machine

/-- What an access is, for the checks of R115 and R197. -/
inductive AKind where
  | fetch | load | store | atomic
  deriving DecidableEq, Repr

/-- Memory types (R120), and host memory or a device register, which are DEV. -/
inductive MType where
  | coh | sco | ro | dev
  deriving DecidableEq, Repr

/-- Where bytes are accessed: physical memory of the package with its type and, for a versioned page, its domain; a
team's local store; another package, by a DEV page or not; a device register. -/
inductive Target where
  | mem (pa : Nat) (ty : MType) (dom : Option Nat) (va : Nat)
  | store (team off : Nat)
  | remote (pkg pa : Nat) (dev : Bool)
  | device (pa : Nat)
  deriving DecidableEq, Repr

/-- Bits [63:56] of an address (R109). -/
def window (va : Word) : Nat := va.toNat / 2 ^ 56
def vaOf (va : Word) : Nat := va.toNat % 2 ^ 56

/-- The physical map (R113). -/
inductive PRange where
  | hbm | tier2 | host | package (p : Nat) | device | none
  deriving DecidableEq, Repr

def prange (pa : Nat) : PRange :=
  if pa < 0x00C000000000 then .hbm
  else if 0x010000000000 ≤ pa && pa < 0x028000000000 then .tier2
  else if 0x100000000000 ≤ pa && pa < 0x200000000000 then .host
  else if 0x80000000000000 ≤ pa && pa < 0xC0000000000000 then .package (bitsOf pa 53 47)
  else if 0xFF000000000000 ≤ pa && pa < 0x100000000000000 then .device
  else .none

/-- A range admits a memory type (R113). -/
def PRange.admits (r : PRange) (ty : MType) : Bool :=
  match r with
  | .hbm | .tier2 => ty != .dev
  | .host | .device => ty == .dev
  | .package _ => true
  | .none => false

/-! ### Table entries -/

def leafFrame (e : Nat) : Nat := bitsOf e 55 16 * 2 ^ 16
def leafDom (e : Nat) : Nat := bitsOf e 15 8
def leafVer (e : Nat) : Bool := e.testBit 7
def leafType (e : Nat) : MType :=
  match bitsOf e 6 5 with
  | 0 => .coh
  | 1 => .sco
  | 2 => .ro
  | _ => .dev
def leafLarge (e : Nat) : Bool := e.testBit 4
def leafX (e : Nat) : Bool := e.testBit 3
def leafW (e : Nat) : Bool := e.testBit 2
def entryLeaf (e : Nat) : Bool := e.testBit 1
def entryValid (e : Nat) : Bool := e.testBit 0

/-- A table entry with every reserved bit zero (R114, R115). -/
def tableOk (e : Nat) : Bool := bitsOf e 63 56 == 0 && bitsOf e 12 2 == 0

/-- A leaf with its fields within their limits at its level (R114, R115). -/
def leafOk (e : Nat) (third : Bool) : Bool :=
  bitsOf e 63 56 == 0 && (leafVer e || leafDom e == 0) && leafLarge e == third
    && (!third || bitsOf e 25 16 == 0)

/-- A number in physical memory. -/
def State.num (s : State) (pa n : Nat) : Nat := ofBytes (s.peek pa n)

/-! ### Domains and version records -/

/-- Address of a domain's record (R162). -/
def State.domAddr (s : State) (ctx dom : Nat) : Nat := (s.ctx ctx).domTab + 64 * dom
def State.domOpen (s : State) (ctx dom : Nat) : Nat := s.num (s.domAddr ctx dom) 4
def State.domOldest (s : State) (ctx dom : Nat) : Nat := s.num (s.domAddr ctx dom + 4) 4
def State.domBase (s : State) (ctx dom : Nat) : Nat := s.num (s.domAddr ctx dom + 8) 8
def State.domPages (s : State) (ctx dom : Nat) : Nat := s.num (s.domAddr ctx dom + 16) 4
def State.domHold (s : State) (ctx dom : Nat) : Nat := s.num (s.domAddr ctx dom + 20) 4
def State.domVrt (s : State) (ctx dom : Nat) : Nat := s.num (s.domAddr ctx dom + 24) 8
def State.domPool (s : State) (p : Pool) : Nat := s.num (s.domAddr p.ctx p.dom + if p.tier2 then 40 else 32) 8
def State.domOn (s : State) (ctx dom : Nat) : Bool := s.num (s.domAddr ctx dom + 63) 1 == 1

/-- A version record (R163): version, state, frame. -/
structure VRec where
  ver : Nat
  state : Nat
  frame : Nat
  deriving DecidableEq, Repr

/-- The page entry of a page (R163), and its records: slots newest first. -/
def State.pageEntry (s : State) (ctx dom va : Nat) : Nat :=
  s.domVrt ctx dom + (va - s.domBase ctx dom) / 65536 * 512
def State.vrec (s : State) (pa : Nat) : VRec :=
  { ver := s.num pa 4, state := s.num (pa + 4) 1, frame := s.num (pa + 8) 8 }
def VRec.bytes (r : VRec) : List Byte := toBytes 4 r.ver ++ toBytes 1 r.state ++ [0, 0, 0] ++ toBytes 8 r.frame
def State.vslots (s : State) (pe : Nat) : List VRec :=
  ((upTo 16).map fun i => s.vrec (pe + 16 * i)).filter fun r => r.state != 0
/-- The second-tier chain from a chain frame on (R164), oldest first, over at most `n` records; a link goes on. -/
def State.vchain (s : State) : Nat → Nat → Nat → Nat → List VRec
  | 0, _, _, _ => []
  | _, _, _, 0 => []
  | n + 1, fr, i, left + 1 =>
    let r := s.vrec (fr + 16 * i)
    if r.state == 3 then s.vchain n r.frame 0 (left + 1) else r :: s.vchain n fr (i + 1) left
def State.vrecs (s : State) (pe : Nat) : List VRec :=
  let cnt := s.num (pe + 264) 4
  s.vslots pe ++ (s.vchain (2 * cnt + 8) (s.num (pe + 256) 8) 0 cnt).reverse

/-- The newest record that serves a version (R166). -/
def State.vfind (s : State) (pe v : Nat) : Option VRec := (s.vrecs pe).find? fun r => decide (r.ver ≤ v)

/-- The newest record's version: a store needs it to equal O (R172). -/
def State.newestVer (s : State) (ctx dom va : Nat) : Nat := (s.vrec (s.pageEntry ctx dom va)).ver

/-- A versioned leaf is legal (R160), and its page has a newest record (R164). -/
def State.verOk (s : State) (ctx va e : Nat) : Bool :=
  let d := leafDom e
  !leafLarge e && (leafType e == .coh || leafType e == .sco) && s.domOn ctx d
    && decide (s.domBase ctx d ≤ va) && decide (va < s.domBase ctx d + s.domPages ctx d * 65536)
    && (s.vrec (s.pageEntry ctx d va)).state != 0

/-! ### The walk -/

/-- Index of a level, 0 to 3 (R114). -/
def walkIdx (va level : Nat) : Nat := va / 2 ^ (46 - 10 * level) % 1024

/-- Walks the levels from a table on (R114, R115): the leaf, or PAGE; PROT where a table's address lies in no range of
memory of the package. (DESIGN CHOICE, log entry 59.) -/
def State.walkFrom (s : State) (ctx va table : Nat) : List Nat → Except Cause Nat
  | [] => .error .page
  | level :: rest =>
    if prange table != .hbm && prange table != .tier2 then .error .prot
    else
      let e := s.num (table + 8 * walkIdx va level) 8
      if !entryValid e then .error .page
      else if entryLeaf e then
        (if level < 2 then .error .page
         else if !leafOk e (level == 2) then .error .page
         else if leafVer e && !s.verOk ctx va e then .error .page
         else .ok e)
      else if level == 3 || !tableOk e then .error .page
      else s.walkFrom ctx va (bitsOf e 55 13 * 2 ^ 13) rest

def State.walk (s : State) (ctx va : Nat) : Except Cause Nat := s.walkFrom ctx va (s.ctx ctx).root [0, 1, 2, 3]

/-- The home has every byte of the entries that a walk reads: partials on their lines are collected (R129), and dirty SCO
bytes written back, so that the walk is coherent with stores of every type (R117). -/
def State.walkLines (s : State) (va table : Nat) : List Nat → State
  | [] => s
  | level :: rest =>
    let pa := table + 8 * walkIdx va level
    let s := (s.scoClean (lineOf pa)).collect (lineOf pa)
    let e := s.num pa 8
    if entryValid e && !entryLeaf e then s.walkLines va (bitsOf e 55 13 * 2 ^ 13) rest else s
def State.walkPrep (s : State) (ctx va : Nat) : State := s.walkLines va (s.ctx ctx).root [0, 1, 2, 3]

/-- A walk would take an entry from a line with an uncorrectable error, and so never ends with it (R277). -/
def State.walkBadFrom (s : State) (va table : Nat) : List Nat → Bool
  | [] => false
  | level :: rest =>
    let pa := table + 8 * walkIdx va level
    let e := s.num pa 8
    s.bad.contains (lineOf pa) || (entryValid e && !entryLeaf e && s.walkBadFrom va (bitsOf e 55 13 * 2 ^ 13) rest)
def State.walkBad (s : State) (ctx va : Nat) : Bool := !s.bad.isEmpty && s.walkBadFrom va (s.ctx ctx).root [0, 1, 2, 3]

/-- A cached translation covers an address. -/
def Tlb.covers (t : Tlb) (ctx va : Nat) : Bool :=
  t.ctx == ctx && (if t.large then t.vpage / 1024 == va / 2 ^ 26 else t.vpage == va / 2 ^ 16)

/-- A cached translation that a core may use: its own, its cluster's, its die's (R119). -/
def Tlb.serves (t : Tlb) (core : Nat) : Bool :=
  match t.level with
  | 0 => t.owner == core
  | 1 => t.owner == clusterOf core
  | _ => t.owner == dieOf core

def State.tlbFind (s : State) (core ctx va : Nat) : Option Tlb :=
  s.tlb.find? fun t => t.serves core && t.covers ctx va

/-- The leaf for an address: a cached translation, or the walk's (R119). Bits of the domain and its records are read at
Damson each time. (DEDUCED, log entry 48.) -/
def State.leafFor (s : State) (core ctx va : Nat) : Except Cause Nat :=
  match s.tlbFind core ctx va with
  | some t => if leafVer t.leaf && !s.verOk ctx va t.leaf then .error .page else .ok t.leaf
  | none => s.walk ctx va

/-- Keeps at most `n` translations of one holder, the oldest going first. -/
def tlbTrim (level owner n : Nat) (l : List Tlb) : List Tlb :=
  let mine := l.filter fun t => t.level == level && t.owner == owner
  if mine.length ≤ n then l
  else
    match takeFirst (fun t => t.level == level && t.owner == owner) l with
    | some (_, r) => r
    | none => l

/-- A walk for a core's miss: its translation is cached at the three levels (R119); a fault is cached nowhere, and no
entry whose VALID bit is zero is ever held (R117). (DEDUCED, log entry 48.) -/
def State.tlbFill (s : State) (core ctx va : Nat) : State :=
  match s.tlbFind core ctx va with
  | some _ => s
  | none =>
    let s := s.walkPrep ctx va
    match (if s.walkBad ctx va then .error .page else s.walk ctx va) with
    | .error _ => s
    | .ok e =>
      let mk (lv ow : Nat) : Tlb :=
        { level := lv, owner := ow, ctx := ctx, vpage := va / 2 ^ 16, large := leafLarge e, leaf := e }
      let l := s.tlb ++ [mk 0 core, mk 1 (clusterOf core), mk 2 (dieOf core)]
      { s with tlb := tlbTrim 1 (clusterOf core) 2048 (tlbTrim 0 core 64 l) }

/-- Physical address of an address under its leaf (R114). -/
def leafPa (e va : Nat) : Nat := leafFrame e + (if leafLarge e then va % 2 ^ 26 else va % 2 ^ 16)

/-- A leaf admits an access (R115, R120): a fetch needs X, a store W, an atomic W on a page that is neither RO nor DEV; a
store of an RO page is PROT. -/
def leafAdmits (e : Nat) (k : AKind) : Bool :=
  match k with
  | .fetch => leafX e
  | .load => true
  | .store => leafW e && leafType e != .ro
  | .atomic => leafW e && leafType e != .ro && leafType e != .dev

/-- A global address, translated (R113 to R115). A store to a device register is PROT: the control cores are the only
agents that write there (R298). An address of another package's range that names this package is PROT.
(DEDUCED, log entry 17; DESIGN CHOICE, log entry 58.) -/
def State.globalAt (s : State) (core ctx va : Nat) (k : AKind) : Except Cause Target :=
  match s.leafFor core ctx va with
  | .error c => .error c
  | .ok e =>
    let pa := leafPa e va
    let r := prange pa
    if !r.admits (leafType e) || !leafAdmits e k then .error .prot
    else
      match r with
      | .package p => if p == s.position then .error .prot else .ok (.remote p (pa % 2 ^ 47) (leafType e == .dev))
      | .device => if k == .store then .error .prot else .ok (.device pa)
      | _ => .ok (.mem pa (leafType e) (if leafVer e then some (leafDom e) else none) va)

/-- The address of a thread's private slot (R111). (DESIGN CHOICE, log entry 7.) -/
def State.slotBase (s : State) (t tid : Nat) : Nat :=
  let tm := s.team t
  let gr := s.grid tm.grid
  (gr.arena.toNat + (tm.tix * tm.cap + tid) * gr.pkt.priv) % 2 ^ 56

/-- The team whose allocation a local-store slot addresses (R25); a slot whose team has ended addresses nothing: NOADDR.
(DESIGN CHOICE, log entry 74.) -/
def State.storeTeam (s : State) (t slot : Nat) : Option Nat :=
  if slot == 0 then some t
  else
    match (s.team t).ensemble with
    | none => none
    | some (ens, rank) =>
      if slot == rank then some t
      else (s.teams.find? fun e => e.2.grid == (s.team t).grid && e.2.ensemble == some (ens, slot)).map fun e => e.1

/-- Who accesses: team, tid, core and context, and whether a guarded task is open (R197). -/
structure Who where
  team : Nat
  tid : Nat
  core : Nat
  ctx : Nat
  task : Nat
  deriving DecidableEq, Repr

def State.who (s : State) (g : Group) (l : Nat) : Who :=
  { team := g.team, tid := (g.lane l).th.tid, core := g.core, ctx := s.ctxOf g, task := g.taskId }

/-- The global address behind a global or private address, window checks done (R109, R110): `none` for local store. -/
def State.globalOf (s : State) (w : Who) (va : Word) (n : Nat) : Except Cause (Option Nat) :=
  match window va with
  | 0x00 => if vaOf va + n ≤ 2 ^ 56 then .ok (some (vaOf va)) else .error .noaddr
  | 0xFE =>
    if vaOf va + n ≤ (s.grid (s.team w.team).grid).pkt.priv then .ok (some ((s.slotBase w.team w.tid + vaOf va) % 2 ^ 56))
    else .error .noaddr
  | 0xFF => .ok none
  | _ => .error .noaddr

/-- In a guarded task, a store or an atomic to local store, to DEV memory or to another package raises PROT (R197). -/
def Target.taskOk (t : Target) (k : AKind) : Bool :=
  match k with
  | .store | .atomic => (match t with | .mem _ ty _ _ => ty != .dev | _ => false)
  | _ => true

def taskCheck (w : Who) (k : AKind) (t : Target) : Except Cause Target :=
  if w.task != 0 && !t.taskOk k then .error .prot else .ok t

/-- The targets of an access of `n` bytes that must be aligned to `al`, each with its count of bytes, or the first cause in the order NOADDR, ALIGN,
PAGE, PROT (R116). An access that crosses a page has two targets (R141). -/
def State.targets (s : State) (w : Who) (va : Word) (n al : Nat) (k : AKind) :
    Except Cause (List (Target × Nat)) :=
  match s.globalOf w va n with
  | .error c => .error c
  | .ok none =>
    match s.storeTeam w.team (bitsOf va.toNat 55 48) with
    | none => .error .noaddr
    | some t =>
      let off := va.toNat % 2 ^ 48
      if off + n > (s.team t).lsize || k == .fetch then .error .noaddr
      else if va.toNat % al != 0 then .error .align
      else (taskCheck w k (.store t off)).map fun t => [(t, n)]
  | .ok (some a) =>
    if k == .fetch && window va != 0 then .error .noaddr
    else if va.toNat % al != 0 then .error .align
    else
      let first := 65536 - a % 65536
      if n ≤ first then
        match s.globalAt w.core w.ctx a k with
        | .error c => .error c
        | .ok t => (taskCheck w k t).map fun t => [(t, n)]
      else
        match s.globalAt w.core w.ctx a k, s.globalAt w.core w.ctx ((a + first) % 2 ^ 56) k with
        | .error .page, _ | _, .error .page => .error .page
        | .error c, _ => .error c
        | _, .error c => .error c
        | .ok t, .ok u =>
          match taskCheck w k t, taskCheck w k u with
          | .ok t, .ok u => .ok [(t, first), (u, n - first)]
          | .error c, _ => .error c
          | _, .error c => .error c

/-- The walks of an access, so that its translations are present (R119). -/
def State.prefetch (s : State) (w : Who) (va : Word) (n : Nat) : State :=
  match s.globalOf w va n with
  | .ok (some a) =>
    let t := s.tlbFill w.core w.ctx a
    if a / 65536 == (a + n - 1) / 65536 then t else t.tlbFill w.core w.ctx ((a + n - 1) % 2 ^ 56)
  | _ => s

/-- An access would be translated by a walk that meets an uncorrectable error (R277). -/
def State.walkHeld (s : State) (w : Who) (va : Word) (n : Nat) : Bool :=
  !s.bad.isEmpty && match s.globalOf w va n with
    | .ok (some a) => [a, (a + n - 1) % 2 ^ 56].any fun x => (s.tlbFind w.core w.ctx x).isNone && s.walkBad w.ctx x
    | _ => false

/-- A range of physical memory touches a line with an uncorrectable error (R277). -/
def State.poisoned (s : State) (pa n : Nat) : Bool := !s.bad.isEmpty && (linesOf pa n).any fun x => s.bad.contains x

/-- PTOG (R112): the global address behind a generic pointer, with no access. -/
def State.ptog (s : State) (w : Who) (x : Word) : Except Cause Word :=
  match window x with
  | 0x00 => .ok x
  | 0xFE =>
    if vaOf x ≥ (s.grid (s.team w.team).grid).pkt.priv then .error .noaddr
    else .ok (BitVec.ofNat 64 ((s.slotBase w.team w.tid + vaOf x) % 2 ^ 56))
  | _ => .error .noaddr

end Sys2Proof.Machine
end

