-- ==== Sys2Proof/Machine/Quince.lean ====
section
/-!
DEFINITION. Event records and the fault buffers (R271, R277), and the Quince lock manager (R177 to R194): descriptors,
modes, the compatibility matrix, granting, waiting, wounding, release and revocation.
-/
namespace Sys2Proof.Machine

/-- Cause codes (R263). -/
def Cause.code : Cause → Nat
  | .ill => 0x01 | .priv => 0x02 | .winov => 0x03 | .empty => 0x04 | .align => 0x05 | .noaddr => 0x06 | .page => 0x07
  | .prot => 0x08 | .vret => 0x09 | .vfut => 0x0A | .vpool => 0x0B | .fpx => 0x0C | .wound => 0x0D | .lkhier => 0x0E
  | .lkrevoke => 0x0F | .tskcap => 0x10 | .tskeng => 0x11 | .brentry => 0x12 | .brovf => 0x13 | .mown => 0x14
  | .collmism => 0x15 | .peerrst => 0x16 | .fabdeny => 0x17 | .engerr => 0x18 | .bkpt => 0x19 | .trap => 0x1A
  | .svc => 0x1B | .preempt => 0x1C | .deadline => 0x1D

/-! ### Event records -/

def State.fbufOf (s : State) (die : Nat) : List EvRec := tgetD s.fbuf die []
def State.setFbuf (s : State) (die : Nat) (l : List EvRec) : State := { s with fbuf := tset die l s.fbuf }

/-- The queue has room and no older record of the die waits in its buffer (R277). -/
def State.queueRoom (s : State) (die : Nat) : Bool :=
  (s.fbufOf die).isEmpty && decide (s.evq.length < Config.eventQueueSize)

/-- A compute die's buffer has an entry for a record: the last 32 are for kinds 2 and 3 (R277). The I/O die, number 4 here,
has no buffer. -/
def State.bufferRoom (s : State) (die kind : Nat) : Bool :=
  let n := (s.fbufOf die).length
  decide (die < 4) &&
  (if kind == 2 || kind == 3 then decide (n < Config.faultBuffer)
   else decide (n < Config.faultBuffer - Config.faultReserve))

/-- A record can be stored (R271, R277). -/
def State.canPost (s : State) (die kind : Nat) : Bool := s.queueRoom die || s.bufferRoom die kind

/-- EVENT_RECORD_POST (R271): the record takes the next sequence number and goes to the queue, or to the die's fault
buffer; one that finds no entry is held, since none is dropped (R277). The queue-full interrupt follows R277. (DESIGN
CHOICE, log entry 37.) -/
def State.post (s : State) (die : Nat) (r : EvRec) : State :=
  let q := { r with seq := s.nextSeq % 2 ^ 32 }
  if s.queueRoom die then { s with evq := s.evq ++ [q], nextSeq := s.nextSeq + 1 }
  else
    let first := (s.fbuf.all fun e => e.2.isEmpty) && s.stopped.all fun e => e.1 != 4
    let t := if s.bufferRoom die r.kind then { s.setFbuf die (s.fbufOf die ++ [q]) with nextSeq := s.nextSeq + 1 }
             else { s with stopped := s.stopped ++ [(die, r)] }
    let low := (t.fbufOf die).length == Config.faultBuffer - 64 && (s.fbufOf die).length != Config.faultBuffer - 64
    if first || low then { t with intrs := t.intrs ++ [.queueFull] } else t

/-! ### Descriptors and modes -/

/-- Fields of a resource descriptor (R177). -/
def dLevel (d : Nat) : Nat := bitsOf d 63 62
def dTensor (d : Nat) : Nat := bitsOf d 61 40
def dTile (d : Nat) : Nat := bitsOf d 39 16
def dLine (d : Nat) : Nat := bitsOf d 15 0

/-- A legal descriptor: level 0 to 2, the fields below it zero (R177). -/
def descOk (d : Nat) : Bool :=
  match dLevel d with
  | 0 => dTile d == 0 && dLine d == 0
  | 1 => dLine d == 0
  | 2 => true
  | _ => false

/-- The parent of a resource (R178). -/
def dParent (d : Nat) : Option Nat :=
  match dLevel d with
  | 1 => some (dTensor d * 2 ^ 40)
  | 2 => some (2 ^ 62 + dTensor d * 2 ^ 40 + dTile d * 2 ^ 16)
  | _ => none

/-- h covers m (R180). Modes: 0 NL, 1 IS, 2 IX, 3 S, 4 SIX, 5 I, 6 X. -/
def covers (h m : Nat) : Bool :=
  h == m || m == 0 ||
  match m with
  | 1 => h == 2 || h == 3 || h == 4 || h == 6
  | 2 => h == 4 || h == 6
  | 3 => h == 4 || h == 6
  | 4 => h == 6
  | 5 => h == 6
  | _ => false

/-- The join of two modes: the least that covers both (R180). -/
def join (a b : Nat) : Nat :=
  if covers a b then a
  else if covers b a then b
  else if (a == 2 && b == 3) || (a == 3 && b == 2) then 4
  else 6

/-- Bit r of row h of a matrix (R181). -/
def compatIn (m : Word × Word) (h r : Nat) : Bool :=
  if h < 4 then m.1.toNat.testBit (8 * h + r) else m.2.toNat.testBit (8 * (h - 4) + r)

/-- The matrix of a context, and its bit r of row h. -/
def Ctx.matrix (c : Ctx) : Word × Word := (c.lkmat0, c.lkmat1)
def Ctx.compat (c : Ctx) (h r : Nat) : Bool := compatIn c.matrix h r

/-- The parent's mode suffices for a requested mode (R182). -/
def parentMode (m h : Nat) : Bool :=
  match m with
  | 1 | 3 => h == 1 || h == 2 || h == 3 || h == 4 || h == 6
  | 2 | 4 | 6 => h == 2 || h == 4 || h == 6
  | 5 => h == 2 || h == 4 || h == 5 || h == 6
  | _ => true

/-- The mode a team holds on a resource, 0 for none. -/
def State.heldMode (s : State) (ctx desc team : Nat) : Nat :=
  match s.holds.find? fun h => h.ctx == ctx && h.desc == desc && h.team == team with
  | some h => h.mode
  | none => 0

/-- Sets a team's mode on a resource; 0 removes the entry. A conflict that the new mode ends is over (R194). -/
def State.setHold (s : State) (ctx desc team mode : Nat) : State :=
  let r := s.holds.filter fun h => !(h.ctx == ctx && h.desc == desc && h.team == team)
  { s with
    holds := if mode == 0 then r else r ++ [{ ctx := ctx, desc := desc, team := team, mode := mode }]
    wounds := s.wounds.filter fun w => !(w.ctx == ctx && w.desc == desc && w.team == team) ||
      (mode != 0 && s.lockWaits.any fun q => q.ctx == ctx && q.desc == desc && q.team == w.by_ && !compatIn q.mat mode q.mode) }

/-- The requirement on the parent holds (R182). -/
def State.parentOk (s : State) (ctx desc team m : Nat) : Bool :=
  match dParent desc with
  | none => true
  | some p => parentMode m (s.heldMode ctx p team)

/-- TEAMTS, a team's age: the smaller the older (R184). -/
def State.age (s : State) (t : Nat) : Nat := (s.team t).ts

/-- A request passes the test of R184 and R186: compatible with every other team's hold, one that was revoked with accesses
still open among them (R158), and, unless it is a LUPG, with every waiter older than the requester. -/
def State.lockPasses (s : State) (ctx desc team m : Nat) (lupg : Bool) : Bool :=
  ((s.holds ++ s.revoked).all fun h => !(h.ctx == ctx && h.desc == desc && h.team != team) || (s.ctx ctx).compat h.mode m) &&
  (lupg || s.lockWaits.all fun w =>
    !(w.ctx == ctx && w.desc == desc && w.team != team && decide (s.age w.team < s.age team)) || (s.ctx ctx).compat w.mode m)

/-- A team has an entry on a resource (R179). -/
def State.hasEntry (s : State) (ctx desc team : Nat) : Bool :=
  s.heldMode ctx desc team != 0 || s.lockWaits.any fun w => w.ctx == ctx && w.desc == desc && w.team == team

/-- Lock entries in use: pairs of resource and team that hold or wait (R179). -/
def State.lockPairs (s : State) : List (Nat × Nat × Nat) :=
  ((s.holds.map fun h => (h.ctx, h.desc, h.team)) ++ s.lockWaits.map fun w => (w.ctx, w.desc, w.team)).eraseDups

/-- The home slice has no free entry (R179, R187); the hash is asked only where the package has as many entries. -/
def State.locksFull (s : State) (ctx desc : Nat) : Bool :=
  let l := s.lockPairs
  if l.length < Config.lockEntries then false
  else
    let home := Config.lockHash ctx desc % 128
    decide (Config.lockEntries ≤ (l.filter fun e => Config.lockHash e.1 e.2.1 % 128 == home).length)

/-- A status reaches the group that asked (R190). -/
def State.lockAnswer (s : State) (gid desc st : Nat) : State :=
  s.modGrp gid fun g => { g with lockSt := g.lockSt.map (fun e => if e.1 == desc then (desc, some st) else e), readyAt := s.tick }

/-- Open tasks of the team's other groups note what a group was granted (R201). -/
def State.noteGrant (s : State) (ctx desc team gid m : Nat) : State :=
  { s with tasks := tmap (fun _ k =>
      if k.gid != gid && (s.grp k.gid).team == team && k.ctx == ctx then
        { k with locks := k.locks.map fun e => if e.1 == desc then (e.1, e.2.1, join e.2.2 m) else e }
      else k) s.tasks }

/-- A grant (R184): the team's mode becomes the join. -/
def State.grantLock (s : State) (ctx desc team gid m : Nat) : State :=
  let t := (s.setHold ctx desc team (join (s.heldMode ctx desc team) m)).noteGrant ctx desc team gid m
  { t with wounds := t.wounds.filter fun w => !(w.ctx == ctx && w.desc == desc && w.by_ == team) }

/-- Waiters on a resource in the order of R184: LUPG first, several of them in order of arrival, then from oldest to youngest.
(DESIGN CHOICE, log entry 70.) -/
def State.waitersOn (s : State) (ctx desc : Nat) : List LockWait :=
  let ws := s.lockWaits.filter fun w => w.ctx == ctx && w.desc == desc
  let rest := ws.filter fun w => !w.lupg
  (ws.filter fun w => w.lupg) ++ (rest.map fun w => (s.age w.team, w)).foldl
    (fun l x => (l.filter fun y => s.age y.team ≤ x.1) ++ x.2 :: l.filter fun y => !(decide (s.age y.team ≤ x.1))) []

/-- WAITER_GRANT (R184): after a release on a resource, each waiter that now passes the test is granted; the others have
been evaluated under the matrix of this moment (R183). -/
def State.wakeWaiters (s : State) (ctx desc : Nat) : State :=
  (s.waitersOn ctx desc).foldl (fun s w =>
    let t := { s with lockWaits := s.lockWaits.filter (· != w) }
    let h := s.heldMode ctx desc w.team
    if t.lockPasses ctx desc w.team (if h == 0 then w.mode else join h w.mode) w.lupg then
      (t.grantLock ctx desc w.team w.gid w.mode).lockAnswer w.gid desc 0
    else { s with lockWaits := s.lockWaits.map fun x => if x == w then { x with mat := (s.ctx ctx).matrix } else x }) s

/-- Releases or lowers a team's mode on a resource and wakes its waiters (R188, R192). -/
def State.releaseTo (s : State) (ctx desc team mode : Nat) : State :=
  (s.setHold ctx desc team mode).wakeWaiters ctx desc

/-- Every lock of a team is released and every request of it withdrawn (R188, R194). -/
def State.releaseAll (s : State) (team : Nat) : State :=
  let ds := (s.holds.filter fun h => h.team == team).map fun h => (h.ctx, h.desc)
  let ws := (s.lockWaits.filter fun w => w.team == team).map fun w => (w.ctx, w.desc)
  let t := { s with holds := s.holds.filter (fun h => h.team != team)
                    lockWaits := s.lockWaits.filter (fun w => w.team != team) }
  (ds ++ ws).foldl (fun s d => s.wakeWaiters d.1 d.2) t

/-- Withdraws the waiting requests of a group (R190, R273). No wait may run to no team (R185): what waited behind a request
that is withdrawn is evaluated as at a release (log entry 40). -/
def State.withdraw (s : State) (gid : Nat) : State :=
  let mine := s.lockWaits.filter fun w => w.gid == gid
  let t := { s with
    lockWaits := s.lockWaits.filter (fun w => w.gid != gid)
    wounds := s.wounds.filter fun x => !(mine.any fun w => w.team == x.by_ && w.ctx == x.ctx && w.desc == x.desc) }
  mine.foldl (fun s w => s.wakeWaiters w.ctx w.desc) t

/-! ### Wounds -/

/-- Tids of a team's threads that stand in a group, wherever the group is. -/
def State.tidsInGroups (s : State) (team : Nat) : List Nat :=
  s.groups.foldr (fun e l => if e.2.team == team then (e.2.aliveLanes.map fun i => (e.2.lane i).th.tid) ++ l else l) []

/-- Live threads that stand in a bin, an arrival buffer, a spill, a ring, an image or in transit. -/
def State.tidsOutside (s : State) (team : Nat) : List Nat :=
  let here := s.tidsInGroups team
  (s.team team).live.filter fun t => !here.contains t

/-- Some thread of the team that was live at the wound has not received it (R185). -/
def State.woundPending (s : State) (team : Nat) : Bool :=
  (s.groups.any fun e => e.2.team == team && e.2.woundDue) || !(s.team team).woundTids.isEmpty

/-- Every group of a team changed. -/
def State.modTeamGroups (s : State) (team : Nat) (f : Group → Group) : State :=
  { s with groups := tmap (fun _ g => if g.team == team then f g else g) s.groups }

/-- Every record that a core holds or that is on its way to it. -/
def Core.allRecs (c : Core) : List Rec :=
  (tvals c.bins).foldr (fun b l => b.recs ++ l) (c.arrive ++ c.spill ++ c.transit)

/-- The clusters on whose cores a team has groups or records. -/
def State.clustersOf (s : State) (team : Nat) : List Nat :=
  (((s.groups.filter fun e => e.2.team == team).map fun e => clusterOf e.2.core) ++
    (s.cores.filter fun e => e.2.allRecs.any fun r => r.team == team).map fun e => clusterOf e.1).eraseDups

/-- Dirty SCO bytes of every cluster in which the team runs or has run go to their homes (R121, R158). -/
def State.releaseClusters (s : State) (team : Nat) : State :=
  ((s.clustersOf team ++ (s.team team).ran).eraseDups).foldl (fun s c => s.scoRelease c) s

/-- Accesses of a team are still open: requests to other packages, a store that waits for a copy, a BCPY, a COLL (R158). -/
def State.accessOpen (s : State) (team : Nat) : Bool :=
  (s.bce.any fun b => b.team == team) || (s.collGroups.any fun g => (tvals g.2.ops).any fun o => o.team == team) ||
  s.groups.any fun e => e.2.team == team &&
    (!e.2.asks.isEmpty || e.2.last || (match e.2.wait with | .remote | .cow _ _ | .again => true | _ => false) ||
      s.remReqs.any fun r => r.gid == e.1 && r.use == .lanes)

/-- Quince revokes every lock of a team; each of its groups will take LKREVOKE (R194). While accesses of the team are open,
what it held still keeps conflicting requests out (R158). -/
def State.revoke (s : State) (team : Nat) : State :=
  let s := s.releaseClusters team
  let s : State := { s with revoked := s.revoked ++ if s.accessOpen team then s.holds.filter fun h => h.team == team else [] }
  let t := s.releaseAll team
  let t := t.modTeamGroups team fun g => { g with revokeDue := true }
  let t := { t with wounds := t.wounds.filter fun w => w.team != team }
  t.modTeam team fun x => { x with revokeTids := t.tidsOutside team }

/-- Revoked locks of teams whose accesses are complete keep nothing out any more (R158). -/
def State.settleRevoked (s : State) : State :=
  (s.revoked.filter fun h => !s.accessOpen h.team).foldl (fun s h =>
    let s := s.releaseClusters h.team
    { s with revoked := s.revoked.filter (· != h) }.wakeWaiters h.ctx h.desc) s

/-- The waiting requests of a wounded team are withdrawn, each with status WOUNDED (R190, R193). -/
def State.endLockWaits (s : State) (team : Nat) : State :=
  let mine := s.lockWaits.filter fun w => w.team == team
  let t := mine.foldl (fun s w => s.lockAnswer w.gid w.desc 3) s
  let t := { t with lockWaits := t.lockWaits.filter fun w => w.team != team
                    wounds := t.wounds.filter fun w => w.by_ != team }
  mine.foldl (fun s w => s.wakeWaiters w.ctx w.desc) t

/-- The deadline of a conflict has come (R194). -/
def WoundBy.expired (w : WoundBy) (tick : Nat) : Bool := match w.due with | some d => decide (d ≤ tick) | none => false

/-- The deadline of some wound of a team has come. -/
def State.woundExpired (s : State) (team : Nat) : Bool := s.wounds.any fun w => w.team == team && w.expired s.tick

/-- Every deadline of a team that has come is met: the team holds, in a conflicting mode, no resource on which an older
request waits that wounded it (R194). (DEDUCED, log entry 20.) -/
def State.deadlineMet (s : State) (team : Nat) : Bool :=
  s.wounds.all fun w =>
    w.team != team || !w.expired s.tick ||
    !(s.lockWaits.any fun q => q.ctx == w.ctx && q.desc == w.desc && q.team == w.by_ &&
        s.heldMode w.ctx w.desc team != 0 && !compatIn q.mat (s.heldMode w.ctx w.desc team) q.mode)

/-- WOUND (R185, R193): an older requester wounds a younger holder, and the deadline of WDEAD clocks starts; with WDEAD
zero it expires at the wound itself (R194). A wound that is pending already is joined: its deadline counts for the new
conflict, unless it has passed. (DEDUCED, log entry 20.) -/
def State.woundTeam (s : State) (ctx desc team by_ : Nat) : State :=
  let dead := (s.ctx ctx).wdead.toNat
  let due : Option Nat :=
    if s.woundPending team then (s.team team).wound.filter fun d => decide (s.tick < d) else some (s.tick + dead)
  let t := { s with wounds := s.wounds ++ [{ team := team, ctx := ctx, desc := desc, by_ := by_, due := due }] }
  if s.woundPending team then t
  else
    let t := t.modTeamGroups team fun g => { g with woundDue := true }
    let t := t.endLockWaits team
    let t := t.modTeam team fun x => { x with wound := due, woundTids := t.tidsOutside team }
    if dead == 0 then t.revoke team else t

/-- A conflict between an older waiter and a younger holder that has arisen since the request was made (a grant to LUPG,
which no waiter holds back, or a new matrix at a release) wounds the holder (R183, R185, R186). -/
def State.newConflicts (s : State) : State :=
  if s.lockWaits.isEmpty then s
  else
    s.lockWaits.foldl (fun s w => s.holds.foldl (fun s h =>
      if h.ctx == w.ctx && h.desc == w.desc && h.team != w.team && decide (s.age w.team < s.age h.team)
          && !compatIn w.mat h.mode w.mode && s.lockWaits.contains w && s.holds.contains h
          && !(s.wounds.any fun x => x.team == h.team && x.ctx == w.ctx && x.desc == w.desc && x.by_ == w.team)
      then s.woundTeam w.ctx w.desc h.team w.team else s) s) s

/-- One lock request at its home (R184 to R187): its status, or `none` where it waits. `try_` is LCKT. -/
def State.lockRequest (s : State) (ctx desc team gid m : Nat) (lupg try_ : Bool) : Option Nat × State :=
  let h := s.heldMode ctx desc team
  if h != 0 && covers h m then (some 0, s.noteGrant ctx desc team gid m)
  else
    let m' := if h == 0 then m else join h m
    if !s.hasEntry ctx desc team && s.locksFull ctx desc then (some 2, s)
    else if s.lockPasses ctx desc team m' lupg then (some 0, s.grantLock ctx desc team gid m')
    else if try_ then (some 1, s)
    else
      let t := { s with lockWaits := s.lockWaits ++
        [{ ctx := ctx, desc := desc, team := team, gid := gid, mode := m', lupg := lupg, mat := (s.ctx ctx).matrix }] }
      let young := s.holds.filter fun k =>
        k.ctx == ctx && k.desc == desc && k.team != team && decide (s.age team < s.age k.team)
          && !(s.ctx ctx).compat k.mode m'
      (none, young.foldl (fun s k => s.woundTeam ctx desc k.team team) t)

end Sys2Proof.Machine
end

