-- ==== Sys2Proof/Machine/Cow.lean ====
section
/-!
DEFINITION. The abort of a guarded task (R201), the speculative lines of tasks (R198, R199), the frame pools, and
copy-on-write (R165, R172, R173).
-/
namespace Sys2Proof.Machine

/-- What an instruction that waited held is given up: its address and E, its destinations, its requests still to be sent. -/
def Group.letGo (g : Group) : Group := { g.unmark with latched := none, asks := [], fetched := [] }

/-! ### Task abort -/

/-- What a task's requests on a resource go back to (R201): the mode before, joined with what other groups were granted
since; never above what the team still holds. -/
def revertMode (now before others : Nat) : Nat :=
  let t := if before == 0 then others else if others == 0 then before else join before others
  if covers now t then t else now

/-- A register of a thread takes a value that no write in flight to it may replace (R201, R202). -/
def Thread.setO (t : Thread) (n : Nat) (x : Word) : Thread :=
  { t with o := tset n x t.o, empties := t.empties.filter (· != .o n), pend := t.pend.filter fun p => p.key != .o n }

/-- TASK_ABORT (R201): lines and deltas are discarded, lock requests reverted, TASKID is 0, every occupied lane that has
not exited is ready at the abort address with the cause code in o0; REPI becomes 0 (R84). -/
def State.abortTask (s : State) (gid code : Nat) : State :=
  let g := s.grp gid
  match tget g.taskId s.tasks with
  | none => s
  | some k =>
    let s := { s with tasks := tdel g.taskId s.tasks, anchors := s.anchors.filter fun a => a.task != g.taskId }
    let s := s.withdraw gid
    let s := if k.locks.isEmpty then s else s.scoRelease (clusterOf g.core)
    let s := k.locks.foldl (fun s e =>
      s.releaseTo k.ctx e.1 g.team (revertMode (s.heldMode k.ctx e.1 g.team) e.2.1 e.2.2)) s
    s.modGrp gid fun g =>
      let g := g.letGo.modLanes (fun i => (g.lane i).alive) fun _ x =>
        { x with status := .ready, pcv := k.abort, freed := none
                 th := x.th.setO 0 (BitVec.ofNat 64 code) }
      { g with taskId := 0, repi := 0, repPc := none, repE := 0, wait := .none, lockSt := [], remote := [],
               waitingSince := none }

/-! ### Frame pools and copy-on-write -/

/-- Damson takes the frame at HEAD (R165). -/
def State.poolTake (s : State) (p : Pool) : Option (Nat × State) :=
  let b := s.domPool p
  let head := s.num b 4
  let cap := s.num (b + 8) 4
  if head == s.num (b + 4) 4 || cap < 2 then none
  else some (s.num (b + 16 + 8 * head) 8, s.homeWrite b (toBytes 4 ((head + 1) % cap)))

/-- A frame goes back to its ring; while the ring is full Damson keeps it (R165). -/
def State.poolGive (s : State) (p : Pool) (frame : Nat) : State :=
  let b := s.domPool p
  let tail := s.num (b + 4) 4
  let cap := s.num (b + 8) 4
  if cap < 2 || (tail + 1) % cap == s.num b 4 then { s with keptFrames := s.keptFrames ++ [(p, frame)] }
  else (s.homeWrite (b + 16 + 8 * tail) (toBytes 8 frame)).homeWrite (b + 4) (toBytes 4 ((tail + 1) % cap))

/-- Cells of a range, moved. -/
def moveCells (src dst n : Nat) (m : List Host.Cell) : List Host.Cell :=
  ((m.filter fun c => decide (src ≤ c.1) && decide (c.1 < src + n)).map fun c => (c.1 - src + dst, c.2))

/-- Lines of a frame. -/
def inFrame (frame line : Nat) : Bool := line / 512 == frame / 65536

/-- No cluster keeps a copy from a frame's earlier use (R154, R175): its partials are combined, and its SCO and RO copies
go. -/
def State.freshFrame (s : State) (frame : Nat) : State :=
  let us := (tkeys s.coh.dir).filter (inFrame frame)
  let s := us.foldl (fun s l => s.collect l) s
  { s with sco := s.sco.filter (fun x => !inFrame frame x.line), ro := s.ro.filter fun x => !inFrame frame x.line }

/-- A frame copied onto another, its lines with uncorrectable errors with it (R277); what the caches hold of the source,
dirty SCO bytes and partials, comes home first (R121, R129). -/
def State.copyFrame (s : State) (src dst : Nat) : State :=
  let dirty := ((s.sco.filter fun x => inFrame src x.line && x.dirty != 0).map fun x => x.line).eraseDups
  let s := dirty.foldl (fun s l => s.scoClean l) s
  let us := (tkeys s.coh.dir).filter (inFrame src)
  let s := (us.foldl (fun s l => s.collect l) s).freshFrame dst
  let low := s.mem.filter fun c => decide (c.1 < dst)
  let high := s.mem.filter fun c => decide (dst + 65536 ≤ c.1)
  let bad := (s.bad.filter (inFrame src)).map fun l => l - src / 128 + dst / 128
  { s with mem := low ++ moveCells src dst 65536 s.mem ++ high, bad := s.bad ++ bad.filter fun l => !s.bad.contains l }

/-- Address of the leaf entry of a small page. -/
def State.leafAddr (s : State) (va table : Nat) : List Nat → Nat
  | [] => table
  | [level] => table + 8 * walkIdx va level
  | level :: rest => s.leafAddr va (bitsOf (s.num (table + 8 * walkIdx va level) 8) 55 13 * 2 ^ 13) rest

/-- Monitors of lanes of this package that a test names go, with the requests under which they stand at other packages, and
their lanes stand ready at their WAITA (R408). -/
def State.endWaits (s : State) (p : Monitor → Bool) : State :=
  let gone (m : Monitor) : Bool := m.peer.isNone && p m
  let tags := (s.monitors.filter gone).filterMap fun m => m.rtag
  let t := (s.monitors.filter gone).foldl (fun s m => s.modGrp m.gid fun g =>
    g.modLane m.lane fun x => if x.status == .waitA then { x with status := .ready } else x) s
  { t with monitors := t.monitors.filter fun m => !gone m
           remReqs := t.remReqs.filter fun r => !(r.use == .monitor && tags.contains r.rtag) }

/-- A translation invalidation of a virtual range of a context (R118): the translations go, and lanes that wait at a
WAITA in it are ready at their WAITA (R408). -/
def State.invalidate (s : State) (ctx lo hi : Nat) : State :=
  let hitT (t : Tlb) : Bool :=
    let base := if t.large then t.vpage / 1024 * 2 ^ 26 else t.vpage * 65536
    let size := if t.large then 2 ^ 26 else 65536
    t.ctx == ctx && decide (base < hi) && decide (lo < base + size)
  let s := s.endWaits fun m =>
    s.ctxOf (s.grp m.gid) == ctx && (match s.globalOf (s.who (s.grp m.gid) m.lane) m.va 8 with
      | .ok (some a) => decide (a < hi) && decide (lo < a + 8)
      | _ => false)
  { s with tlb := s.tlb.filter fun t => !hitT t }

/-- The copy that a first store to a page needs is under way (R172). -/
def State.cowOf (s : State) (ctx vpage : Nat) : Option Cow := s.cows.find? fun c => c.ctx == ctx && c.vpage == vpage

/-- A versioned page's newest record lies below O: a store copies first (R172). -/
def State.needsCow (s : State) (ctx dom va : Nat) : Bool := decide (s.newestVer ctx dom va < s.domOpen ctx dom)

/-- A copy-on-write begins (R172, R173): both frames are taken before any record changes; the pool that is empty is
answered. -/
def State.cowStart (s : State) (ctx dom va : Nat) : Except Pool State :=
  let vpage := va / 65536
  if (s.cowOf ctx vpage).isSome then .ok s
  else
    let pe := s.pageEntry ctx dom va
    let full := decide (16 ≤ (s.vslots pe).length)
    let hbm : Pool := { ctx := ctx, dom := dom, tier2 := false }
    let tp : Pool := { ctx := ctx, dom := dom, tier2 := true }
    let start (s : State) (tier : Option (Nat × Option Nat)) : Except Pool State :=
      match s.poolTake hbm with
      | none => .error hbm
      | some (f, t) => .ok { t with cows := t.cows ++ [{ ctx := ctx, vpage := vpage, dom := dom, frame := f, tier := tier }] }
    if !full then start s none
    else
      match s.poolTake tp with
      | none => .error tp
      | some (f, t) =>
        let cnt := s.num (pe + 264) 4
        let r := if cnt % 4095 == 0 then
            (match t.poolTake tp with
             | none => .error tp
             | some (c, u) => start u (some (f, some c)))
          else start t (some (f, none))
        match r with
        | .error p => .error p
        | .ok u => .ok u

/-- The chain frame that holds the last record of a chain (R164). -/
def State.lastChain (s : State) : Nat → Nat → Nat
  | 0, f => f
  | n + 1, f => s.lastChain n (s.num (f + 16 * 4095 + 8) 8)

/-- Step 2 of R172: the oldest HBM record moves to the second tier. TCOUNT counts its records of versions, not the links
between chain frames. (DESIGN CHOICE, log entry 61.) The frame returns to FPOOL, or is kept while a view may read it
(R176). -/
def State.migrate (s : State) (c : Cow) (pe frame : Nat) (chain : Option Nat) : State :=
  let old := s.vrec (pe + 16 * 15)
  let s := s.copyFrame old.frame frame
  let cnt := s.num (pe + 264) 4
  let first := s.num (pe + 256) 8
  let last := s.lastChain ((cnt - 1) / 4095) first
  let s := match chain with
    | none => s
    | some f =>
      if cnt == 0 then s.homeWrite (pe + 256) (toBytes 8 f)
      else s.homeWrite (last + 16 * 4095) ({ ver := 0, state := 3, frame := f : VRec }).bytes
  let at_ := chain.getD last
  let s := s.homeWrite (at_ + 16 * (cnt % 4095)) ({ ver := old.ver, state := 2, frame := frame : VRec }).bytes
  let s := s.homeWrite (pe + 264) (toBytes 4 (cnt + 1))
  let s := s.homeWrite (pe + 16 * 15) (List.replicate 16 0)
  let hbm : Pool := { ctx := c.ctx, dom := c.dom, tier2 := false }
  let next := (s.vrec (pe + 16 * 14)).ver
  if next ≤ s.domHold c.ctx c.dom then (s.freshFrame old.frame).poolGive hbm old.frame
  else { s with viewFrames := s.viewFrames ++ [(hbm, old.frame, next)] }

/-! ### Speculative lines -/

def State.task (s : State) (id : Nat) : Task := tgetD s.tasks id { gid := 0, ctx := 0, abort := 0 }
def Task.line (k : Task) (line : Nat) : Option SpecLine := k.lines.find? fun x => x.line == line

/-- The delta of a line that covers a byte, with its offset. -/
def SpecLine.deltaAt (x : SpecLine) (off : Nat) : Option (Nat × AOp × Nat) :=
  (x.deltas.find? fun e => decide (e.1 ≤ off) && decide (off < e.1 + e.2.1.size)).map fun e => (e.1, e.2.1, e.2.2)

/-- A byte as the task's group reads it (R198, R199): its own byte, or the committed value, combined with a delta. -/
def State.taskByte (s : State) (id pa : Nat) (committed : Nat → Byte) : Byte :=
  match (s.task id).line (lineOf pa) with
  | none => committed pa
  | some x =>
    match tget (pa % 128) x.bytes with
    | some b => b
    | none =>
      match x.deltaAt (pa % 128) with
      | none => committed pa
      | some (off, op, v) =>
        let base := pa / 128 * 128 + off
        let old := ofBytes ((upTo op.size).map fun i => committed (base + i))
        (toBytes op.size (op.new old v 0)).getD (pa % 128 - off) 0

/-- Speculative lines of every live task (R198). -/
def State.specLines (s : State) : List Nat := s.tasks.foldr (fun e l => e.2.lines.map (fun x => x.line) ++ l) []

/-- One more line fits its set's quota of 4 ways (R198); the hashes are asked only where the package holds 4 lines. -/
def State.specRoom (s : State) (line : Nat) : Bool :=
  let l := s.specLines
  if l.length < 4 then true
  else
    let set (x : Nat) : Nat × Nat := (sliceOf x, Config.setHash x % 1024)
    decide ((l.filter fun x => set x == set line).length < 4)

/-- The task's line, made if it is new: `none` where its set is full (TSKCAP). -/
def State.specLine (s : State) (id line : Nat) (ver : Option (Nat × Nat)) : Option (SpecLine × State) :=
  match (s.task id).line line with
  | some x => some (x, s)
  | none =>
    if s.specRoom line then
      let x : SpecLine := { line := line, ver := ver }
      some (x, { s with tasks := tmod id (fun k => { k with lines := k.lines ++ [x] }) s.tasks })
    else none

def State.setSpec (s : State) (id : Nat) (x : SpecLine) : State :=
  { s with tasks := tmod id (fun k => { k with lines := k.lines.map fun y => if y.line == x.line then x else y }) s.tasks }

/-- Bytes of a task's store within one line: deltas that they cover are replaced, those that they cut become bytes
first (R199). -/
def SpecLine.put (x : SpecLine) (off : Nat) (bs : List Byte) (value : Nat → Byte) : SpecLine :=
  let n := bs.length
  let cut := x.deltas.filter fun e => overlap e.1 e.2.1.size off n
  let held := cut.foldl (fun l e => (upTo e.2.1.size).foldl (fun l i => tset (e.1 + i) (value (e.1 + i)) l) l) x.bytes
  { x with deltas := x.deltas.filter (fun e => !overlap e.1 e.2.1.size off n)
           bytes := (imapFrom (fun i b => (off + i, b)) 0 bs).foldl (fun l e => tset e.1 e.2 l) held }

/-- Speculative lines of a page go with it to its new frame, each within the quota of its new set (R18, R198): a task whose
line finds no room there aborts with TSKCAP. -/
def State.moveSpec (s : State) (old new : Nat) : State :=
  let moving := s.tasks.filter fun e => e.2.lines.any fun x => inFrame old x.line
  let t : State := { s with tasks := tmap (fun _ (k : Task) => { k with lines := k.lines.filter fun x => !inFrame old x.line }) s.tasks }
  moving.foldl (fun t e => (e.2.lines.filter fun x => inFrame old x.line).foldl (fun t x =>
    let y : SpecLine := { x with line := x.line - old / 128 + new / 128 }
    if (tget e.1 t.tasks).isNone then t
    else if t.specRoom y.line then { t with tasks := tmod e.1 (fun (k : Task) => { k with lines := k.lines ++ [y] }) t.tasks }
    else t.abortTask e.2.gid Cause.tskcap.code) t) t

/-! ### The end of a copy -/

/-- Steps 2 to 5 of R172, when the copy completes: the new record carries O as it stands now; anchors follow the page to
its new frame, and so do speculative lines; the translations of the page are invalidated. The held stores issue again. -/
def State.cowFinish (s : State) (c : Cow) : State :=
  let va := c.vpage * 65536
  let pe := s.pageEntry c.ctx c.dom va
  let s : State := { s with cows := s.cows.filter (· != c) }
  let s : State := match c.tier with
    | some (f, ch) => s.migrate c pe f ch
    | none => s
  let old := (s.vrec pe).frame
  let s := s.copyFrame old c.frame
  let slots := s.peek pe (16 * 15)
  let s := s.homeWrite pe
    (({ ver := s.domOpen c.ctx c.dom, state := 1, frame := c.frame : VRec }).bytes ++ slots)
  let la := s.leafAddr va (s.ctx c.ctx).root [0, 1, 2, 3]
  let e := s.num la 8
  let s := s.homeWrite la (toBytes 8 (e - leafFrame e + c.frame))
  let move (a : Anchor) : Anchor := match a.place with
    | .phys pa => if old ≤ pa && pa < old + 65536 then { a with place := Place.phys (pa - old + c.frame) } else a
    | _ => a
  let s : State := { s with anchors := s.anchors.map move }
  let s := s.moveSpec old c.frame
  let s := s.invalidate c.ctx va (va + 65536)
  { s with groups := tmap (fun _ (g : Group) =>
      if g.wait == Wait.cow c.ctx c.vpage then { g with wait := Wait.again, readyAt := s.tick } else g) s.groups }

end Sys2Proof.Machine
end

