-- ==== Sys2Proof/Machine/Fabric.lean ====
section
/-!
DEFINITION. The Joden link as a package sees it (R278 to R290): planes and CRC-32C, sending with credits, keys and the
retry buffer, the ingress access table, a peer's requests performed here, and the responses to our own.
-/
namespace Sys2Proof.Machine

/-- One bit of CRC-32C, reflected (R280). -/
def crcBit (c : Nat) : Nat := Nat.xor (c / 2) (c % 2 * 0x82F63B78)
def crcByte (c : Nat) (b : Byte) : Nat :=
  crcBit (crcBit (crcBit (crcBit (crcBit (crcBit (crcBit (crcBit (Nat.xor c b.toNat))))))))
/-- CRC-32C of RFC 3720 (R280). -/
def crc32c (bs : List Byte) : Nat := Nat.xor (bs.foldl crcByte 0xFFFFFFFF) 0xFFFFFFFF

/-- Plane of a request or response, and of a collective packet (R280). -/
def planeOfAddr (target pa : Nat) : Nat :=
  crc32c (toBytes 1 (target % 128) ++ toBytes 5 (pa / 2 ^ 8 % 2 ^ 39)) % 128
def planeOfChunk (group seq chunk : Nat) : Nat :=
  crc32c (toBytes 2 group ++ toBytes 2 seq ++ toBytes 8 chunk) % 128

/-- Flits of a packet: header, body and tag, whole flits of 64 bytes (R281). -/
def flitsOf (body : Nat) : Nat := (32 + body + 63) / 64

/-- Wavelength to a peer (R278). -/
def wavelength (me peer : Nat) : Nat := (peer + 128 - me) % 128

/-- The bytes of the body. A collective packet's: 16 of op list, 8 of chunk word, and the data (R293). The manual gives
no layout for those of requests; the model's own: a read or write carries the 32 bytes of its byte mask, an atomic 8 bytes
with its operation in the first, and the data follow. A WAITA is a read that names a condition behind its mask: 1 until
unequal or 2 until equal in 8 bytes, the comparand in 8, and the anchor's tag, plus one, in 4. (DESIGN CHOICE, log entry 25.) -/
def FPkt.body (p : FPkt) : List Byte :=
  match p.type with
  | 0 => toBytes 32 p.mask ++ if p.op == 0 then [] else toBytes 8 p.op ++ p.data
  | 1 => toBytes 32 p.mask ++ p.data
  | 2 => toBytes 8 p.op ++ p.data
  | 6 =>
    ((upTo 8).map fun i => toBytes 2 (p.ops.getD i 0)).flatten
      ++ toBytes 8 (p.offset + p.nbytes * 2 ^ 40 + (if p.ovh then 2 ^ 51 else 0) + p.resv * 2 ^ 52) ++ p.data
  | _ => p.data

/-- The warning of a bank counter that first passes 2^47 (R272, R287). -/
def State.warnKey (s : State) (peer dir bank plane : Nat) : State :=
  s.post 4 { kind := 6, core := 0xFFFF, val := BitVec.ofNat 64 (plane * 2 ^ 16 + dir * 2 ^ 9 + bank * 2 ^ 8 + peer) }

/-- The credits that cover a packet of so many flits: pool credits of the plane when there are enough, otherwise the
reserve of the class (R283): `some true` is the reserve. -/
def Peer.creditFor (p : Peer) (plane tc len : Nat) : Option Bool :=
  if len ≤ tgetD p.pool plane 0 then some false
  else if len ≤ tgetD p.reserve tc 18 then some true
  else none

/-- Reserve flits of the classes that go back to a sender, at most so many: the classes in order (R283). -/
def takeFreed : Nat → List Nat → Tab Nat → Nat × Tab Nat
  | _, [], f => (0, f)
  | n, c :: r, f =>
    let k := min n (tgetD f c 0)
    let y := takeFreed (n - k) r (tset c (tgetD f c 0 - k) f)
    (k + y.1, y.2)

/-- The flits of a plane's shared pool that no source holds (R283). -/
def State.poolLeft (s : State) (plane : Nat) : Nat := 1024 - s.peers.foldl (fun n e => n + tgetD e.2.granted plane 0) 0

/-- The credits that the link words of a packet of so many flits take along (R281, R283): up to 255 pool flits of the
plane in each, of those left, and up to 127 reserve flits freed. -/
def Peer.give (p : Peer) (left plane len : Nat) : Nat × Nat × Peer :=
  let g := min (255 * len) left
  let f := takeFreed (127 * len) [0, 1, 2] p.freed
  (g, f.1, { p with granted := tset plane (tgetD p.granted plane 0 + g) p.granted, freed := f.2 })

/-- A packet is sent to a peer, if the link is up, no counter of the sending bank has reached 2^48, the bank is loaded and
credits cover it (R282, R283, R287); otherwise it waits. It stays in the retry buffer until acknowledged. -/
def State.trySend (s : State) (q plane : Nat) (k : FPkt) : Option State :=
  let p := s.peer q
  let len := flitsOf k.body.length
  match tget p.kg p.tx, p.creditFor plane k.tc len with
  | some b, some fromReserve =>
    let ctr := tgetD b.ctr plane 0
    if !p.up || b.ctr.any fun e => decide (2 ^ 48 ≤ e.2) then none
    else
      let rsn := tgetD p.txRsn plane 0
      let give := p.give (s.poolLeft plane) plane len
      let held : Sent := { plane := plane, rsn := rsn, bank := p.kg, ctr := ctr, inc := s.inc, rp := !fromReserve,
                           grant := give.1, rack := give.2.1, pkt := { k with len := len } }
      let warn := decide (2 ^ 47 < ctr + 1) && !b.warned
      let p := { give.2.2 with
        txRsn := tset plane ((rsn + 1) % 65536) p.txRsn
        buf := p.buf ++ [held]
        tx := tset p.kg { b with ctr := tset plane (ctr + 1) b.ctr, warned := b.warned || warn } p.tx
        pool := if fromReserve then p.pool else tset plane (tgetD p.pool plane 0 - len) p.pool
        reserve := if fromReserve then tset k.tc (tgetD p.reserve k.tc 18 - len) p.reserve else p.reserve }
      let t := s.setPeer q p
      some (if warn then t.warnKey q 0 p.kg plane else t)
  | _, _ => none

/-- The header of a packet as it is sent (R281). -/
def Sent.header (x : Sent) : Nat :=
  let k := x.pkt
  let top := match k.type with
    | 0 | 1 | 2 => k.addr % 2 ^ 47 + k.rtag * 2 ^ 47
    | 6 => k.group + k.seq * 2 ^ 16 + k.dhash * 2 ^ 32
    | _ => k.status + k.rtag * 2 ^ 47
  k.type + k.tc * 2 ^ 4 + (if x.rp then 2 ^ 7 else 0) + x.bank * 2 ^ 8 + k.src * 2 ^ 9 + x.inc * 2 ^ 16 + x.rsn * 2 ^ 24
    + k.ops.length * 2 ^ 40 + k.ctx * 2 ^ 44 + k.len * 2 ^ 56 + top * 2 ^ 64

/-- The link word beside each flit of a packet as it is sent (R281): the credits go with the first flits. -/
def Sent.links (x : Sent) : List Nat :=
  (upTo x.pkt.len).map fun i =>
    (if x.rp then 1 else 0) + (if i == 0 then 2 else 0) + (if i + 1 == x.pkt.len then 4 else 0)
      + min 255 (x.grant - 255 * i) * 2 ^ 3 + min 127 (x.rack - 127 * i) * 2 ^ 11

/-- The plane of a packet to a peer (R280). -/
def FPkt.plane (k : FPkt) (q : Nat) : Nat :=
  if k.type == 6 then planeOfChunk k.group k.seq k.chunk else planeOfAddr q k.addr

/-- The windows of 1 µs of a context's count go on to the one in which a tick lies (R257). -/
def Ctx.roll (c : Ctx) (tick : Nat) : Ctx :=
  let w := tick / 1050
  if w == c.sentWin then c
  else { c with sentLast := (if w == c.sentWin + 1 then c.sentNow else 0), sentNow := 0, sentWin := w }

/-- Bytes that requests of a context send to other packages (R257). -/
def State.countSent (s : State) (k : FPkt) : State :=
  if k.tc == 0 then s.modCtx k.ctx fun c =>
    let d := c.roll s.tick
    { d with sentNow := d.sentNow + 64 * flitsOf k.body.length }
  else s

/-- A packet of the same class waits on the same plane: one that goes to one block of one package does not overtake it
(R280), while no class and no plane waits for another (R284). -/
def waitsAhead (q : Nat) (l : List FPkt) (k : FPkt) : Bool := l.any fun x => x.tc == k.tc && x.plane q == k.plane q

/-- A packet goes to a peer, or waits. -/
def State.offer (s : State) (q : Nat) (k : FPkt) : State :=
  let later (s : State) : State := s.modPeer q fun p => { p with wait := p.wait ++ [k] }
  if waitsAhead q (s.peer q).wait k then later s
  else
    match s.trySend q (k.plane q) k with
    | some t => t
    | none => if (tget q s.peers).isSome then later s else s.setPeer q { s.peer q with wait := [k] }
def State.fabSend (s : State) (q : Nat) (k : FPkt) : State := (s.countSent k).offer q k

/-- Waiting packets go out as far as credits reach, each in its turn. (DESIGN CHOICE, log entry 26.) -/
def State.flushWait (s : State) (q : Nat) : State :=
  (s.peer q).wait.foldl (fun s k => s.offer q k) (s.modPeer q fun p => { p with wait := [] })

/-! ### Requests of other packages -/

/-- Ingress admits an access (R286). Rights: 0 read, 1 write, 2 atomic, 3 collective. -/
def State.admits (s : State) (src ctx right lo hi : Nat) : Bool :=
  s.access.any fun e =>
    e.2.valid && e.2.src == src && e.2.sctx == ctx && e.2.rights.testBit right && decide (e.2.base ≤ lo) && decide (hi ≤ e.2.limit)

def State.admitsColl (s : State) (src ctx : Nat) : Bool :=
  s.access.any fun e => e.2.valid && e.2.src == src && e.2.sctx == ctx && e.2.rights.testBit 3

/-- Atomic operations by the code that a fabric request carries: the low digit of the OP (R289), and from 16 on those of a
reduction by the box copy engine (R238). (DESIGN CHOICE, log entry 25.) -/
def aopOf (n : Nat) : AOp :=
  match n with
  | 0 => .add | 1 => .addW | 2 => .minS | 3 => .maxS | 4 => .minZ | 5 => .maxZ | 6 => .and | 7 => .or
  | 8 => .xor | 9 => .xch | 10 => .cas | 11 => .casW | 12 => .faddF | 13 => .faddD | 14 => .inc
  | 16 => .redAddD | 17 => .redAddF | 18 => .redAddB | 19 => .redMinD | 20 => .redMinF | 21 => .redMinB
  | 22 => .redMaxD | 23 => .redMaxF | 24 => .redMaxB | _ => .dec

def AOp.num : AOp → Nat
  | .add => 0 | .addW => 1 | .minS => 2 | .maxS => 3 | .minZ => 4 | .maxZ => 5 | .and => 6 | .or => 7
  | .xor => 8 | .xch => 9 | .cas => 10 | .casW => 11 | .faddF => 12 | .faddD => 13 | .inc => 14 | .dec => 15
  | .redAddD => 16 | .redAddF => 17 | .redAddB => 18 | .redMinD => 19 | .redMinF => 20 | .redMinB => 21
  | .redMaxD => 22 | .redMaxF => 23 | .redMaxB => 24

/-- An atomic performed at a line's home: every cached copy recalled, one read and one write (R127). -/
def State.atomicHome (s : State) (pa : Nat) (op : AOp) (b e : Nat) : Nat × State :=
  let t := (s.recall (lineOf pa)).scoRecall (lineOf pa)
  let old := ofBytes (t.peek pa op.size)
  (old, if op.writes old e then t.poke pa (toBytes op.size (op.new old b e)) else t)

/-- Bytes of a 256-byte block that a mask names, as offset and byte. -/
def maskedBytes (mask : Nat) (bs : List Byte) : List (Nat × Byte) :=
  (bitsSet mask 256).map fun i => (i, bs.getD i 0)

/-- An access performed at its home for an agent that keeps no copy, kind 0 a read, 1 a write, 2 an atomic: the status
(2 TGTERR, also of an atomic that is not aligned), the bytes of the answer, and the state (R289). (DESIGN CHOICE, log entry
76.) -/
def State.serveHome (s : State) (kind addr op : Nat) (payload : List Byte) (mask : Nat) : Nat × List Byte × State :=
  match kind with
  | 0 =>
    let r := s.homeRead addr 256
    (0, r.1, r.2)
  | 1 => (0, [], (maskedBytes mask payload).foldl (fun s e => s.homeWrite (addr + e.1) [e.2]) s)
  | _ =>
    let o := aopOf op
    if addr % o.size != 0 then (2, [], s)
    else
      let r := s.atomicHome addr o (ofBytes (payload.take o.size)) (ofBytes ((payload.drop o.size).take o.size))
      (0, toBytes o.size r.1, r.2)

/-- A remote request (R286, R289): admitted or refused at this instant, performed at the home, and answered: the status
and the bytes of the response. Kind 0 read, 1 write, 2 atomic. -/
def State.serveRemote (s : State) (src ctx kind addr len op : Nat) (payload : List Byte) (mask : Nat) :
    Nat × List Byte × State :=
  let bits := bitsSet mask 256
  let lo := if kind == 2 then addr else addr + bits.headD 0
  let hi := if kind == 2 then addr + len else addr + bits.getLastD 0 + 1
  if !s.admits src ctx kind lo hi then (1, [], s)
  else if !((prange lo == .hbm || prange lo == .tier2) && prange (hi - 1) == prange lo) then (2, [], s)
  else s.serveHome kind addr op payload mask

/-- The response to a request: a read response 3, a write response 4, an atomic response 5. -/
def State.respond (s : State) (q ctx kind addr rtag status : Nat) (data : List Byte) : State :=
  s.fabSend q { type := kind + 3, tc := 1, src := s.position, ctx := ctx, addr := addr, rtag := rtag, status := status, data := data }

/-- A request that carries the condition of a WAITA (R408). -/
def isWait (kind op : Nat) (payload : List Byte) : Bool := kind == 0 && (op == 1 || op == 2) && decide (12 ≤ payload.length)

/-- The values of a place from the anchor of a peer's atomic on, or the one that stands there (R407). -/
def State.peerVals (s : State) (src atag pa : Nat) : List Word :=
  match s.anchors.find? fun a => a.peer == some (src, atag) && a.place == .phys pa with
  | some a => a.vals
  | none => [BitVec.ofNat 64 (s.word8 (.phys pa))]

/-- A peer's WAITA (R20, R286, R408): refused, answered at once with the value that releases the lane, or watched here until
a write brings one. -/
def State.peerWait (s : State) (src ctx addr rtag op : Nat) (payload : List Byte) (mask : Nat) : State :=
  let pa := addr + (bitsSet mask 256).headD 0
  if !s.admits src ctx 0 pa (pa + 8) then s.respond src ctx 0 addr rtag 1 []
  else if !((prange pa == .hbm || prange pa == .tier2) && prange (pa + 7) == prange pa) then s.respond src ctx 0 addr rtag 2 []
  else
    let s := (s.collect (lineOf pa)).scoRecall (lineOf pa)
    let m : Monitor := { gid := 0, lane := 0, place := .phys pa, va := 0, ne := op == 2, cmp := BitVec.ofNat 64 (ofBytes (payload.take 8)),
                         key := .none, fired := none, peer := some (src, rtag, ctx) }
    match (s.peerVals src (ofBytes ((payload.drop 8).take 4) - 1) pa).find? m.lets with
    | some x => s.respond src ctx 0 addr rtag 0 (List.replicate (pa - addr) 0 ++ toBytes 8 x.toNat)
    | none => { s with monitors := s.monitors ++ [m] }

/-- A peer's monitor that has fired sends its release back (R408). -/
def State.peerRelease (s : State) : State :=
  match takeFirst (fun (m : Monitor) => m.peer.isSome && m.fired.isSome) s.monitors with
  | some (m, rest) =>
    match m.peer, m.place with
    | some (q, rtag, ctx), .phys pa =>
      ({ s with monitors := rest }).respond q ctx 0 (pa / 256 * 256) rtag 0
        (List.replicate (pa % 256) 0 ++ toBytes 8 (m.fired.getD 0).toNat)
    | _, _ => { s with monitors := rest }
  | none => s

/-- The anchor that a peer's 8-byte atomic leaves here, under the tag of its request (R407). (DESIGN CHOICE, log entry 15.) -/
def State.peerAnchor (s : State) (src rtag pa : Nat) (op : AOp) (old : Nat) (payload : List Byte) : State :=
  let b := ofBytes (payload.take 8)
  let e := ofBytes ((payload.drop 8).take 8)
  if op.size != 8 then s
  else
    let keep := s.anchors.filter fun a => a.peer != some (src, rtag)
    { s with anchors := keep ++ [{ team := 0, tid := 0, place := .phys pa, peer := some (src, rtag)
                                   vals := [BitVec.ofNat 64 (if op.writes old e then op.new old b e else old)] }] }

/-- A request that takes bytes with an uncorrectable error, a read's, an atomic's or a WAITA's (R277). -/
def State.requestBad (s : State) (kind addr len : Nat) (mask : Nat) : Bool :=
  let bits := bitsSet mask 256
  if kind == 0 then s.poisoned (addr + bits.headD 0) (bits.getLastD 0 + 1 - bits.headD 0) else kind == 2 && s.poisoned addr len

/-- A remote request is taken and its response sent (R286, R289, R408); one that would take bad data never gets one (R277). -/
def State.remoteRequest (s : State) (src ctx kind addr len rtag op : Nat) (payload : List Byte) (mask : Nat) : State :=
  if (s.serveRemote src ctx kind addr len op payload mask).1 == 0 && s.requestBad kind addr len mask then s
  else if isWait kind op payload then s.peerWait src ctx addr rtag op payload mask
  else
    let r := s.serveRemote src ctx kind addr len op payload mask
    let t := if kind == 2 && r.1 == 0 then r.2.2.peerAnchor src rtag addr (aopOf op) (ofBytes r.2.1) payload else r.2.2
    t.respond src ctx kind addr rtag r.1 r.2.1

/-- What an answer brings each access that its request merges: lane, status and value, at its offset. -/
def answered (parts : List (Nat × Nat × Nat × Nat)) (status : Nat) (payload : List Byte) : List (Nat × Nat × Nat) :=
  parts.map fun p => (p.1, status, ofBytes ((payload.drop p.2.1).take p.2.2.1) * 2 ^ (8 * p.2.2.2))
def RemAsk.answers (a : RemAsk) (status : Nat) (payload : List Byte) : List (Nat × Nat × Nat) := answered a.parts status payload

/-- The cause that a status of a response names (R290, R296). -/
def statusCause (n : Nat) : Cause := match n with | 1 => .fabdeny | 3 => .peerrst | _ => .prot

/-- The answer to a lane's WAITA at another package (R290, R408): the value releases it; a reset of the package leaves it
ready at its WAITA; a refusal leaves it so with the cause that its next issue raises. -/
def State.waitAnswer (s : State) (rtag status : Nat) (x : Word) : State :=
  let mine (m : Monitor) : Bool := m.peer.isNone && m.rtag == some rtag
  match status with
  | 0 => { s with monitors := s.monitors.map fun m => if mine m then { m with fired := some x } else m }
  | 3 => s.endWaits mine
  | n =>
    let t := (s.monitors.filter mine).foldl (fun s m => s.modGrp m.gid fun g =>
      g.modLane m.lane fun x => if x.status == .waitA then { x with status := .ready } else x) s
    { t with monitors := t.monitors.map fun m => if mine m then { m with denied := some (statusCause n) } else m }

/-- A response reaches the request it answers (R290): what it serves takes the status and the bytes; one for no
outstanding request is dropped (R288). Status 3 is PEERRST. -/
def State.remoteAnswer (s : State) (rtag status : Nat) (payload : List Byte) : State :=
  match takeFirst (fun (r : RemReq) => r.rtag == rtag) s.remReqs with
  | none => s
  | some (r, rest) =>
    let got := answered r.parts status payload
    let s : State := { s with remReqs := rest }
    match r.use with
    | .lanes => s.modGrp r.gid fun g => { g with remote := g.remote ++ got }
    | .bce t n =>
      { s with bce := s.bce.map fun b => if b.team == t && b.tag == n then { b with got := b.got ++ got } else b }
    | .monitor => s.waitAnswer rtag status (BitVec.ofNat 64 (match got with | (_, _, x) :: _ => x | [] => 0))
    | .fetch => s.modGrp r.gid fun g => match r.parts with
      | (at_, off, n, _) :: _ => { g with fetched := g.fetched ++ [(at_, status, (payload.drop off).take n)] }
      | [] => g
    | .control c =>
      let x : Control := match r.parts with
        | (_, off, n, _) :: _ =>
          { data := if status == 0 then (payload.drop off).take n else [], err := if status == 0 then none else some (statusCause status) }
        | [] => {}
      { s with controls := tset c x s.controls }
    | .cp => s

/-- PEER_RESET (R288): every request outstanding to the peer completes with PEERRST, the waits at its memory end, and what
it waits for here is forgotten (R408). -/
def State.peerReset (s : State) (q : Nat) : State :=
  let mine := s.remReqs.filter fun r => r.peer == q
  let s := mine.foldl (fun s r => s.remoteAnswer r.rtag 3 []) s
  let s := s.endWaits fun m => match m.place with | .remote p _ => p == q | _ => false
  let theirs (x : Nat) : Bool := x == q
  let s : State := { s with
    monitors := s.monitors.filter fun m => match m.peer with | some (p, _, _) => !theirs p | none => true
    anchors := s.anchors.filter fun a => match a.peer with | some (p, _) => !theirs p | none => true }
  s.modPeer q fun p => { p with reset := true, buf := [], wait := [], retries := [] }

/-- A request to another package under a new tag (R289). -/
def State.remoteAsk (s : State) (gid : Nat) (use : RemUse) (ctx : Nat) (a : RemAsk) : State :=
  let tag := s.nextRtag % 2 ^ 17
  let s : State := { s with nextRtag := s.nextRtag + 1
                            remReqs := s.remReqs ++ [{ rtag := tag, peer := a.peer, ctx := ctx, gid := gid, use := use, parts := a.parts,
                                                       vas := a.vas }] }
  if (s.peer a.peer).reset then s.remoteAnswer tag 3 []
  else s.fabSend a.peer { type := a.kind, tc := 0, src := s.position, ctx := ctx, addr := a.pa, rtag := tag, op := a.op, mask := a.mask,
                          data := a.data }

/-- A remote request of the issuing group. -/
def State.remoteSend (s : State) (a : RemAsk) : State := s.remoteAsk s.cur .lanes s.myCtxNum a

end Sys2Proof.Machine
end

