-- ==== Sys2Proof/Machine/Life.lean ====
section
/-!
DEFINITION. Groups, teams and grids from their forming to their end: lane masks and CheckRelease (R36 to R38), barriers
(R46, R100, R260), bins, arrival buffers, spills and rings (R40 to R43, R94 to R98, R433), the end
of a group, a team and a grid (R27, R33, R248, R264, R345).
-/
namespace Sys2Proof.Machine

/-! ### Masks and barriers -/

/-- A lane goes on behind the instruction at which a wait held it, or would have: it has still to issue there (R92). -/
def Lane.pass (x : Lane) : Lane := { x with pcv := x.pcv + 4, freed := some (x.pcv + 4) }

/-- Lets a waiting lane go on: ready, behind the instruction it waited at. -/
def Lane.release (x : Lane) : Lane := { x.pass with status := .ready }

/-- CheckRelease (R37): when every member of mask k waits on it, every lane that waits on it is released. -/
def Group.checkRelease (g : Group) (k : Nat) : Group :=
  let m := g.mask k
  if (upTo g.W).all fun i => !m.testBit i || (g.lane i).status == .waitK k then
    g.modLanes (fun i => (g.lane i).status == .waitK k) fun _ x => x.release
  else g

/-- CheckRelease on every mask. -/
def Group.checkAll (g : Group) : Group := (upTo 12).foldl (fun g k => g.checkRelease k) g

/-- Lanes leave every mask of their group, which runs CheckRelease on each (R38). -/
def Group.leaveMasks (g : Group) (lanes : List Nat) : Group :=
  let m := maskOf lanes
  let h := (upTo 12).foldl (fun g k => g.setMask k (Nat.land (g.mask k) (2 ^ 64 - 1 - m))) g
  h.checkAll

/-- Releases the lanes of a team that wait at one of the two barriers, in its groups wherever they are. -/
def State.releaseB (s : State) (team : Nat) (grid : Bool) : State :=
  s.modTeamGroups team fun g =>
    let hit (i : Nat) : Bool := match (g.lane i).status with | .waitB b _ => b == grid | _ => false
    if (upTo g.W).any hit then { (g.modLanes hit fun _ x => x.release) with waitingSince := none, readyAt := s.tick } else g

/-- Threads of the clusters named see what each did before (R121, R145): dirty SCO lines of all of them are written back,
then their SCO lines are invalidated. -/
def State.syncClusters (s : State) (cls : List Nat) : State :=
  let t := cls.foldl (fun s c => s.scoRelease c) s
  cls.foldl (fun s c => s.scoAcquire c) t

/-- BART_RELEASE (R46, R100): the phase releases when every live thread of the team has arrived; where they span clusters,
its pairs take the actions of R121 (R145). -/
def State.bartCheck (s : State) (t : Nat) : State :=
  let tm := s.team t
  if !tm.live.isEmpty && tm.live.all (fun x => tm.bartAt.contains x) then
    let cls := s.clustersOf t
    let s := if cls.length < 2 then s else s.syncClusters cls
    (s.releaseB t false).modTeam t fun x => { x with bartAt := [], bartPhase := x.bartPhase + 1 }
  else s

/-- A team has arrived at the grid barrier: every live thread of it executed BARG in the phase (R260). -/
def Team.barged (t : Team) : Bool := t.live.all fun x => t.bargAt.contains x

/-- GRID_BARRIER_RELEASE (R260): the barrier releases when every live team of the grid has arrived, and synchronises at
.pkg (R121, R145). -/
def State.bargCheck (s : State) (g : Nat) : State :=
  let ts := (s.grid g).teams.filter fun t => !(s.team t).ending
  if ts.any (fun t => !(s.team t).bargAt.isEmpty) && ts.all (fun t => (s.team t).barged) then
    let s := s.syncClusters ((ts.map fun t => s.clustersOf t).flatten.eraseDups)
    let u := ts.foldl (fun s t => (s.releaseB t true).modTeam t fun x => { x with bargAt := [] }) s
    u.modGrid g fun x => { x with bargPhase := x.bargPhase + 1 }
  else s

/-! ### Thread records -/

/-- Bytes of a record (R94): 32 + 8 × (Lv + Lo), rounded up to 64; a record of a kernel that is no Bramble kernel carries
every register (R42). (DEDUCED, log entry 46.) -/
def State.recSize (s : State) (r : Rec) : Nat :=
  let n := if r.bramble then r.lv + r.lo else (s.grid (s.team r.team).grid).pkt.regs * 16 + 16
  (32 + 8 * n + 63) / 64 * 64

def State.recBytes (s : State) (l : List Rec) : Nat := l.foldl (fun n r => n + s.recSize r) 0

/-- The arrival buffer of a core has room for a record, those on their way counted (R13, R95). -/
def State.arriveRoom (s : State) (core : Nat) (r : Rec) : Bool :=
  let c := s.core core
  decide (s.recBytes c.arrive + s.recBytes c.transit + s.recSize r ≤ Config.arrivalBytes)

/-- A record joins the bin of its key, or takes an empty bin (R40); `none` where no bin can take it. -/
def State.intoBin (s : State) (core : Nat) (r : Rec) : Option State :=
  let c := s.core core
  match c.bins.find? fun e => e.2.team == r.team && e.2.addr == r.tgt && decide (e.2.recs.length < 64) with
  | some (i, b) => some (s.setCore core { c with bins := tset i { b with recs := b.recs ++ [r] } c.bins })
  | none =>
    let i := tfree 0 c.bins
    if i < 16 then
      let b : Bin := { team := r.team, addr := r.tgt, recs := [r], since := r.came, due := false,
                       expires := s.tick + (s.grid (s.team r.team).grid).pkt.bint }
      some (s.setCore core { c with bins := tset i b c.bins })
    else none

/-- The arrival buffer feeds the bins, its oldest record first (R40). -/
def State.feedBins : Nat → State → Nat → State
  | 0, s, _ => s
  | n + 1, s, core =>
    match (s.core core).arrive with
    | [] => s
    | r :: rest =>
      match (s.modCore core fun c => { c with arrive := rest }).intoBin core r with
      | some t => State.feedBins n t core
      | none => s

/-- The team is not saved, and its partition is not swapped out: what it holds in HBM may come back (R104, R273). -/
def State.resident (s : State) (team : Nat) : Bool :=
  !(s.team team).saved && !(s.ctx (s.grid (s.team team).grid).ctx).swapped

/-- The oldest spilled record of a team that is resident, and the spill without it (R433). -/
def State.firstSpilled (s : State) (core : Nat) : Option (Rec × List Rec) := takeFirst (fun r => s.resident r.team) (s.core core).spill

/-- The arrival buffer takes records back from the spill while it has room (R40, R433); those of a team that is saved stay
in HBM. -/
def State.unspill : Nat → State → Nat → State
  | 0, s, _ => s
  | n + 1, s, core =>
    match s.firstSpilled core with
    | none => s
    | some (r, rest) =>
      if s.arriveRoom core r then
        State.unspill n (s.modCore core fun c => { c with spill := rest, arrive := c.arrive ++ [r] }) core
      else s

/-- Refills and feeds as far as room goes. -/
def State.refill (s : State) (core : Nat) : State :=
  let c := s.core core
  let n := c.arrive.length + c.spill.length + 1
  let t := s.feedBins n core
  (t.unspill n core).feedBins n core

/-! ### Bramble: segment map, rings -/

/-- Memory of the package, or the host's, at which the device's own structures may lie (R89, R96, R113). -/
def structPage (e va : Nat) : Bool :=
  let r := prange (leafPa e va)
  (r == .hbm || r == .tier2 || r == .host) && r.admits (leafType e)

/-- Bytes of one page that the device reads (R117, R129, R277). -/
def State.devPart (s : State) (ctx va n : Nat) : Option (List Byte) :=
  let s := s.walkPrep ctx va
  match s.walk ctx va with
  | .ok e => if s.walkBad ctx va || !structPage e va || s.poisoned (leafPa e va) n then none else some (s.homeRead (leafPa e va) n).1
  | .error _ => none

/-- Bytes that the device reads at a virtual address of a context, through the walk (R117): with every partial on them
collected (R129). Bytes with an uncorrectable error, and pages outside the package's memory and the host's, it cannot read.
(DESIGN CHOICE, log entry 72.) -/
def State.devRead (s : State) (ctx va n : Nat) : Option (List Byte) :=
  let k := 65536 - va % 65536
  if n ≤ k then s.devPart ctx va n
  else
    match s.devPart ctx va k, s.devPart ctx (va + k) (n - k) with
    | some a, some b => some (a ++ b)
    | _, _ => none

def State.devNat (s : State) (ctx va n : Nat) : Nat := ofBytes ((s.devRead ctx va n).getD [])

/-- A page is copied before the device writes it, where it is versioned and its newest record lies below O (R172); `none`
where a pool is empty (R173). -/
def State.devCopy (s : State) (ctx va e : Nat) : Option State :=
  if !(leafVer e && s.needsCow ctx (leafDom e) va) then some s
  else
    match s.cowStart ctx (leafDom e) va with
    | .error _ => none
    | .ok t => some (match t.cowOf ctx (va / 65536) with | some c => t.cowFinish c | none => t)

/-- Bytes of one page that the device writes; nothing where it cannot. (DESIGN CHOICE, log entry 72.) -/
def State.devPut (s : State) (ctx va : Nat) (bs : List Byte) : State :=
  let s := s.walkPrep ctx va
  match s.walk ctx va with
  | .error _ => s
  | .ok e =>
    match (if structPage e va then s.devCopy ctx va e else none) with
    | none => s
    | some t => (match t.walk ctx va with | .ok f => t.homeWrite (leafPa f va) bs | .error _ => t)

/-- Bytes that the device writes at a virtual address of a context. -/
def State.devWrite (s : State) (ctx va : Nat) (bs : List Byte) : State :=
  let k := 65536 - va % 65536
  if bs.length ≤ k then s.devPut ctx va bs
  else (s.devPut ctx va (bs.take k)).devPut ctx (va + k) (bs.drop k)

/-- A store of the CP at a physical address: at its home, or as a fabric write where another package's range holds it
(R113, R289). -/
def State.storePa (s : State) (ctx pa : Nat) (bs : List Byte) : State :=
  match prange pa with
  | .package q =>
    let off := pa % 256
    s.remoteAsk 0 .cp ctx { peer := q, kind := 1, pa := pa % 2 ^ 47 / 256 * 256, op := 0, parts := [], mask := (2 ^ bs.length - 1) * 2 ^ off,
                            data := List.replicate off 0 ++ bs, vas := [] }
  | _ => s.homeWrite pa bs

/-- Segment map of a grid (R89): the address, and its fields. -/
structure SMap where
  ctx : Nat
  base : Nat
  nseg : Nat
  npl : Nat
  plst : Nat
  ovfb : Nat
  ovfsz : Nat
  deriving DecidableEq, Repr

def Grid.bramble (g : Grid) : Bool := g.pkt.flags.testBit 3
def Grid.pairedK (g : Grid) : Bool := g.pkt.flags.testBit 0
def Grid.cooperative (g : Grid) : Bool := g.pkt.flags.testBit 2

def State.smap (s : State) (g : Nat) : SMap :=
  let gr := s.grid g
  let b := gr.pkt.segm
  { ctx := gr.ctx, base := b, nseg := s.devNat gr.ctx b 2, npl := s.devNat gr.ctx (b + 2) 2,
    plst := s.devNat gr.ctx (b + 8) 8, ovfb := s.devNat gr.ctx (b + 16) 8, ovfsz := s.devNat gr.ctx (b + 24) 4 }

def SMap.desc (m : SMap) (i : Nat) : Nat := m.base + 64 + 64 * i
def State.segCode (s : State) (m : SMap) (i : Nat) : Nat := s.devNat m.ctx (m.desc i) 8
def State.segEntt (s : State) (m : SMap) (i : Nat) : Nat := s.devNat m.ctx (m.desc i + 8) 8
def State.segLen (s : State) (m : SMap) (i : Nat) : Nat := s.devNat m.ctx (m.desc i + 16) 4
def State.segNent (s : State) (m : SMap) (i : Nat) : Nat := s.devNat m.ctx (m.desc i + 20) 1
def State.segThr (s : State) (m : SMap) (i : Nat) : Nat := s.devNat m.ctx (m.desc i + 21) 1
def State.segEnt (s : State) (m : SMap) (i e : Nat) : Nat := s.devNat m.ctx (s.segEntt m i + 8 * e) 8

/-- Valid replica slots of a segment, rising: slot and core (R89). -/
def State.replicas (s : State) (m : SMap) (i : Nat) : List (Nat × Nat) :=
  ((upTo 8).map fun j => (j, s.devNat m.ctx (m.desc i + 32 + 2 * j) 2)).filterMap fun e =>
    if e.2.testBit 15 then some (e.1, e.2 % 1024) else none

/-- The placement list (R89). -/
def State.placement (s : State) (m : SMap) : List Nat := (upTo m.npl).map fun i => s.devNat m.ctx (m.plst + 2 * i) 2

/-- The segment whose code range holds an address (R93). -/
def State.segOf (s : State) (m : SMap) (a : Nat) : Option Nat :=
  (upTo m.nseg).find? fun i => decide (s.segCode m i ≤ a) && decide (a < s.segCode m i + s.segLen m i)

/-- The listed entry at an address: segment, entry index, Lv, Lo, LEAST (R89, R93). -/
def State.entryAt (s : State) (m : SMap) (a : Nat) : Option (Nat × Nat × Nat × Nat × Bool) :=
  match s.segOf m a with
  | none => none
  | some i =>
    (((upTo (s.segNent m i)).map fun e => (e, s.segEnt m i e)).find? fun e =>
        s.segCode m i + 4 * bitsOf e.2 13 0 == a).map fun e =>
      (i, e.1, bitsOf e.2 22 16, bitsOf e.2 28 24, e.2.testBit 32)

/-- Base of a core's overflow ring, by its placement index (R96). -/
def SMap.ringBase (m : SMap) (place : List Nat) (core : Nat) : Nat := m.ovfb + (place.findIdx fun c => c == core) * m.ovfsz

/-- Every write in flight to a thread completes: each destination holds its value and is full (R273). -/
def Thread.settle (t : Thread) : Thread :=
  let u := t.pend.foldl (fun t p => match p.key with
    | .v n => { t with v := tset n p.val t.v }
    | .o n => { t with o := tset n p.val t.o }
    | _ => t) t
  { u with pend := [], empties := [] }

/-- A record as it lies in memory (R94); a write in flight to a register that travels completes first. (DEDUCED, log entry 46.) -/
def State.packRec (s : State) (r : Rec) : List Byte :=
  let v := r.th.settle.v
  let o := r.th.settle.o
  toBytes 8 r.tgt.toNat ++ toBytes 4 r.th.tid ++ toBytes 4 r.team ++ toBytes 2 r.seg ++ toBytes 1 r.ent
    ++ toBytes 1 r.lv ++ toBytes 1 r.lo ++ toBytes 1 r.th.nzcv.toNat ++ toBytes 1 r.th.fpsr.toNat ++ [0]
    ++ toBytes 2 (s.team r.team).home ++ [0, 0, 0, 0, 0, 0]
    ++ ((upTo r.lv).map fun n => toBytes 8 (tgetD v n 0).toNat).flatten
    ++ ((upTo r.lo).map fun n => toBytes 8 (tgetD o n 0).toNat).flatten

/-- A record read back from its bytes (R94, R98). -/
def unpackRec (bs : List Byte) : Rec :=
  let num (off n : Nat) : Nat := ofBytes ((bs.drop off).take n)
  let lv := num 19 1
  let lo := num 20 1
  { team := num 12 4, tgt := BitVec.ofNat 64 (num 0 8), bramble := true, seg := num 16 2, ent := num 18 1, lv := lv, lo := lo,
    th := { tid := num 8 4, nzcv := BitVec.ofNat 4 (num 21 1), fpsr := BitVec.ofNat 5 (num 22 1),
            v := (upTo lv).map fun n => (n, BitVec.ofNat 64 (num (32 + 8 * n) 8)),
            o := (upTo lo).map fun n => (n, BitVec.ofNat 64 (num (32 + 8 * lv + 8 * n) 8)) } }

/-- A ring's header (R96), and whether it is sound (R97). -/
structure Ring where
  base : Nat
  head : Nat
  tail : Nat
  count : Nat
  slots : Nat
  deriving DecidableEq, Repr

def State.ringIn (s : State) (m : SMap) (place : List Nat) (core : Nat) : Ring :=
  let b := m.ringBase place core
  { base := b, head := s.devNat m.ctx b 4, tail := s.devNat m.ctx (b + 4) 4, count := s.devNat m.ctx (b + 8) 4,
    slots := m.ovfsz / 1024 - 1 }

def State.ring (s : State) (m : SMap) (core : Nat) : Ring := s.ringIn m (s.placement m) core

def Ring.ok (r : Ring) : Bool :=
  decide (1 ≤ r.head) && decide (r.head ≤ r.slots) && decide (1 ≤ r.tail) && decide (r.tail ≤ r.slots)
    && decide (r.count ≤ r.slots)

/-- A record is written to a core's ring (R96, R97); `none` where the ring is full or corrupt: BROVF. A slot has room
for 96 v registers, the most that R89 lets a record carry. -/
def State.toRing (s : State) (core : Nat) (r : Rec) : Option State :=
  let m := s.smap (s.team r.team).grid
  let g := s.ring m core
  if !g.ok || g.count == g.slots then none
  else
    let s := s.devWrite m.ctx (g.base + 1024 * g.tail) (s.packRec { r with lv := min 96 r.lv })
    let s := s.devWrite m.ctx (g.base + 4) (toBytes 4 (if g.tail == g.slots then 1 else g.tail + 1))
    some (s.devWrite m.ctx (g.base + 8) (toBytes 4 (g.count + 1)))

/-- Address of a record of a ring, by its place in the order of arrival. -/
def Ring.slotAt (r : Ring) (i : Nat) : Nat := r.base + 1024 * (1 + (r.head - 1 + i) % r.slots)

/-- The place of the oldest record of a ring that its core may take: of a team that is resident, or of none that lives. -/
def State.ringNext (s : State) (grid : Nat) (m : SMap) (g : Ring) : Option Nat :=
  (upTo g.count).find? fun i =>
    let t := s.devNat m.ctx (g.slotAt i + 12) 4
    !(s.grid grid).teams.contains t || s.resident t

/-- The oldest such record of a core's ring is taken out (R97), and those of saved teams before it move up by a slot: `none`
where the ring is corrupt, and no record where it holds none. (DESIGN CHOICE, log entry 72.) -/
def State.fromRing (s : State) (grid core : Nat) : Option (Option Rec × State) :=
  let m := s.smap grid
  let g := s.ring m core
  if !g.ok then none
  else
    match s.ringNext grid m g with
    | none => some (none, s)
    | some k =>
      let r := unpackRec ((s.devRead m.ctx (g.slotAt k) 1024).getD [])
      let s := (upTo k).foldr (fun i s => s.devWrite m.ctx (g.slotAt (i + 1)) ((s.devRead m.ctx (g.slotAt i) 1024).getD [])) s
      let s := s.devWrite m.ctx g.base (toBytes 4 (if g.head == g.slots then 1 else g.head + 1))
      some (some r, s.devWrite m.ctx (g.base + 8) (toBytes 4 (g.count - 1)))

/-- The grids whose rings a core drains (R96): those with a team that is resident. -/
def State.ringGrids (s : State) (core : Nat) : List Nat :=
  (s.grids.filter fun e => e.2.bramble && e.2.admitted && e.2.teams.any (fun t => s.resident t)
    && (s.placement (s.smap e.1)).contains core).map fun e => e.1

/-- A ring of the core still holds a record that goes before any that comes now (R40, R97). -/
def State.ringHeld (s : State) (core : Nat) : Bool :=
  (s.ringGrids core).any fun g =>
    let m := s.smap g
    let r := s.ring m core
    r.ok && (s.ringNext g m r).isSome

/-- The core pins the segment of a grid (R91, R107). -/
def State.pins (s : State) (grid core seg : Nat) : Bool :=
  match (s.core core).seg with
  | some x => x.grid == grid && x.seg == seg
  | none => false

/-- A segment of a grid's map as a core's instruction store takes it (R91, R106): its code with it. Where the code cannot be
read the store takes zeros, and a fetch from it is checked by no translation. (DESIGN CHOICE, log entry 71.) -/
def State.segLoad (s : State) (grid i : Nat) : Seg :=
  let m := s.smap grid
  { grid := grid, seg := i, base := s.segCode m i, len := s.segLen m i, code := (s.devRead m.ctx (s.segCode m i) (s.segLen m i)).getD [] }

/-- The oldest record of a ring goes on in a segment that the core does not pin (R107). -/
def State.ringAstray (s : State) (grid core : Nat) : Bool :=
  match s.fromRing grid core with
  | some (some r, _) =>
    (s.grid grid).teams.contains r.team && (s.segOf (s.smap grid) r.tgt.toNat).isSome && !s.pins grid core r.seg
  | _ => false

/-- The buffer takes the oldest record of a sound ring back, if it has room (R97); a record of no live team of the grid is
dropped. -/
def State.drainOnce (s : State) (grid core : Nat) : Option State :=
  match s.fromRing grid core with
  | some (some r, t) =>
    if !(s.grid grid).teams.contains r.team then some t
    else if s.ringAstray grid core then none
    else if s.arriveRoom core r then some (t.modCore core fun c => { c with arrive := c.arrive ++ [{ r with came := s.tick }] })
    else none
  | _ => none

/-- The ring's records come back as far as room goes (R40, R97). -/
def State.drainMore : Nat → State → Nat → Nat → State
  | 0, s, _, _ => s
  | n + 1, s, grid, core =>
    match s.drainOnce grid core with
    | some t => State.drainMore n (t.refill core) grid core
    | none => s

/-- Records that wait in the buffer go into bins, and records of the spill and of the rings into the buffer, as far as
room goes (R40): of the spill first, then of the rings in the order of the grids. (DESIGN CHOICE, log entry 73.) -/
def State.takeIn (s : State) (core : Nat) : State :=
  let s := s.refill core
  (s.ringGrids core).foldl (fun s g => s.drainMore (s.ring (s.smap g) core).count g core) s

/-- Nothing that R40 takes into the buffer before a new record is left. -/
def State.nextIn (s : State) (core : Nat) : Bool := (s.firstSpilled core).isNone && !s.ringHeld core

/-- A record comes to a core: into a bin, the arrival buffer, or, with no room, the spill or the ring (R40, R43). Records
that wait in the buffer go into bins before it, and records of the spill and of the rings into the buffer before it.
`none` is BROVF. The bins are those of the core that made the record, in a paired team too. (DESIGN CHOICE, log entry 73.) -/
def State.putRec (s : State) (core : Nat) (r : Rec) : Option State :=
  let s := s.takeIn core
  let r := { r with came := s.tick }
  let first := s.nextIn core
  match (if (s.core core).arrive.isEmpty && first then s.intoBin core r else none) with
  | some t => some t
  | none =>
    if first && s.arriveRoom core r then some (s.modCore core fun c => { c with arrive := c.arrive ++ [r] })
    else if r.bramble then s.toRing core r
    else some (s.modCore core fun c => { c with spill := c.spill ++ [r] })

/-! ### Forming groups -/

def State.groupsOn (s : State) (core : Nat) : List (Nat × Group) :=
  s.groups.filter fun e => e.2.core == core && e.2.loc == .onCore

def State.freeSlot (s : State) (core : Nat) : Option Nat :=
  let used := (s.groupsOn core).map fun e => e.2.slot
  (upTo Config.slots).find? fun i => !used.contains i

def State.freeRegs (s : State) (core : Nat) : Nat :=
  Config.laneRegs - (s.groupsOn core).foldl (fun n e => n + e.2.W * e.2.R) 0

/-- A group slot and lane-registers are free for a group of the kernel (R24, R41). -/
def State.groupRoom (s : State) (core W R : Nat) : Bool :=
  (s.freeSlot core).isSome && decide (W * R ≤ s.freeRegs core)

/-- The lowest group number that the team has free on a core: in a paired team, even on the leader and odd on the
follower (R23). -/
def State.freeNum (s : State) (team core : Nat) : Nat :=
  let used := (s.groups.filter fun e => e.2.team == team).map fun e => e.2.num
  let paired := (s.team team).paired
  let step := if paired then 2 else 1
  let start := if paired then core % 2 else 0
  ((upTo (used.length + 1)).map fun i => start + step * i).find? (fun n => !used.contains n) |>.getD 0

/-- A new group (R30): the lanes given, k0 the occupied ones, q0 the argument pointer. -/
def State.newGroup (s : State) (team core num : Nat) (ths : List (Thread × Word)) : State :=
  let gr := s.grid (s.team team).grid
  let W := gr.pkt.gw
  let mk (i : Nat) : Lane :=
    match ths[i]? with
    | some (t, pc) => { occ := true, status := .ready, pcv := pc, th := t }
    | none => {}
  let tids := ths.map fun x => x.1.tid
  let tm := s.team team
  let g : Group :=
    { lanes := (upTo W).map mk, core := core, slot := (s.freeSlot core).getD 0, num := num, team := team, W := W,
      R := gr.pkt.regs * 16, k := [(0, BitVec.ofNat 64 (2 ^ ths.length - 1))], q := [(0, BitVec.ofNat 64 gr.pkt.argp)],
      formedAt := s.tick, readyAt := s.tick,
      woundDue := tids.any fun t => tm.woundTids.contains t
      revokeDue := tids.any fun t => tm.revokeTids.contains t }
  let s := s.setGrp s.nextGid g
  let s := { s with nextGid := s.nextGid + 1 }
  s.modTeam team fun x => { x with ran := if x.ran.contains (clusterOf core) then x.ran else x.ran ++ [clusterOf core]
                                   woundTids := x.woundTids.filter (fun t => !tids.contains t)
                                   revokeTids := x.revokeTids.filter (fun t => !tids.contains t) }

/-- A bin can launch but for its condition (R41). -/
def State.binRoom (s : State) (core : Nat) (b : Bin) : Bool :=
  let p := (s.grid (s.team b.team).grid).pkt
  s.groupRoom core p.gw (p.regs * 16)

/-- One of the three conditions of R41 holds: W records, an expired timer, or every bin occupied with a record in the
arrival buffer and this bin the one with the oldest first record. -/
def State.binDue (s : State) (core : Nat) (b : Bin) : Bool :=
  let c := s.core core
  decide ((s.grid (s.team b.team).grid).pkt.gw ≤ b.recs.length) || b.due || decide (b.expires ≤ s.tick)
    || (decide (16 ≤ c.bins.length) && !c.arrive.isEmpty && c.bins.all fun e => decide (b.since ≤ e.2.since))

/-- A bin launches a group of its oldest records (R41, R98); records left behind restart its timer. -/
def State.launchBin (s : State) (core i : Nat) : State :=
  let c := s.core core
  match tget i c.bins with
  | none => s
  | some b =>
    let p := (s.grid (s.team b.team).grid).pkt
    let now := b.recs.take p.gw
    let rest := b.recs.drop p.gw
    let bins := if rest.isEmpty then tdel i c.bins
                else tset i { b with recs := rest, due := false, expires := s.tick + p.bint,
                                      since := (rest.headD { team := 0, th := {}, tgt := 0 }).came } c.bins
    let t := s.setCore core { c with bins := bins }
    let t := t.newGroup b.team core (t.freeNum b.team core) (now.map fun r => (r.th, r.tgt))
    t.refill core

/-- A queue that is not the team's own has reserved one of its cores (R251). -/
def State.coreTaken (s : State) (gr : Grid) (c : Nat) : Bool :=
  s.queues.any fun e => e.1 != gr.queue && e.2.reserved.contains c

/-- A grid may run on a core (R251): a deadline launch on what its queue has reserved, another where no queue has. -/
def State.coreFor (s : State) (gr : Grid) (c : Nat) : Bool :=
  if gr.cls == 0 then (s.queue gr.queue).reserved.contains c else !(s.queues.any fun e => e.2.reserved.contains c)

/-! ### Ends -/

/-- Every monitor of a group goes (R193, R408). -/
def State.dropMonitors (s : State) (gid : Nat) : State :=
  { s with monitors := s.monitors.filter fun m => m.gid != gid }

/-- A group is gone: its slot and lane-registers are free (R33), its frames discarded (R268), its requests withdrawn. -/
def State.removeGroup (s : State) (gid : Nat) : State :=
  let team := (s.grp gid).team
  let s := (s.dropMonitors gid).withdraw gid
  let s := { s with groups := tdel gid s.groups
                    tasks := s.tasks.filter fun e => e.2.gid != gid
                    remReqs := s.remReqs.filter fun r => r.gid != gid }
  s.modTeam team fun t => { t with frames := t.frames.filter fun e => e.2.gid != gid }

/-- A record of the team stands in a bin, an arrival buffer, a spill, in transit, or in the saved image (R27). -/
def State.recsOf (s : State) (team : Nat) : Bool :=
  (s.cores.any fun e => e.2.allRecs.any fun r => r.team == team) || !(s.team team).image.isEmpty

/-- Threads leave a group that a wound, or a revocation, has still to reach: they take it where they stand next (R103,
R193, R194). -/
def State.carryDue (s : State) (gid : Nat) (tids : List Nat) : State :=
  let g := s.grp gid
  s.modTeam g.team fun t =>
    { t with woundTids := if g.woundDue then t.woundTids ++ tids else t.woundTids
             revokeTids := if g.revokeDue then t.revokeTids ++ tids else t.revokeTids }

/-- A team all of whose threads have exited starts to end (R27, R345). -/
def State.teamCheck (s : State) (team : Nat) : State :=
  if (s.team team).live.isEmpty then s.modTeam team fun t => { t with ending := true } else s

/-- If all its lanes have exited or departed, the group ends (R33). -/
def State.groupCheck (s : State) (gid : Nat) : State :=
  let g := s.grp gid
  if g.aliveLanes.isEmpty then
    (s.removeGroup gid).teamCheck g.team
  else s

/-- Threads of a team exit (R46, R344): their tids are free, the open phases no longer count them. -/
def State.exitTids (s : State) (team : Nat) (tids : List Nat) : State :=
  let s := s.modTeam team fun t =>
    { t with live := t.live.filter (fun x => !tids.contains x)
             bartAt := t.bartAt.filter (fun x => !tids.contains x)
             bargAt := t.bargAt.filter (fun x => !tids.contains x) }
  let s := { s with anchors := s.anchors.filter fun a => !(a.team == team && tids.contains a.tid) }
  (s.bartCheck team).bargCheck (s.team team).grid

/-- The 16-byte completion record (R248). -/
def State.completion (s : State) (status reason cause : Nat) : List Byte :=
  toBytes 1 status ++ toBytes 1 reason ++ [0, 0] ++ toBytes 4 cause ++ toBytes 8 s.tick

/-- GRID_COMPLETION (R248): once every team has ended, the CP writes the completion record, with a release at .sys, and
the grid is gone; its barrier counter returns (R256). -/
def State.gridCheck (s : State) (g : Nat) : State :=
  let gr := s.grid g
  let total := gr.pkt.gridx * gr.pkt.gridy * gr.pkt.gridz
  if (tget g s.grids).isSome && gr.teams.isEmpty && !gr.armed && (gr.fate.isSome || decide (total ≤ gr.next)) then
    let f := gr.fate.getD (1, 0)
    let s := s.storePa gr.ctx gr.sigPa (s.completion f.1 0 f.2)
    let s := { s with barriers := s.barriers.filter fun e => e.2 != g }
    let s := { s with grids := tdel g s.grids }
    { s with cores := tmap (fun _ c => match c.seg with
        | some x => if x.grid == g then { c with seg := none } else c
        | none => c) s.cores }
  else s

/-- The other core of a pair (R23). -/
def mateOf (core : Nat) : Nat := if core % 2 == 0 then core + 1 else core - 1

/-- An MMA waits behind those that are left, once a team's are gone, of what it waited behind on the pair's other core
(R228). -/
def Mma.without (m : Mma) (t : Nat) (mate : List Mma) : Mma :=
  let ahead := (mate.filter fun x => x.b2.isSome || m.b2.isSome).take m.behind
  { m with behind := (ahead.filter fun x => x.team != t).length }

/-- The MMAs of a team are gone from the queues of the cores. -/
def State.dropMmas (s : State) (t : Nat) : State :=
  let drop (n : Nat) (c : Core) : Core :=
    { c with mmaQ := (c.mmaQ.filter fun m => m.team != t).map fun m => m.without t (s.core (mateOf n)).mmaQ }
  { s with cores := tmap drop s.cores }

/-- The core whose accumulator store a team uses: its home core, the leader of a pair (R23, R222). -/
def Team.tileCore (t : Team) : Nat := if t.paired then t.home / 2 * 2 else t.home

/-- A team leaves the machine (R345): locks released (R188), accumulator store, local store, tags and frames freed, and
the grid and its barrier no longer count it. -/
def State.removeTeam (s : State) (t : Nat) : State :=
  let tm := s.team t
  let gids := (s.groups.filter fun e => e.2.team == t).map fun e => e.1
  let s := gids.foldl (fun s g => s.removeGroup g) s
  let s := ((s.sco.map fun x => x.cl).eraseDups).foldl (fun s c => s.scoRelease c) s
  let s := (s.releaseAll t).dropMmas t
  let s := { s with wounds := s.wounds.filter (fun w => w.team != t && w.by_ != t)
                    anchors := s.anchors.filter (fun a => a.team != t)
                    bce := s.bce.filter (fun b => b.team != t)
                    revoked := s.revoked.filter (fun h => h.team != t)
                    bartMsgs := s.bartMsgs.filter (fun b => b.1 != t)
                    cores := tmap (fun _ c =>
                      { c with arrive := c.arrive.filter (fun r => r.team != t), spill := c.spill.filter (fun r => r.team != t),
                               transit := c.transit.filter (fun r => r.team != t),
                               bins := c.bins.filter (fun e => e.2.team != t) }) s.cores }
  let c := s.core tm.tileCore
  let s := if c.owner == .team t then s.setCore tm.tileCore { c with owner := .free, tiles := [] } else s
  let s := { s with teams := tdel t s.teams }
  let s := s.modGrid tm.grid fun g => { g with teams := g.teams.filter (· != t) }
  (s.bargCheck tm.grid).gridCheck tm.grid

/-- GRID_FATAL (R97, R264): a record of kind 3, FAULTED with the cause, and every team of the grid ends. -/
def State.gridFatal (s : State) (grid core : Nat) (c : Cause) (tval epc : Word) (team : Nat) : State :=
  let s := s.post (dieOf core) { kind := 3, cause := c.code, core := core, val := tval, epc := epc, team := team,
                                 ctx := (s.grid grid).ctx }
  let s := s.modGrid grid fun g => { g with fate := some (5, c.code) }
  let s := (s.grid grid).teams.foldl (fun s t => s.removeTeam t) s
  s.gridCheck grid

end Sys2Proof.Machine
end

