-- ==== Sys2Proof/Decode.lean ====
section
/-!
DEFINITION. The decoder and the encoder of Marby words (R69 to R74, R80), both written from the encodings that
spec/opcode_table.json and the chapter on formats give. The decoder reads the OP byte and the fields of its row; it
refuses, by name, a reserved OP and a bit or field that the row fixes and the word does not have. Codes that the
fields may not carry (R77, R78), forbidden specifiers (R50) and the like are the business of WellFormed.lean: the
decoder hands them on as they stand.
-/
namespace Sys2Proof

/-- Why a word is no instruction: the OP byte is reserved (R74, R80), a bit or field that the row fixes differs (R72,
R73), or there are fewer than four bytes (R69). -/
inductive Reject where
  | reservedOp
  | fixedField
  | shortWord
  deriving DecidableEq, Repr

/-- Bits lo + n − 1 down to lo of a word, as a number (R4). -/
def bitsAt (w : IWord) (lo n : Nat) : Nat := w.toNat / 2 ^ lo % 2 ^ n

/-- Bits lo + n − 1 down to lo of a word, as a field of n bits (R70). -/
def fieldAt (w : IWord) (lo n : Nat) : BitVec n := BitVec.ofNat n (w.toNat / 2 ^ lo)

/-- The OP byte (R70). -/
def opOf (w : IWord) : Nat := bitsAt w 24 8

/-- Answers the instruction when the row's fixed bits are as they must be (R72, R73). -/
def guardFixed (ok : Bool) (i : Instr) : Except Reject Instr := if ok then .ok i else .error .fixedField

/-- Row 0x0_ of the opcode map (R74). -/
def decodeRow0 (lo : Nat) (w : IWord) : Except Reject Instr :=
  match lo with
  | 1 => .ok (.add (fieldAt w 17 7) (fieldAt w 10 7) (fieldAt w 3 7) (fieldAt w 2 1) (fieldAt w 1 1) (fieldAt w 0 1))
  | 2 => .ok (.sub (fieldAt w 17 7) (fieldAt w 10 7) (fieldAt w 3 7) (fieldAt w 2 1) (fieldAt w 1 1) (fieldAt w 0 1))
  | 3 => .ok (.mul (fieldAt w 17 7) (fieldAt w 10 7) (fieldAt w 3 7) (fieldAt w 2 1) (fieldAt w 1 1) (fieldAt w 0 1))
  | 4 => .ok (.mulhS (fieldAt w 17 7) (fieldAt w 10 7) (fieldAt w 3 7) (fieldAt w 2 1) (fieldAt w 1 1) (fieldAt w 0 1))
  | 5 => .ok (.mulhZ (fieldAt w 17 7) (fieldAt w 10 7) (fieldAt w 3 7) (fieldAt w 2 1) (fieldAt w 1 1) (fieldAt w 0 1))
  | 6 => .ok (.and (fieldAt w 17 7) (fieldAt w 10 7) (fieldAt w 3 7) (fieldAt w 2 1) (fieldAt w 1 1) (fieldAt w 0 1))
  | 7 => .ok (.or (fieldAt w 17 7) (fieldAt w 10 7) (fieldAt w 3 7) (fieldAt w 2 1) (fieldAt w 1 1) (fieldAt w 0 1))
  | 8 => .ok (.xor (fieldAt w 17 7) (fieldAt w 10 7) (fieldAt w 3 7) (fieldAt w 2 1) (fieldAt w 1 1) (fieldAt w 0 1))
  | 9 => .ok (.shl (fieldAt w 17 7) (fieldAt w 10 7) (fieldAt w 3 7) (fieldAt w 2 1) (fieldAt w 1 1) (fieldAt w 0 1))
  | 10 => .ok (.shr (fieldAt w 17 7) (fieldAt w 10 7) (fieldAt w 3 7) (fieldAt w 2 1) (fieldAt w 1 1) (fieldAt w 0 1))
  | 11 => .ok (.sar (fieldAt w 17 7) (fieldAt w 10 7) (fieldAt w 3 7) (fieldAt w 2 1) (fieldAt w 1 1) (fieldAt w 0 1))
  | 12 => .ok (.minS (fieldAt w 17 7) (fieldAt w 10 7) (fieldAt w 3 7) (fieldAt w 2 1) (fieldAt w 1 1) (fieldAt w 0 1))
  | 13 => .ok (.maxS (fieldAt w 17 7) (fieldAt w 10 7) (fieldAt w 3 7) (fieldAt w 2 1) (fieldAt w 1 1) (fieldAt w 0 1))
  | 14 => .ok (.minZ (fieldAt w 17 7) (fieldAt w 10 7) (fieldAt w 3 7) (fieldAt w 2 1) (fieldAt w 1 1) (fieldAt w 0 1))
  | 15 => .ok (.maxZ (fieldAt w 17 7) (fieldAt w 10 7) (fieldAt w 3 7) (fieldAt w 2 1) (fieldAt w 1 1) (fieldAt w 0 1))
  | _ => .error .reservedOp

/-- Row 0x1_ of the opcode map (R74). -/
def decodeRow1 (lo : Nat) (w : IWord) : Except Reject Instr :=
  match lo with
  | 0 => .ok (.adc (fieldAt w 17 7) (fieldAt w 10 7) (fieldAt w 3 7) (fieldAt w 2 1) (fieldAt w 1 1) (fieldAt w 0 1))
  | 1 => .ok (.sbc (fieldAt w 17 7) (fieldAt w 10 7) (fieldAt w 3 7) (fieldAt w 2 1) (fieldAt w 1 1) (fieldAt w 0 1))
  | 2 => guardFixed (bitsAt w 17 7 == 121 && bitsAt w 2 1 == 0) (.cmpS (fieldAt w 10 7) (fieldAt w 3 7) (fieldAt w 1 1) (fieldAt w 0 1))
  | 3 => guardFixed (bitsAt w 17 7 == 121 && bitsAt w 2 1 == 0) (.cmpZ (fieldAt w 10 7) (fieldAt w 3 7) (fieldAt w 1 1) (fieldAt w 0 1))
  | 4 => .ok (.divS (fieldAt w 17 7) (fieldAt w 10 7) (fieldAt w 3 7) (fieldAt w 2 1) (fieldAt w 1 1) (fieldAt w 0 1))
  | 5 => .ok (.divZ (fieldAt w 17 7) (fieldAt w 10 7) (fieldAt w 3 7) (fieldAt w 2 1) (fieldAt w 1 1) (fieldAt w 0 1))
  | 6 => .ok (.remS (fieldAt w 17 7) (fieldAt w 10 7) (fieldAt w 3 7) (fieldAt w 2 1) (fieldAt w 1 1) (fieldAt w 0 1))
  | 7 => .ok (.remZ (fieldAt w 17 7) (fieldAt w 10 7) (fieldAt w 3 7) (fieldAt w 2 1) (fieldAt w 1 1) (fieldAt w 0 1))
  | 8 => .ok (.addW (fieldAt w 17 7) (fieldAt w 10 7) (fieldAt w 3 7) (fieldAt w 2 1) (fieldAt w 1 1) (fieldAt w 0 1))
  | 9 => .ok (.subW (fieldAt w 17 7) (fieldAt w 10 7) (fieldAt w 3 7) (fieldAt w 2 1) (fieldAt w 1 1) (fieldAt w 0 1))
  | 10 => .ok (.mulW (fieldAt w 17 7) (fieldAt w 10 7) (fieldAt w 3 7) (fieldAt w 2 1) (fieldAt w 1 1) (fieldAt w 0 1))
  | 11 => guardFixed (bitsAt w 3 7 == 0 && bitsAt w 0 1 == 0) (.popc (fieldAt w 17 7) (fieldAt w 10 7) (fieldAt w 2 1) (fieldAt w 1 1))
  | 12 => guardFixed (bitsAt w 3 7 == 0 && bitsAt w 0 1 == 0) (.clz (fieldAt w 17 7) (fieldAt w 10 7) (fieldAt w 2 1) (fieldAt w 1 1))
  | 13 => guardFixed (bitsAt w 3 7 == 0 && bitsAt w 0 1 == 0) (.brev (fieldAt w 17 7) (fieldAt w 10 7) (fieldAt w 2 1) (fieldAt w 1 1))
  | 14 => .ok (.bfx (fieldAt w 17 7) (fieldAt w 10 7) (fieldAt w 3 7) (fieldAt w 2 1) (fieldAt w 1 1) (fieldAt w 0 1))
  | 15 => .ok (.bfi (fieldAt w 17 7) (fieldAt w 10 7) (fieldAt w 3 7) (fieldAt w 2 1) (fieldAt w 1 1) (fieldAt w 0 1))
  | _ => .error .reservedOp

/-- Row 0x2_ of the opcode map (R74). -/
def decodeRow2 (lo : Nat) (w : IWord) : Except Reject Instr :=
  match lo with
  | 0 => .ok (.faddD (fieldAt w 17 7) (fieldAt w 10 7) (fieldAt w 3 7) (fieldAt w 2 1) (fieldAt w 1 1) (fieldAt w 0 1))
  | 1 => .ok (.fsubD (fieldAt w 17 7) (fieldAt w 10 7) (fieldAt w 3 7) (fieldAt w 2 1) (fieldAt w 1 1) (fieldAt w 0 1))
  | 2 => .ok (.fmulD (fieldAt w 17 7) (fieldAt w 10 7) (fieldAt w 3 7) (fieldAt w 2 1) (fieldAt w 1 1) (fieldAt w 0 1))
  | 3 => .ok (.ffmaD (fieldAt w 17 7) (fieldAt w 10 7) (fieldAt w 3 7) (fieldAt w 2 1) (fieldAt w 1 1) (fieldAt w 0 1))
  | 4 => .ok (.ffmsD (fieldAt w 17 7) (fieldAt w 10 7) (fieldAt w 3 7) (fieldAt w 2 1) (fieldAt w 1 1) (fieldAt w 0 1))
  | 5 => .ok (.ffnmD (fieldAt w 17 7) (fieldAt w 10 7) (fieldAt w 3 7) (fieldAt w 2 1) (fieldAt w 1 1) (fieldAt w 0 1))
  | 6 => .ok (.fminD (fieldAt w 17 7) (fieldAt w 10 7) (fieldAt w 3 7) (fieldAt w 2 1) (fieldAt w 1 1) (fieldAt w 0 1))
  | 7 => .ok (.fmaxD (fieldAt w 17 7) (fieldAt w 10 7) (fieldAt w 3 7) (fieldAt w 2 1) (fieldAt w 1 1) (fieldAt w 0 1))
  | 8 => .ok (.fdivD (fieldAt w 17 7) (fieldAt w 10 7) (fieldAt w 3 7) (fieldAt w 2 1) (fieldAt w 1 1) (fieldAt w 0 1))
  | 9 => guardFixed (bitsAt w 3 7 == 0 && bitsAt w 0 1 == 0) (.fsqrtD (fieldAt w 17 7) (fieldAt w 10 7) (fieldAt w 2 1) (fieldAt w 1 1))
  | 10 => guardFixed (bitsAt w 17 7 == 121 && bitsAt w 2 1 == 0) (.fcmpD (fieldAt w 10 7) (fieldAt w 3 7) (fieldAt w 1 1) (fieldAt w 0 1))
  | 11 => guardFixed (bitsAt w 3 7 == 0 && bitsAt w 0 1 == 0) (.fabsD (fieldAt w 17 7) (fieldAt w 10 7) (fieldAt w 2 1) (fieldAt w 1 1))
  | 12 => guardFixed (bitsAt w 3 7 == 0 && bitsAt w 0 1 == 0) (.fnegD (fieldAt w 17 7) (fieldAt w 10 7) (fieldAt w 2 1) (fieldAt w 1 1))
  | 13 => .ok (.fcpysD (fieldAt w 17 7) (fieldAt w 10 7) (fieldAt w 3 7) (fieldAt w 2 1) (fieldAt w 1 1) (fieldAt w 0 1))
  | 14 => guardFixed (bitsAt w 0 1 == 0) (.frndD (fieldAt w 17 7) (fieldAt w 10 7) (fieldAt w 3 7) (fieldAt w 2 1) (fieldAt w 1 1))
  | 15 => guardFixed (bitsAt w 3 7 == 0 && bitsAt w 0 1 == 0) (.fclsD (fieldAt w 17 7) (fieldAt w 10 7) (fieldAt w 2 1) (fieldAt w 1 1))
  | _ => .error .reservedOp

/-- Row 0x3_ of the opcode map (R74). -/
def decodeRow3 (lo : Nat) (w : IWord) : Except Reject Instr :=
  match lo with
  | 0 => .ok (.faddF (fieldAt w 17 7) (fieldAt w 10 7) (fieldAt w 3 7) (fieldAt w 2 1) (fieldAt w 1 1) (fieldAt w 0 1))
  | 1 => .ok (.fsubF (fieldAt w 17 7) (fieldAt w 10 7) (fieldAt w 3 7) (fieldAt w 2 1) (fieldAt w 1 1) (fieldAt w 0 1))
  | 2 => .ok (.fmulF (fieldAt w 17 7) (fieldAt w 10 7) (fieldAt w 3 7) (fieldAt w 2 1) (fieldAt w 1 1) (fieldAt w 0 1))
  | 3 => .ok (.ffmaF (fieldAt w 17 7) (fieldAt w 10 7) (fieldAt w 3 7) (fieldAt w 2 1) (fieldAt w 1 1) (fieldAt w 0 1))
  | 4 => .ok (.ffmsF (fieldAt w 17 7) (fieldAt w 10 7) (fieldAt w 3 7) (fieldAt w 2 1) (fieldAt w 1 1) (fieldAt w 0 1))
  | 5 => .ok (.ffnmF (fieldAt w 17 7) (fieldAt w 10 7) (fieldAt w 3 7) (fieldAt w 2 1) (fieldAt w 1 1) (fieldAt w 0 1))
  | 6 => .ok (.fminF (fieldAt w 17 7) (fieldAt w 10 7) (fieldAt w 3 7) (fieldAt w 2 1) (fieldAt w 1 1) (fieldAt w 0 1))
  | 7 => .ok (.fmaxF (fieldAt w 17 7) (fieldAt w 10 7) (fieldAt w 3 7) (fieldAt w 2 1) (fieldAt w 1 1) (fieldAt w 0 1))
  | 8 => .ok (.fdivF (fieldAt w 17 7) (fieldAt w 10 7) (fieldAt w 3 7) (fieldAt w 2 1) (fieldAt w 1 1) (fieldAt w 0 1))
  | 9 => guardFixed (bitsAt w 3 7 == 0 && bitsAt w 0 1 == 0) (.fsqrtF (fieldAt w 17 7) (fieldAt w 10 7) (fieldAt w 2 1) (fieldAt w 1 1))
  | 10 => guardFixed (bitsAt w 17 7 == 121 && bitsAt w 2 1 == 0) (.fcmpF (fieldAt w 10 7) (fieldAt w 3 7) (fieldAt w 1 1) (fieldAt w 0 1))
  | 11 => guardFixed (bitsAt w 3 7 == 0 && bitsAt w 0 1 == 0) (.fabsF (fieldAt w 17 7) (fieldAt w 10 7) (fieldAt w 2 1) (fieldAt w 1 1))
  | 12 => guardFixed (bitsAt w 3 7 == 0 && bitsAt w 0 1 == 0) (.fnegF (fieldAt w 17 7) (fieldAt w 10 7) (fieldAt w 2 1) (fieldAt w 1 1))
  | 13 => .ok (.fcpysF (fieldAt w 17 7) (fieldAt w 10 7) (fieldAt w 3 7) (fieldAt w 2 1) (fieldAt w 1 1) (fieldAt w 0 1))
  | 14 => guardFixed (bitsAt w 0 1 == 0) (.frndF (fieldAt w 17 7) (fieldAt w 10 7) (fieldAt w 3 7) (fieldAt w 2 1) (fieldAt w 1 1))
  | 15 => guardFixed (bitsAt w 3 7 == 0 && bitsAt w 0 1 == 0) (.fclsF (fieldAt w 17 7) (fieldAt w 10 7) (fieldAt w 2 1) (fieldAt w 1 1))
  | _ => .error .reservedOp

/-- Row 0x4_ of the opcode map (R74). -/
def decodeRow4 (lo : Nat) (w : IWord) : Except Reject Instr :=
  match lo with
  | 0 => guardFixed (bitsAt w 0 3 == 0) (.cvtDF (fieldAt w 17 7) (fieldAt w 10 7) (fieldAt w 3 7))
  | 1 => guardFixed (bitsAt w 0 3 == 0) (.cvtFD (fieldAt w 17 7) (fieldAt w 10 7) (fieldAt w 3 7))
  | 2 => guardFixed (bitsAt w 0 3 == 0) (.cvtDS64 (fieldAt w 17 7) (fieldAt w 10 7) (fieldAt w 3 7))
  | 3 => guardFixed (bitsAt w 0 3 == 0) (.cvtS64D (fieldAt w 17 7) (fieldAt w 10 7) (fieldAt w 3 7))
  | 4 => guardFixed (bitsAt w 0 3 == 0) (.cvtDZ64 (fieldAt w 17 7) (fieldAt w 10 7) (fieldAt w 3 7))
  | 5 => guardFixed (bitsAt w 0 3 == 0) (.cvtZ64D (fieldAt w 17 7) (fieldAt w 10 7) (fieldAt w 3 7))
  | 6 => guardFixed (bitsAt w 0 3 == 0) (.cvtFS32 (fieldAt w 17 7) (fieldAt w 10 7) (fieldAt w 3 7))
  | 7 => guardFixed (bitsAt w 0 3 == 0) (.cvtS32F (fieldAt w 17 7) (fieldAt w 10 7) (fieldAt w 3 7))
  | 8 => guardFixed (bitsAt w 0 3 == 0) (.cvtBF (fieldAt w 17 7) (fieldAt w 10 7) (fieldAt w 3 7))
  | 9 => guardFixed (bitsAt w 0 3 == 0) (.cvtFB (fieldAt w 17 7) (fieldAt w 10 7) (fieldAt w 3 7))
  | 10 => guardFixed (bitsAt w 0 3 == 0) (.cvtHF (fieldAt w 17 7) (fieldAt w 10 7) (fieldAt w 3 7))
  | 11 => guardFixed (bitsAt w 0 3 == 0) (.cvtFH (fieldAt w 17 7) (fieldAt w 10 7) (fieldAt w 3 7))
  | 12 => .ok (.qdxX8 (fieldAt w 17 7) (fieldAt w 10 7) (fieldAt w 3 7) (fieldAt w 0 3))
  | 13 => .ok (.qdxX4 (fieldAt w 17 7) (fieldAt w 10 7) (fieldAt w 3 7) (fieldAt w 0 3))
  | 14 => guardFixed (bitsAt w 0 3 == 0) (.dqxX8 (fieldAt w 17 7) (fieldAt w 10 7) (fieldAt w 3 7))
  | 15 => guardFixed (bitsAt w 0 3 == 0) (.dqxX4 (fieldAt w 17 7) (fieldAt w 10 7) (fieldAt w 3 7))
  | _ => .error .reservedOp

/-- Row 0x5_ of the opcode map (R74). -/
def decodeRow5 (lo : Nat) (w : IWord) : Except Reject Instr :=
  match lo with
  | 0 => guardFixed (bitsAt w 3 7 == 0 && bitsAt w 0 1 == 0) (.frcpF (fieldAt w 17 7) (fieldAt w 10 7) (fieldAt w 2 1) (fieldAt w 1 1))
  | 1 => guardFixed (bitsAt w 3 7 == 0 && bitsAt w 0 1 == 0) (.frsqF (fieldAt w 17 7) (fieldAt w 10 7) (fieldAt w 2 1) (fieldAt w 1 1))
  | 2 => guardFixed (bitsAt w 3 7 == 0 && bitsAt w 0 1 == 0) (.fex2F (fieldAt w 17 7) (fieldAt w 10 7) (fieldAt w 2 1) (fieldAt w 1 1))
  | 3 => guardFixed (bitsAt w 3 7 == 0 && bitsAt w 0 1 == 0) (.flg2F (fieldAt w 17 7) (fieldAt w 10 7) (fieldAt w 2 1) (fieldAt w 1 1))
  | 4 => guardFixed (bitsAt w 3 7 == 0 && bitsAt w 0 1 == 0) (.fsinF (fieldAt w 17 7) (fieldAt w 10 7) (fieldAt w 2 1) (fieldAt w 1 1))
  | 5 => guardFixed (bitsAt w 3 7 == 0 && bitsAt w 0 1 == 0) (.fcosF (fieldAt w 17 7) (fieldAt w 10 7) (fieldAt w 2 1) (fieldAt w 1 1))
  | 6 => guardFixed (bitsAt w 3 7 == 0 && bitsAt w 0 1 == 0) (.drca (fieldAt w 17 7) (fieldAt w 10 7) (fieldAt w 2 1) (fieldAt w 1 1))
  | 7 => guardFixed (bitsAt w 3 7 == 0 && bitsAt w 0 1 == 0) (.drsa (fieldAt w 17 7) (fieldAt w 10 7) (fieldAt w 2 1) (fieldAt w 1 1))
  | 8 => guardFixed (bitsAt w 2 8 == 0 && bitsAt w 0 1 == 0) (.rbox (fieldAt w 17 7) (fieldAt w 10 7) (fieldAt w 1 1))
  | 9 => guardFixed (bitsAt w 2 8 == 0 && bitsAt w 0 1 == 0) (.rtri (fieldAt w 17 7) (fieldAt w 10 7) (fieldAt w 1 1))
  | 10 => .ok (.sel (fieldAt w 17 7) (fieldAt w 10 7) (fieldAt w 3 7) (fieldAt w 0 3))
  | 11 => guardFixed (bitsAt w 3 7 == 0 && bitsAt w 0 1 == 0) (.mov (fieldAt w 17 7) (fieldAt w 10 7) (fieldAt w 2 1) (fieldAt w 1 1))
  | 12 => guardFixed (bitsAt w 0 17 == 0) (.ccget (fieldAt w 17 7))
  | 13 => guardFixed (bitsAt w 17 7 == 121 && bitsAt w 2 8 == 0 && bitsAt w 0 1 == 0) (.ccset (fieldAt w 10 7) (fieldAt w 1 1))
  | _ => .error .reservedOp

/-- Row 0x6_ of the opcode map (R74). -/
def decodeRow6 (lo : Nat) (w : IWord) : Except Reject Instr :=
  match lo with
  | 0 => guardFixed (bitsAt w 2 1 == 0) (.shflIdx (fieldAt w 17 7) (fieldAt w 10 7) (fieldAt w 3 7) (fieldAt w 1 1) (fieldAt w 0 1))
  | 1 => guardFixed (bitsAt w 2 1 == 0) (.shflXor (fieldAt w 17 7) (fieldAt w 10 7) (fieldAt w 3 7) (fieldAt w 1 1) (fieldAt w 0 1))
  | 2 => guardFixed (bitsAt w 2 1 == 0) (.shflUp (fieldAt w 17 7) (fieldAt w 10 7) (fieldAt w 3 7) (fieldAt w 1 1) (fieldAt w 0 1))
  | 3 => guardFixed (bitsAt w 2 1 == 0) (.shflDn (fieldAt w 17 7) (fieldAt w 10 7) (fieldAt w 3 7) (fieldAt w 1 1) (fieldAt w 0 1))
  | 4 => guardFixed (bitsAt w 2 1 == 0) (.bcst (fieldAt w 17 7) (fieldAt w 10 7) (fieldAt w 3 7) (fieldAt w 1 1) (fieldAt w 0 1))
  | 5 => guardFixed (bitsAt w 2 8 == 0 && bitsAt w 0 1 == 0) (.vote (fieldAt w 17 7) (fieldAt w 10 7) (fieldAt w 1 1))
  | 6 => guardFixed (bitsAt w 2 8 == 0 && bitsAt w 0 1 == 0) (.mtch (fieldAt w 17 7) (fieldAt w 10 7) (fieldAt w 1 1))
  | 7 => guardFixed (bitsAt w 1 2 == 0) (.xrd (fieldAt w 17 7) (fieldAt w 10 7) (fieldAt w 3 7) (fieldAt w 0 1))
  | 8 => guardFixed (bitsAt w 10 7 == 121 && bitsAt w 1 2 == 0) (.redAdd (fieldAt w 17 7) (fieldAt w 3 7) (fieldAt w 0 1))
  | 9 => guardFixed (bitsAt w 10 7 == 121 && bitsAt w 1 2 == 0) (.redMin (fieldAt w 17 7) (fieldAt w 3 7) (fieldAt w 0 1))
  | 10 => guardFixed (bitsAt w 10 7 == 121 && bitsAt w 1 2 == 0) (.redMax (fieldAt w 17 7) (fieldAt w 3 7) (fieldAt w 0 1))
  | 11 => guardFixed (bitsAt w 10 7 == 121 && bitsAt w 1 2 == 0) (.redFaddD (fieldAt w 17 7) (fieldAt w 3 7) (fieldAt w 0 1))
  | 12 => guardFixed (bitsAt w 10 7 == 121 && bitsAt w 1 2 == 0) (.redFaddF (fieldAt w 17 7) (fieldAt w 3 7) (fieldAt w 0 1))
  | 13 => guardFixed (bitsAt w 10 7 == 121 && bitsAt w 1 2 == 0) (.scanAdd (fieldAt w 17 7) (fieldAt w 3 7) (fieldAt w 0 1))
  | 14 => guardFixed (bitsAt w 10 7 == 121 && bitsAt w 1 2 == 0) (.scanFaddD (fieldAt w 17 7) (fieldAt w 3 7) (fieldAt w 0 1))
  | _ => .error .reservedOp

/-- Row 0x7_ of the opcode map (R74). -/
def decodeRow7 (lo : Nat) (w : IWord) : Except Reject Instr :=
  match lo with
  | 0 => guardFixed (bitsAt w 2 1 == 0) (.ldx64 (fieldAt w 17 7) (fieldAt w 10 7) (fieldAt w 3 7) (fieldAt w 1 1) (fieldAt w 0 1))
  | 1 => guardFixed (bitsAt w 2 1 == 0) (.ldxS32 (fieldAt w 17 7) (fieldAt w 10 7) (fieldAt w 3 7) (fieldAt w 1 1) (fieldAt w 0 1))
  | 2 => guardFixed (bitsAt w 2 1 == 0) (.stx64 (fieldAt w 17 7) (fieldAt w 10 7) (fieldAt w 3 7) (fieldAt w 1 1) (fieldAt w 0 1))
  | 3 => guardFixed (bitsAt w 2 1 == 0) (.stx32 (fieldAt w 17 7) (fieldAt w 10 7) (fieldAt w 3 7) (fieldAt w 1 1) (fieldAt w 0 1))
  | 4 => .ok (.ldv (fieldAt w 17 7) (fieldAt w 10 7) (fieldAt w 3 7) (fieldAt w 0 3))
  | 5 => guardFixed (bitsAt w 3 7 == 0) (.lda (fieldAt w 17 7) (fieldAt w 10 7) (fieldAt w 0 3))
  | 6 => guardFixed (bitsAt w 3 7 == 0) (.str (fieldAt w 17 7) (fieldAt w 10 7) (fieldAt w 0 3))
  | 7 => guardFixed (bitsAt w 2 8 == 0 && bitsAt w 0 1 == 0) (.ptog (fieldAt w 17 7) (fieldAt w 10 7) (fieldAt w 1 1))
  | 8 => guardFixed (bitsAt w 17 7 == 0 && bitsAt w 3 7 == 0) (.pref (fieldAt w 10 7) (fieldAt w 0 3))
  | 9 => guardFixed (bitsAt w 3 21 == 0) (.flsh (fieldAt w 0 3))
  | 10 => guardFixed (bitsAt w 3 21 == 0) (.invl (fieldAt w 0 3))
  | 11 => guardFixed (bitsAt w 2 8 == 0 && bitsAt w 0 1 == 0) (.ldq (fieldAt w 17 7) (fieldAt w 10 7) (fieldAt w 1 1))
  | 12 => guardFixed (bitsAt w 2 8 == 0 && bitsAt w 0 1 == 0) (.stq (fieldAt w 17 7) (fieldAt w 10 7) (fieldAt w 1 1))
  | _ => .error .reservedOp

/-- Row 0x8_ of the opcode map (R74). -/
def decodeRow8 (lo : Nat) (w : IWord) : Except Reject Instr :=
  match lo with
  | 0 => .ok (.ldS8 (fieldAt w 17 7) (fieldAt w 10 7) (fieldAt w 0 10))
  | 1 => .ok (.ldZ8 (fieldAt w 17 7) (fieldAt w 10 7) (fieldAt w 0 10))
  | 2 => .ok (.ldS16 (fieldAt w 17 7) (fieldAt w 10 7) (fieldAt w 0 10))
  | 3 => .ok (.ldZ16 (fieldAt w 17 7) (fieldAt w 10 7) (fieldAt w 0 10))
  | 4 => .ok (.ldS32 (fieldAt w 17 7) (fieldAt w 10 7) (fieldAt w 0 10))
  | 5 => .ok (.ldZ32 (fieldAt w 17 7) (fieldAt w 10 7) (fieldAt w 0 10))
  | 6 => .ok (.ld64 (fieldAt w 17 7) (fieldAt w 10 7) (fieldAt w 0 10))
  | 7 => .ok (.st8 (fieldAt w 17 7) (fieldAt w 10 7) (fieldAt w 0 10))
  | 8 => .ok (.st16 (fieldAt w 17 7) (fieldAt w 10 7) (fieldAt w 0 10))
  | 9 => .ok (.st32 (fieldAt w 17 7) (fieldAt w 10 7) (fieldAt w 0 10))
  | 10 => .ok (.st64 (fieldAt w 17 7) (fieldAt w 10 7) (fieldAt w 0 10))
  | 11 => .ok (.addi (fieldAt w 17 7) (fieldAt w 10 7) (fieldAt w 0 10))
  | 12 => .ok (.andi (fieldAt w 17 7) (fieldAt w 10 7) (fieldAt w 0 10))
  | 13 => .ok (.ori (fieldAt w 17 7) (fieldAt w 10 7) (fieldAt w 0 10))
  | 14 => .ok (.xori (fieldAt w 17 7) (fieldAt w 10 7) (fieldAt w 0 10))
  | 15 => guardFixed (bitsAt w 17 7 == 121) (.cmpi (fieldAt w 10 7) (fieldAt w 0 10))
  | _ => .error .reservedOp

/-- Row 0x9_ of the opcode map (R74). -/
def decodeRow9 (lo : Nat) (w : IWord) : Except Reject Instr :=
  match lo with
  | 0 => guardFixed (bitsAt w 6 4 == 0) (.shli (fieldAt w 17 7) (fieldAt w 10 7) (fieldAt w 0 6))
  | 1 => guardFixed (bitsAt w 6 4 == 0) (.shri (fieldAt w 17 7) (fieldAt w 10 7) (fieldAt w 0 6))
  | 2 => guardFixed (bitsAt w 6 4 == 0) (.sari (fieldAt w 17 7) (fieldAt w 10 7) (fieldAt w 0 6))
  | 3 => .ok (.muli (fieldAt w 17 7) (fieldAt w 10 7) (fieldAt w 0 10))
  | 8 => .ok (.movi (fieldAt w 17 7) (fieldAt w 0 17))
  | 9 => .ok (.movh (fieldAt w 17 7) (fieldAt w 0 17))
  | 10 => .ok (.adpc (fieldAt w 17 7) (fieldAt w 0 17))
  | _ => .error .reservedOp

/-- Row 0xA_ of the opcode map (R74). -/
def decodeRowA (lo : Nat) (w : IWord) : Except Reject Instr :=
  match lo with
  | 0 => .ok (.aadd (fieldAt w 17 7) (fieldAt w 10 7) (fieldAt w 3 7) (fieldAt w 0 3))
  | 1 => .ok (.aaddW (fieldAt w 17 7) (fieldAt w 10 7) (fieldAt w 3 7) (fieldAt w 0 3))
  | 2 => .ok (.aminS (fieldAt w 17 7) (fieldAt w 10 7) (fieldAt w 3 7) (fieldAt w 0 3))
  | 3 => .ok (.amaxS (fieldAt w 17 7) (fieldAt w 10 7) (fieldAt w 3 7) (fieldAt w 0 3))
  | 4 => .ok (.aminZ (fieldAt w 17 7) (fieldAt w 10 7) (fieldAt w 3 7) (fieldAt w 0 3))
  | 5 => .ok (.amaxZ (fieldAt w 17 7) (fieldAt w 10 7) (fieldAt w 3 7) (fieldAt w 0 3))
  | 6 => .ok (.aand (fieldAt w 17 7) (fieldAt w 10 7) (fieldAt w 3 7) (fieldAt w 0 3))
  | 7 => .ok (.aor (fieldAt w 17 7) (fieldAt w 10 7) (fieldAt w 3 7) (fieldAt w 0 3))
  | 8 => .ok (.axor (fieldAt w 17 7) (fieldAt w 10 7) (fieldAt w 3 7) (fieldAt w 0 3))
  | 9 => .ok (.axch (fieldAt w 17 7) (fieldAt w 10 7) (fieldAt w 3 7) (fieldAt w 0 3))
  | 10 => .ok (.acas (fieldAt w 17 7) (fieldAt w 10 7) (fieldAt w 3 7) (fieldAt w 0 3))
  | 11 => .ok (.acasW (fieldAt w 17 7) (fieldAt w 10 7) (fieldAt w 3 7) (fieldAt w 0 3))
  | 12 => .ok (.afaddF (fieldAt w 17 7) (fieldAt w 10 7) (fieldAt w 3 7) (fieldAt w 0 3))
  | 13 => .ok (.afaddD (fieldAt w 17 7) (fieldAt w 10 7) (fieldAt w 3 7) (fieldAt w 0 3))
  | 14 => .ok (.ainc (fieldAt w 17 7) (fieldAt w 10 7) (fieldAt w 3 7) (fieldAt w 0 3))
  | 15 => .ok (.adec (fieldAt w 17 7) (fieldAt w 10 7) (fieldAt w 3 7) (fieldAt w 0 3))
  | _ => .error .reservedOp

/-- Row 0xB_ of the opcode map (R74). -/
def decodeRowB (lo : Nat) (w : IWord) : Except Reject Instr :=
  match lo with
  | 0 => .ok (.aaddAr (fieldAt w 17 7) (fieldAt w 10 7) (fieldAt w 3 7) (fieldAt w 0 3))
  | 1 => .ok (.aaddWAr (fieldAt w 17 7) (fieldAt w 10 7) (fieldAt w 3 7) (fieldAt w 0 3))
  | 2 => .ok (.aminSAr (fieldAt w 17 7) (fieldAt w 10 7) (fieldAt w 3 7) (fieldAt w 0 3))
  | 3 => .ok (.amaxSAr (fieldAt w 17 7) (fieldAt w 10 7) (fieldAt w 3 7) (fieldAt w 0 3))
  | 4 => .ok (.aminZAr (fieldAt w 17 7) (fieldAt w 10 7) (fieldAt w 3 7) (fieldAt w 0 3))
  | 5 => .ok (.amaxZAr (fieldAt w 17 7) (fieldAt w 10 7) (fieldAt w 3 7) (fieldAt w 0 3))
  | 6 => .ok (.aandAr (fieldAt w 17 7) (fieldAt w 10 7) (fieldAt w 3 7) (fieldAt w 0 3))
  | 7 => .ok (.aorAr (fieldAt w 17 7) (fieldAt w 10 7) (fieldAt w 3 7) (fieldAt w 0 3))
  | 8 => .ok (.axorAr (fieldAt w 17 7) (fieldAt w 10 7) (fieldAt w 3 7) (fieldAt w 0 3))
  | 9 => .ok (.axchAr (fieldAt w 17 7) (fieldAt w 10 7) (fieldAt w 3 7) (fieldAt w 0 3))
  | 10 => .ok (.acasAr (fieldAt w 17 7) (fieldAt w 10 7) (fieldAt w 3 7) (fieldAt w 0 3))
  | 11 => .ok (.acasWAr (fieldAt w 17 7) (fieldAt w 10 7) (fieldAt w 3 7) (fieldAt w 0 3))
  | 12 => .ok (.afaddFAr (fieldAt w 17 7) (fieldAt w 10 7) (fieldAt w 3 7) (fieldAt w 0 3))
  | 13 => .ok (.afaddDAr (fieldAt w 17 7) (fieldAt w 10 7) (fieldAt w 3 7) (fieldAt w 0 3))
  | 14 => .ok (.aincAr (fieldAt w 17 7) (fieldAt w 10 7) (fieldAt w 3 7) (fieldAt w 0 3))
  | 15 => .ok (.adecAr (fieldAt w 17 7) (fieldAt w 10 7) (fieldAt w 3 7) (fieldAt w 0 3))
  | _ => .error .reservedOp

/-- Row 0xC_ of the opcode map (R74). -/
def decodeRowC (lo : Nat) (w : IWord) : Except Reject Instr :=
  match lo with
  | 0 => .ok (.br (fieldAt w 20 4) (fieldAt w 0 20))
  | 1 => .ok (.brg (fieldAt w 20 4) (fieldAt w 0 20))
  | 2 => guardFixed (bitsAt w 20 4 == 15) (.call (fieldAt w 0 20))
  | 3 => guardFixed (bitsAt w 0 24 == 0) (.ret)
  | 4 => guardFixed (bitsAt w 17 7 == 0 && bitsAt w 0 10 == 0) (.jmp (fieldAt w 10 7))
  | 5 => guardFixed (bitsAt w 0 10 == 0) (.jmpl (fieldAt w 17 7) (fieldAt w 10 7))
  | 6 => guardFixed (bitsAt w 0 3 == 0) (.spawn (fieldAt w 17 7) (fieldAt w 10 7) (fieldAt w 3 7))
  | 7 => guardFixed (bitsAt w 0 24 == 0) (.exit)
  | 8 => guardFixed (bitsAt w 0 24 == 0) (.yield)
  | 9 => guardFixed (bitsAt w 0 10 == 0) (.resm (fieldAt w 17 7) (fieldAt w 10 7))
  | 10 => guardFixed (bitsAt w 10 14 == 0 && bitsAt w 0 3 == 0) (.winb (fieldAt w 3 7))
  | 11 => guardFixed (bitsAt w 0 24 == 0) (.nop)
  | 12 => guardFixed (bitsAt w 10 14 == 0 && bitsAt w 0 3 == 0) (.trap (fieldAt w 3 7))
  | 13 => guardFixed (bitsAt w 0 24 == 0) (.eret)
  | 14 => guardFixed (bitsAt w 10 14 == 0 && bitsAt w 0 3 == 0) (.bkpt (fieldAt w 3 7))
  | 15 => guardFixed (bitsAt w 10 14 == 0 && bitsAt w 0 3 == 0) (.svc (fieldAt w 3 7))
  | _ => .error .reservedOp

/-- Row 0xD_ of the opcode map (R74). -/
def decodeRowD (lo : Nat) (w : IWord) : Except Reject Instr :=
  match lo with
  | 0 => guardFixed (bitsAt w 0 17 == 0) (.join (fieldAt w 17 7))
  | 1 => guardFixed (bitsAt w 0 17 == 0) (.leave (fieldAt w 17 7))
  | 2 => guardFixed (bitsAt w 0 17 == 0) (.waitk (fieldAt w 17 7))
  | 3 => guardFixed (bitsAt w 0 10 == 0) (.kget (fieldAt w 17 7) (fieldAt w 10 7))
  | 4 => guardFixed (bitsAt w 0 10 == 0) (.kset (fieldAt w 17 7) (fieldAt w 10 7))
  | 5 => .ok (.klog (fieldAt w 17 7) (fieldAt w 10 7) (fieldAt w 3 7) (fieldAt w 0 3))
  | 6 => guardFixed (bitsAt w 0 24 == 0) (.bart)
  | 7 => guardFixed (bitsAt w 0 24 == 0) (.barg)
  | 8 => .ok (.waita (fieldAt w 17 7) (fieldAt w 10 7) (fieldAt w 3 7) (fieldAt w 0 3))
  | 9 => guardFixed (bitsAt w 17 7 == 0 && bitsAt w 3 7 == 0) (.fence (fieldAt w 10 7) (fieldAt w 0 3))
  | 10 => guardFixed (bitsAt w 10 7 == 0 && bitsAt w 0 3 == 0) (.csrr (fieldAt w 17 7) (fieldAt w 3 7))
  | 11 => guardFixed (bitsAt w 17 7 == 0 && bitsAt w 0 3 == 0) (.csrw (fieldAt w 10 7) (fieldAt w 3 7))
  | _ => .error .reservedOp

/-- Row 0xE_ of the opcode map (R74). -/
def decodeRowE (lo : Nat) (w : IWord) : Except Reject Instr :=
  match lo with
  | 0 => .ok (.mma (fieldAt w 17 7) (fieldAt w 10 7) (fieldAt w 3 7) (fieldAt w 0 3))
  | 1 => .ok (.mdrn (fieldAt w 17 7) (fieldAt w 10 7) (fieldAt w 3 7) (fieldAt w 0 3))
  | 2 => guardFixed (bitsAt w 0 17 == 0) (.mzro (fieldAt w 17 7))
  | 3 => guardFixed (bitsAt w 0 10 == 0) (.mfil (fieldAt w 17 7) (fieldAt w 10 7))
  | 4 => guardFixed (bitsAt w 17 7 == 0 && bitsAt w 0 10 == 0) (.msav (fieldAt w 10 7))
  | 5 => guardFixed (bitsAt w 17 7 == 0 && bitsAt w 0 10 == 0) (.mrst (fieldAt w 10 7))
  | 6 => guardFixed (bitsAt w 17 7 == 0 && bitsAt w 0 10 == 0) (.bcpy (fieldAt w 10 7))
  | 7 => guardFixed (bitsAt w 17 7 == 0 && bitsAt w 0 10 == 0) (.wtal (fieldAt w 10 7))
  | 8 => guardFixed (bitsAt w 0 10 == 0) (.wtan (fieldAt w 17 7) (fieldAt w 10 7))
  | 9 => guardFixed (bitsAt w 0 10 == 0) (.ffrt (fieldAt w 17 7) (fieldAt w 10 7))
  | 10 => guardFixed (bitsAt w 17 7 == 0 && bitsAt w 0 10 == 0) (.tgcl (fieldAt w 10 7))
  | 11 => guardFixed (bitsAt w 17 7 == 0 && bitsAt w 0 10 == 0) (.coll (fieldAt w 10 7))
  | 12 => guardFixed (bitsAt w 17 7 == 0 && bitsAt w 0 10 == 0) (.cdec (fieldAt w 10 7))
  | _ => .error .reservedOp

/-- Row 0xF_ of the opcode map (R74). -/
def decodeRowF (lo : Nat) (w : IWord) : Except Reject Instr :=
  match lo with
  | 0 => guardFixed (bitsAt w 3 7 == 0) (.lock (fieldAt w 17 7) (fieldAt w 10 7) (fieldAt w 0 3))
  | 1 => guardFixed (bitsAt w 3 7 == 0) (.lckt (fieldAt w 17 7) (fieldAt w 10 7) (fieldAt w 0 3))
  | 2 => guardFixed (bitsAt w 3 7 == 0) (.ulck (fieldAt w 17 7) (fieldAt w 10 7) (fieldAt w 0 3))
  | 3 => guardFixed (bitsAt w 3 7 == 0) (.lupg (fieldAt w 17 7) (fieldAt w 10 7) (fieldAt w 0 3))
  | 4 => guardFixed (bitsAt w 0 10 == 0) (.tskb (fieldAt w 17 7) (fieldAt w 10 7))
  | 5 => guardFixed (bitsAt w 0 24 == 0) (.tske)
  | 6 => guardFixed (bitsAt w 0 24 == 0) (.tska)
  | 7 => guardFixed (bitsAt w 0 10 == 0) (.publ (fieldAt w 17 7) (fieldAt w 10 7))
  | 8 => guardFixed (bitsAt w 0 3 == 0) (.retv (fieldAt w 17 7) (fieldAt w 10 7) (fieldAt w 3 7))
  | 9 => guardFixed (bitsAt w 0 10 == 0) (.vqry (fieldAt w 17 7) (fieldAt w 10 7))
  | 15 => guardFixed (bitsAt w 0 13 == 0) (.rep (fieldAt w 18 6) (fieldAt w 17 1) (fieldAt w 16 1) (fieldAt w 15 1) (fieldAt w 13 2))
  | _ => .error .reservedOp

/-- The instruction that a word encodes, or why it encodes none (R74). -/
def decode (w : IWord) : Except Reject Instr :=
  let lo := bitsAt w 24 4
  match bitsAt w 28 4 with
  | 0 => decodeRow0 lo w
  | 1 => decodeRow1 lo w
  | 2 => decodeRow2 lo w
  | 3 => decodeRow3 lo w
  | 4 => decodeRow4 lo w
  | 5 => decodeRow5 lo w
  | 6 => decodeRow6 lo w
  | 7 => decodeRow7 lo w
  | 8 => decodeRow8 lo w
  | 9 => decodeRow9 lo w
  | 10 => decodeRowA lo w
  | 11 => decodeRowB lo w
  | 12 => decodeRowC lo w
  | 13 => decodeRowD lo w
  | 14 => decodeRowE lo w
  | 15 => decodeRowF lo w
  | _ => .error .reservedOp

/-- The word that four bytes make, the first at the lowest address (R4, R69). -/
def wordOfBytes (b0 b1 b2 b3 : Byte) : IWord :=
  BitVec.ofNat 32 (b0.toNat + b1.toNat * 2 ^ 8 + b2.toNat * 2 ^ 16 + b3.toNat * 2 ^ 24)

/-- The four bytes of a word as they lie in memory (R4, R69). -/
def bytesOfWord (w : IWord) : List Byte :=
  [fieldAt w 0 8, fieldAt w 8 8, fieldAt w 16 8, fieldAt w 24 8]

/-- Decoding of bytes, total on any list: the instruction at the front and the bytes after it (R69). -/
def decodeBytes (bs : List Byte) : Except Reject (Instr × List Byte) :=
  match bs with
  | b0 :: b1 :: b2 :: b3 :: rest => (decode (wordOfBytes b0 b1 b2 b3)).map fun i => (i, rest)
  | _ => .error .shortWord

/-- What the decoder reads from an instruction whose bits are `w`, numbered as spec/opcode_table.json numbers them: laid
out as the hardware stores them, and given to the decoder. Every Marby instruction is one word of 32 bits (R69). -/
def decodeTableWord (nbits w : Nat) : Option Instr :=
  match decodeBytes (bytesOfWord (BitVec.ofNat 32 (w % 2 ^ nbits))) with
  | .ok (i, _) => some i
  | .error _ => none

/-- A word with a destination or first field `d` at bit 17, `a` at bit 10, `b` at bit 3 and `low` in bits 2 to 0 (R71),
over the fixed bits `m`. -/
def wordT (m : Nat) (d a b : BitVec 7) (low : Nat) : Option IWord :=
  some (BitVec.ofNat 32 (m + d.toNat * 2 ^ 17 + a.toNat * 2 ^ 10 + b.toNat * 2 ^ 3 + low))

/-- Three single bits at bits 2, 1 and 0 (R71). -/
def low3 (w f g : BitVec 1) : Nat := w.toNat * 4 + f.toNat * 2 + g.toNat

/-- A word with `d` at bit 17, `a` at bit 10 and ten bits below them (R71). -/
def wordI10 (m : Nat) (d a : BitVec 7) (i : BitVec 10) : Option IWord :=
  some (BitVec.ofNat 32 (m + d.toNat * 2 ^ 17 + a.toNat * 2 ^ 10 + i.toNat))

/-- A word with `d` at bit 17 and seventeen bits below it (R71). -/
def wordI17 (m : Nat) (d : BitVec 7) (i : BitVec 17) : Option IWord :=
  some (BitVec.ofNat 32 (m + d.toNat * 2 ^ 17 + i.toNat))

/-- A word with four bits at bit 20 and twenty bits below them (R71). -/
def wordB20 (m : Nat) (c : BitVec 4) (p : BitVec 20) : Option IWord :=
  some (BitVec.ofNat 32 (m + c.toNat * 2 ^ 20 + p.toNat))

/-- The word of an instruction, from the table's match value and the fields at their places; `none` for an event, which
no word encodes. -/
def encode (i : Instr) : Option IWord :=
  match i with
  | .add d a b w f g => wordT 0x01000000 d a b (low3 w f g)
  | .sub d a b w f g => wordT 0x02000000 d a b (low3 w f g)
  | .mul d a b w f g => wordT 0x03000000 d a b (low3 w f g)
  | .mulhS d a b w f g => wordT 0x04000000 d a b (low3 w f g)
  | .mulhZ d a b w f g => wordT 0x05000000 d a b (low3 w f g)
  | .and d a b w f g => wordT 0x06000000 d a b (low3 w f g)
  | .or d a b w f g => wordT 0x07000000 d a b (low3 w f g)
  | .xor d a b w f g => wordT 0x08000000 d a b (low3 w f g)
  | .shl d a b w f g => wordT 0x09000000 d a b (low3 w f g)
  | .shr d a b w f g => wordT 0x0A000000 d a b (low3 w f g)
  | .sar d a b w f g => wordT 0x0B000000 d a b (low3 w f g)
  | .minS d a b w f g => wordT 0x0C000000 d a b (low3 w f g)
  | .maxS d a b w f g => wordT 0x0D000000 d a b (low3 w f g)
  | .minZ d a b w f g => wordT 0x0E000000 d a b (low3 w f g)
  | .maxZ d a b w f g => wordT 0x0F000000 d a b (low3 w f g)
  | .adc d a b w f g => wordT 0x10000000 d a b (low3 w f g)
  | .sbc d a b w f g => wordT 0x11000000 d a b (low3 w f g)
  | .cmpS a b f g => wordT 0x12F20000 0 a b (low3 0 f g)
  | .cmpZ a b f g => wordT 0x13F20000 0 a b (low3 0 f g)
  | .divS d a b w f g => wordT 0x14000000 d a b (low3 w f g)
  | .divZ d a b w f g => wordT 0x15000000 d a b (low3 w f g)
  | .remS d a b w f g => wordT 0x16000000 d a b (low3 w f g)
  | .remZ d a b w f g => wordT 0x17000000 d a b (low3 w f g)
  | .addW d a b w f g => wordT 0x18000000 d a b (low3 w f g)
  | .subW d a b w f g => wordT 0x19000000 d a b (low3 w f g)
  | .mulW d a b w f g => wordT 0x1A000000 d a b (low3 w f g)
  | .popc d a w f => wordT 0x1B000000 d a 0 (low3 w f 0)
  | .clz d a w f => wordT 0x1C000000 d a 0 (low3 w f 0)
  | .brev d a w f => wordT 0x1D000000 d a 0 (low3 w f 0)
  | .bfx d a b w f g => wordT 0x1E000000 d a b (low3 w f g)
  | .bfi d a b w f g => wordT 0x1F000000 d a b (low3 w f g)
  | .faddD d a b w f g => wordT 0x20000000 d a b (low3 w f g)
  | .fsubD d a b w f g => wordT 0x21000000 d a b (low3 w f g)
  | .fmulD d a b w f g => wordT 0x22000000 d a b (low3 w f g)
  | .ffmaD d a b w f g => wordT 0x23000000 d a b (low3 w f g)
  | .ffmsD d a b w f g => wordT 0x24000000 d a b (low3 w f g)
  | .ffnmD d a b w f g => wordT 0x25000000 d a b (low3 w f g)
  | .fminD d a b w f g => wordT 0x26000000 d a b (low3 w f g)
  | .fmaxD d a b w f g => wordT 0x27000000 d a b (low3 w f g)
  | .fdivD d a b w f g => wordT 0x28000000 d a b (low3 w f g)
  | .fsqrtD d a w f => wordT 0x29000000 d a 0 (low3 w f 0)
  | .fcmpD a b f g => wordT 0x2AF20000 0 a b (low3 0 f g)
  | .fabsD d a w f => wordT 0x2B000000 d a 0 (low3 w f 0)
  | .fnegD d a w f => wordT 0x2C000000 d a 0 (low3 w f 0)
  | .fcpysD d a b w f g => wordT 0x2D000000 d a b (low3 w f g)
  | .frndD d a m w f => wordT 0x2E000000 d a m (low3 w f 0)
  | .fclsD d a w f => wordT 0x2F000000 d a 0 (low3 w f 0)
  | .faddF d a b w f g => wordT 0x30000000 d a b (low3 w f g)
  | .fsubF d a b w f g => wordT 0x31000000 d a b (low3 w f g)
  | .fmulF d a b w f g => wordT 0x32000000 d a b (low3 w f g)
  | .ffmaF d a b w f g => wordT 0x33000000 d a b (low3 w f g)
  | .ffmsF d a b w f g => wordT 0x34000000 d a b (low3 w f g)
  | .ffnmF d a b w f g => wordT 0x35000000 d a b (low3 w f g)
  | .fminF d a b w f g => wordT 0x36000000 d a b (low3 w f g)
  | .fmaxF d a b w f g => wordT 0x37000000 d a b (low3 w f g)
  | .fdivF d a b w f g => wordT 0x38000000 d a b (low3 w f g)
  | .fsqrtF d a w f => wordT 0x39000000 d a 0 (low3 w f 0)
  | .fcmpF a b f g => wordT 0x3AF20000 0 a b (low3 0 f g)
  | .fabsF d a w f => wordT 0x3B000000 d a 0 (low3 w f 0)
  | .fnegF d a w f => wordT 0x3C000000 d a 0 (low3 w f 0)
  | .fcpysF d a b w f g => wordT 0x3D000000 d a b (low3 w f g)
  | .frndF d a m w f => wordT 0x3E000000 d a m (low3 w f 0)
  | .fclsF d a w f => wordT 0x3F000000 d a 0 (low3 w f 0)
  | .cvtDF d a m => wordT 0x40000000 d a m 0
  | .cvtFD d a m => wordT 0x41000000 d a m 0
  | .cvtDS64 d a m => wordT 0x42000000 d a m 0
  | .cvtS64D d a m => wordT 0x43000000 d a m 0
  | .cvtDZ64 d a m => wordT 0x44000000 d a m 0
  | .cvtZ64D d a m => wordT 0x45000000 d a m 0
  | .cvtFS32 d a m => wordT 0x46000000 d a m 0
  | .cvtS32F d a m => wordT 0x47000000 d a m 0
  | .cvtBF d a m => wordT 0x48000000 d a m 0
  | .cvtFB d a m => wordT 0x49000000 d a m 0
  | .cvtHF d a m => wordT 0x4A000000 d a m 0
  | .cvtFH d a m => wordT 0x4B000000 d a m 0
  | .qdxX8 d a g c => wordT 0x4C000000 d a g c.toNat
  | .qdxX4 d a g c => wordT 0x4D000000 d a g c.toNat
  | .dqxX8 d a b => wordT 0x4E000000 d a b 0
  | .dqxX4 d a b => wordT 0x4F000000 d a b 0
  | .frcpF d a w f => wordT 0x50000000 d a 0 (low3 w f 0)
  | .frsqF d a w f => wordT 0x51000000 d a 0 (low3 w f 0)
  | .fex2F d a w f => wordT 0x52000000 d a 0 (low3 w f 0)
  | .flg2F d a w f => wordT 0x53000000 d a 0 (low3 w f 0)
  | .fsinF d a w f => wordT 0x54000000 d a 0 (low3 w f 0)
  | .fcosF d a w f => wordT 0x55000000 d a 0 (low3 w f 0)
  | .drca d a w f => wordT 0x56000000 d a 0 (low3 w f 0)
  | .drsa d a w f => wordT 0x57000000 d a 0 (low3 w f 0)
  | .rbox d a f => wordT 0x58000000 d a 0 (low3 0 f 0)
  | .rtri d a f => wordT 0x59000000 d a 0 (low3 0 f 0)
  | .sel d a b c => wordT 0x5A000000 d a b c.toNat
  | .mov d a w f => wordT 0x5B000000 d a 0 (low3 w f 0)
  | .ccget d => wordT 0x5C000000 d 0 0 0
  | .ccset a f => wordT 0x5DF20000 0 a 0 (low3 0 f 0)
  | .shflIdx d a b f g => wordT 0x60000000 d a b (low3 0 f g)
  | .shflXor d a b f g => wordT 0x61000000 d a b (low3 0 f g)
  | .shflUp d a b f g => wordT 0x62000000 d a b (low3 0 f g)
  | .shflDn d a b f g => wordT 0x63000000 d a b (low3 0 f g)
  | .bcst d a b f g => wordT 0x64000000 d a b (low3 0 f g)
  | .vote d a f => wordT 0x65000000 d a 0 (low3 0 f 0)
  | .mtch d a f => wordT 0x66000000 d a 0 (low3 0 f 0)
  | .xrd d a b g => wordT 0x67000000 d a b (low3 0 0 g)
  | .redAdd d b g => wordT 0x6801E400 d 0 b (low3 0 0 g)
  | .redMin d b g => wordT 0x6901E400 d 0 b (low3 0 0 g)
  | .redMax d b g => wordT 0x6A01E400 d 0 b (low3 0 0 g)
  | .redFaddD d b g => wordT 0x6B01E400 d 0 b (low3 0 0 g)
  | .redFaddF d b g => wordT 0x6C01E400 d 0 b (low3 0 0 g)
  | .scanAdd d b g => wordT 0x6D01E400 d 0 b (low3 0 0 g)
  | .scanFaddD d b g => wordT 0x6E01E400 d 0 b (low3 0 0 g)
  | .ldx64 d a b f g => wordT 0x70000000 d a b (low3 0 f g)
  | .ldxS32 d a b f g => wordT 0x71000000 d a b (low3 0 f g)
  | .stx64 d a b f g => wordT 0x72000000 d a b (low3 0 f g)
  | .stx32 d a b f g => wordT 0x73000000 d a b (low3 0 f g)
  | .ldv d a b x => wordT 0x74000000 d a b x.toNat
  | .lda d a x => wordT 0x75000000 d a 0 x.toNat
  | .str d a x => wordT 0x76000000 d a 0 x.toNat
  | .ptog d a f => wordT 0x77000000 d a 0 (low3 0 f 0)
  | .pref a h => wordT 0x78000000 0 a 0 h.toNat
  | .flsh x => wordT 0x79000000 0 0 0 x.toNat
  | .invl x => wordT 0x7A000000 0 0 0 x.toNat
  | .ldq d a f => wordT 0x7B000000 d a 0 (low3 0 f 0)
  | .stq d a f => wordT 0x7C000000 d a 0 (low3 0 f 0)
  | .ldS8 d a i => wordI10 0x80000000 d a i
  | .ldZ8 d a i => wordI10 0x81000000 d a i
  | .ldS16 d a i => wordI10 0x82000000 d a i
  | .ldZ16 d a i => wordI10 0x83000000 d a i
  | .ldS32 d a i => wordI10 0x84000000 d a i
  | .ldZ32 d a i => wordI10 0x85000000 d a i
  | .ld64 d a i => wordI10 0x86000000 d a i
  | .st8 d a i => wordI10 0x87000000 d a i
  | .st16 d a i => wordI10 0x88000000 d a i
  | .st32 d a i => wordI10 0x89000000 d a i
  | .st64 d a i => wordI10 0x8A000000 d a i
  | .addi d a i => wordI10 0x8B000000 d a i
  | .andi d a i => wordI10 0x8C000000 d a i
  | .ori d a i => wordI10 0x8D000000 d a i
  | .xori d a i => wordI10 0x8E000000 d a i
  | .cmpi a i => wordI10 0x8FF20000 0 a i
  | .shli d a i => wordI10 0x90000000 d a (i.setWidth 10)
  | .shri d a i => wordI10 0x91000000 d a (i.setWidth 10)
  | .sari d a i => wordI10 0x92000000 d a (i.setWidth 10)
  | .muli d a i => wordI10 0x93000000 d a i
  | .movi d i => wordI17 0x98000000 d i
  | .movh d i => wordI17 0x99000000 d i
  | .adpc d i => wordI17 0x9A000000 d i
  | .aadd d a b x => wordT 0xA0000000 d a b x.toNat
  | .aaddW d a b x => wordT 0xA1000000 d a b x.toNat
  | .aminS d a b x => wordT 0xA2000000 d a b x.toNat
  | .amaxS d a b x => wordT 0xA3000000 d a b x.toNat
  | .aminZ d a b x => wordT 0xA4000000 d a b x.toNat
  | .amaxZ d a b x => wordT 0xA5000000 d a b x.toNat
  | .aand d a b x => wordT 0xA6000000 d a b x.toNat
  | .aor d a b x => wordT 0xA7000000 d a b x.toNat
  | .axor d a b x => wordT 0xA8000000 d a b x.toNat
  | .axch d a b x => wordT 0xA9000000 d a b x.toNat
  | .acas d a b x => wordT 0xAA000000 d a b x.toNat
  | .acasW d a b x => wordT 0xAB000000 d a b x.toNat
  | .afaddF d a b x => wordT 0xAC000000 d a b x.toNat
  | .afaddD d a b x => wordT 0xAD000000 d a b x.toNat
  | .ainc d a b x => wordT 0xAE000000 d a b x.toNat
  | .adec d a b x => wordT 0xAF000000 d a b x.toNat
  | .aaddAr d a b x => wordT 0xB0000000 d a b x.toNat
  | .aaddWAr d a b x => wordT 0xB1000000 d a b x.toNat
  | .aminSAr d a b x => wordT 0xB2000000 d a b x.toNat
  | .amaxSAr d a b x => wordT 0xB3000000 d a b x.toNat
  | .aminZAr d a b x => wordT 0xB4000000 d a b x.toNat
  | .amaxZAr d a b x => wordT 0xB5000000 d a b x.toNat
  | .aandAr d a b x => wordT 0xB6000000 d a b x.toNat
  | .aorAr d a b x => wordT 0xB7000000 d a b x.toNat
  | .axorAr d a b x => wordT 0xB8000000 d a b x.toNat
  | .axchAr d a b x => wordT 0xB9000000 d a b x.toNat
  | .acasAr d a b x => wordT 0xBA000000 d a b x.toNat
  | .acasWAr d a b x => wordT 0xBB000000 d a b x.toNat
  | .afaddFAr d a b x => wordT 0xBC000000 d a b x.toNat
  | .afaddDAr d a b x => wordT 0xBD000000 d a b x.toNat
  | .aincAr d a b x => wordT 0xBE000000 d a b x.toNat
  | .adecAr d a b x => wordT 0xBF000000 d a b x.toNat
  | .br c p => wordB20 0xC0000000 c p
  | .brg c p => wordB20 0xC1000000 c p
  | .call p => wordB20 0xC2F00000 0 p
  | .ret => wordT 0xC3000000 0 0 0 0
  | .jmp a => wordT 0xC4000000 0 a 0 0
  | .jmpl d a => wordT 0xC5000000 d a 0 0
  | .spawn d a b => wordT 0xC6000000 d a b 0
  | .exit => wordT 0xC7000000 0 0 0 0
  | .yield => wordT 0xC8000000 0 0 0 0
  | .resm d a => wordT 0xC9000000 d a 0 0
  | .winb m => wordT 0xCA000000 0 0 m 0
  | .nop => wordT 0xCB000000 0 0 0 0
  | .trap c => wordT 0xCC000000 0 0 c 0
  | .eret => wordT 0xCD000000 0 0 0 0
  | .bkpt c => wordT 0xCE000000 0 0 c 0
  | .svc c => wordT 0xCF000000 0 0 c 0
  | .join k => wordT 0xD0000000 k 0 0 0
  | .leave k => wordT 0xD1000000 k 0 0 0
  | .waitk k => wordT 0xD2000000 k 0 0 0
  | .kget k a => wordT 0xD3000000 k a 0 0
  | .kset k a => wordT 0xD4000000 k a 0 0
  | .klog k j m op => wordT 0xD5000000 k j m op.toNat
  | .bart => wordT 0xD6000000 0 0 0 0
  | .barg => wordT 0xD7000000 0 0 0 0
  | .waita d a b op => wordT 0xD8000000 d a b op.toNat
  | .fence k x => wordT 0xD9000000 0 k 0 x.toNat
  | .csrr d n => wordT 0xDA000000 d 0 n 0
  | .csrw a n => wordT 0xDB000000 0 a n 0
  | .mma d a b x => wordT 0xE0000000 d a b x.toNat
  | .mdrn d a b c => wordT 0xE1000000 d a b c.toNat
  | .mzro d => wordT 0xE2000000 d 0 0 0
  | .mfil d a => wordT 0xE3000000 d a 0 0
  | .msav a => wordT 0xE4000000 0 a 0 0
  | .mrst a => wordT 0xE5000000 0 a 0 0
  | .bcpy a => wordT 0xE6000000 0 a 0 0
  | .wtal a => wordT 0xE7000000 0 a 0 0
  | .wtan d a => wordT 0xE8000000 d a 0 0
  | .ffrt d a => wordT 0xE9000000 d a 0 0
  | .tgcl a => wordT 0xEA000000 0 a 0 0
  | .coll a => wordT 0xEB000000 0 a 0 0
  | .cdec a => wordT 0xEC000000 0 a 0 0
  | .lock d a m => wordT 0xF0000000 d a 0 m.toNat
  | .lckt d a m => wordT 0xF1000000 d a 0 m.toNat
  | .ulck d a m => wordT 0xF2000000 d a 0 m.toNat
  | .lupg d a m => wordT 0xF3000000 d a 0 m.toNat
  | .tskb d a => wordT 0xF4000000 d a 0 0
  | .tske => wordT 0xF5000000 0 0 0 0
  | .tska => wordT 0xF6000000 0 0 0 0
  | .publ d a => wordT 0xF7000000 d a 0 0
  | .retv d a b => wordT 0xF8000000 d a b 0
  | .vqry d a => wordT 0xF9000000 d a 0 0
  | .rep n p q r x => some (BitVec.ofNat 32 (0xFF000000 + n.toNat * 2 ^ 18 + p.toNat * 2 ^ 17 + q.toNat * 2 ^ 16 + r.toNat * 2 ^ 15 + x.toNat * 2 ^ 13))
  | .recordArrival _ _ => none
  | .arrivalBufferRefill _ => none
  | .overflowRingDrain _ _ => none
  | .departureWaitTimeout _ => none
  | .brgWaitTimeout _ => none
  | .binTimerExpire _ _ => none
  | .binLaunch _ _ => none
  | .groupPark _ => none
  | .groupReform _ => none
  | .groupBoost _ => none
  | .occupancyReport _ => none
  | .replicationWindow _ => none
  | .replicaAdd _ => none
  | .bartArrival _ _ => none
  | .registerFill _ _ _ _ => none
  | .rds _ _ => none
  | .rdx _ _ => none
  | .upg _ _ => none
  | .rdu _ _ _ => none
  | .wrl _ _ _ => none
  | .pute _ _ => none
  | .wb _ _ => none
  | .wbu _ _ => none
  | .ack _ _ => none
  | .fwdack _ _ => none
  | .partialReturn _ _ => none
  | .memoryData _ => none
  | .inv _ _ => none
  | .fwds _ _ => none
  | .fwdx _ _ => none
  | .rcl _ _ => none
  | .collMessage _ _ => none
  | .data _ _ => none
  | .wback _ _ => none
  | .clusterEviction _ _ => none
  | .llcEviction _ => none
  | .spillQueueDrain _ => none
  | .pageWalk _ _ _ => none
  | .translationInvalidation _ _ _ => none
  | .copyOnWriteComplete _ _ => none
  | .vpoolResume _ => none
  | .frameReclaim _ _ _ => none
  | .waitaRelease _ _ => none
  | .woundDelivery _ => none
  | .woundDeadlineExpiry _ => none
  | .lkmatWrite _ => none
  | .mmaRetire _ => none
  | .bceComplete _ _ => none
  | .contextCreate _ _ _ _ _ _ _ => none
  | .queueRegister _ _ _ => none
  | .queueWake _ => none
  | .slotGrant => none
  | .packetTake _ => none
  | .quantumExpiry _ => none
  | .queueUnmap _ => none
  | .teamPlacement _ => none
  | .deadlinePreq _ => none
  | .deadlineForced _ => none
  | .teamEnd _ => none
  | .counterDecrement => none
  | .linkShareWindow _ => none
  | .tvecEntry _ => none
  | .contvEntry _ => none
  | .frameReady _ _ => none
  | .serviceReply _ => none
  | .faultBufferDrain _ => none
  | .uncorrectableError _ _ => none
  | .correctedError _ _ => none
  | .preemptRequest _ => none
  | .forcedSave _ => none
  | .partitionSwap _ => none
  | .partitionRestore _ => none
  | .packetReceive _ _ _ _ _ _ _ => none
  | .retryResend _ _ => none
  | .linkBringUp _ _ => none
  | .keyLoad _ _ _ => none
  | .keyConfirm _ => none
  | .remoteRequest _ _ _ _ _ _ _ _ _ => none
  | .remoteResponse _ _ _ => none
  | .accessTableWrite _ _ _ _ => none
  | .collectiveGroupRegister _ _ _ _ => none
  | .collectivePacket _ _ _ _ _ _ _ _ _ _ => none
  | .collectiveHop _ => none
  | .collComplete _ _ => none
  | .hostMemAccess _ _ _ _ _ => none
  | .hostUnbind _ => none
  | .packageReset _ _ => none
  | .getMeasurements _ _ => none
  | .managementRequest _ _ _ _ => none
  | .powerLimitWrite _ => none
  | .stagingSetting _ _ => none
  | .thermalHold _ _ => none
  | .thermalStop _ _ => none
  | .thermalClear _ => none
  | .snapshotTrigger _ => none
  | .snapshotArm => none
  | .snapshotMissedClear _ => none
  | .reservedEncoding _ => none
  | .fetchFault => none
  | .homeAtomic _ _ _ _ _ _ => none
  | .hostBind _ _ => none
  | .cxlLinkTraining _ => none

end Sys2Proof
end

