-- ==== Sys2Proof/WellFormed.lean ====
section
/-!
DEFINITION. Well-formedness: the encoding check of R79 (step 2), made at decode for the group as a whole: reserved and
forbidden specifiers (R49, R50), codes of small fields (R77, R78), fields that must be zero (R73), fragments and tiles
that would reach beyond v95 (R224, R229, R230), and the forms a group width of 16 does not have (R214, R225). An
instruction that fails it raises ILL and has no effect.
-/
namespace Sys2Proof

/-- A v register (R49). -/
def isV (s : Spec) : Bool := s.toNat ≤ 0x5F

/-- An o register (R49). -/
def isO (s : Spec) : Bool := 0x60 ≤ s.toNat && s.toNat ≤ 0x6F

/-- A specifier that an instruction may read (R49, R50). -/
def srcOk (s : Spec) : Bool := s.toNat < 0x7E

/-- A destination of a short-class instruction: v, o, q, lat or z (R50). -/
def dstShort (s : Spec) : Bool := s.toNat ≤ 0x79

/-- A destination of a long-class or direct-class instruction: v, o, q or z (R50). -/
def dstOther (s : Spec) : Bool := s.toNat ≤ 0x77 || s.toNat == 0x79

/-- A cond field of BR and BRG (R77). -/
def condOk (c : BitVec 4) : Bool := c.toNat != 0xE

/-- A scope code (R78). -/
def scopeOk (x : BitVec 3) : Bool := x.toNat ≤ 4

/-- A rounding code of CVT and FRND (R78). -/
def roundOk (m : BitVec 7) : Bool := m.toNat ≤ 4

/-- A mask number (R78). -/
def maskOk (k : BitVec 7) : Bool := k.toNat ≤ 11

/-- A tile number (R78). -/
def tileOk (t : BitVec 7) : Bool := t.toNat ≤ 15

/-- A lock mode other than NL (R78). -/
def modeOk (m : BitVec 3) : Bool := 1 ≤ m.toNat && m.toNat ≤ 6

/-- The control registers that the tables of R63 and R64 assign (R62). -/
def csrOk (n : BitVec 7) : Bool := n.toNat ≤ 0x0E || (0x40 ≤ n.toNat && n.toNat ≤ 0x4C)

/-- How many registers a fragment of MMA takes, by shape code and group width (R225, R226); 0 where the width has no
such shape. -/
def fragRegs (x : Nat) (W : Nat) : Nat :=
  match x with
  | 0 | 1 => if W == 16 then 2 else 1
  | 2 | 3 => if W == 16 then 4 else if W == 32 then 2 else 1
  | 4 | 5 => if W == 16 then 0 else 3
  | _ => 0

/-- How many registers a tile takes: 256 slots over the lanes of the group (R229). -/
def tileRegs (W : Nat) : Nat := 256 / W

/-- Registers s to s + n − 1 are v registers (R224, R229). -/
def vSpan (s : Spec) (n : Nat) : Bool := s.toNat + n ≤ 0x60

/-- The encoding check of an instruction in a kernel of group width W (R79, step 2). Events are no words and pass. -/
def Instr.wf (W : Nat) (i : Instr) : Bool :=
  match i with
  | .add d a b _ _ _ => dstShort d && srcOk a && srcOk b
  | .sub d a b _ _ _ => dstShort d && srcOk a && srcOk b
  | .mul d a b _ _ _ => dstShort d && srcOk a && srcOk b
  | .mulhS d a b _ _ _ => dstShort d && srcOk a && srcOk b
  | .mulhZ d a b _ _ _ => dstShort d && srcOk a && srcOk b
  | .and d a b _ _ _ => dstShort d && srcOk a && srcOk b
  | .or d a b _ _ _ => dstShort d && srcOk a && srcOk b
  | .xor d a b _ _ _ => dstShort d && srcOk a && srcOk b
  | .shl d a b _ _ _ => dstShort d && srcOk a && srcOk b
  | .shr d a b _ _ _ => dstShort d && srcOk a && srcOk b
  | .sar d a b _ _ _ => dstShort d && srcOk a && srcOk b
  | .minS d a b _ _ _ => dstShort d && srcOk a && srcOk b
  | .maxS d a b _ _ _ => dstShort d && srcOk a && srcOk b
  | .minZ d a b _ _ _ => dstShort d && srcOk a && srcOk b
  | .maxZ d a b _ _ _ => dstShort d && srcOk a && srcOk b
  | .adc d a b _ _ _ => dstShort d && srcOk a && srcOk b
  | .sbc d a b _ _ _ => dstShort d && srcOk a && srcOk b
  | .cmpS a b _ _ => srcOk a && srcOk b
  | .cmpZ a b _ _ => srcOk a && srcOk b
  | .divS d a b _ _ _ => dstShort d && srcOk a && srcOk b
  | .divZ d a b _ _ _ => dstShort d && srcOk a && srcOk b
  | .remS d a b _ _ _ => dstShort d && srcOk a && srcOk b
  | .remZ d a b _ _ _ => dstShort d && srcOk a && srcOk b
  | .addW d a b _ _ _ => dstShort d && srcOk a && srcOk b
  | .subW d a b _ _ _ => dstShort d && srcOk a && srcOk b
  | .mulW d a b _ _ _ => dstShort d && srcOk a && srcOk b
  | .popc d a _ _ => dstShort d && srcOk a
  | .clz d a _ _ => dstShort d && srcOk a
  | .brev d a _ _ => dstShort d && srcOk a
  | .bfx d a b _ _ _ => dstShort d && srcOk a && srcOk b
  | .bfi d a b _ _ _ => dstShort d && srcOk a && srcOk b
  | .faddD d a b _ _ _ => dstShort d && srcOk a && srcOk b
  | .fsubD d a b _ _ _ => dstShort d && srcOk a && srcOk b
  | .fmulD d a b _ _ _ => dstShort d && srcOk a && srcOk b
  | .ffmaD d a b _ _ _ => dstShort d && srcOk a && srcOk b
  | .ffmsD d a b _ _ _ => dstShort d && srcOk a && srcOk b
  | .ffnmD d a b _ _ _ => dstShort d && srcOk a && srcOk b
  | .fminD d a b _ _ _ => dstShort d && srcOk a && srcOk b
  | .fmaxD d a b _ _ _ => dstShort d && srcOk a && srcOk b
  | .fdivD d a b _ _ _ => dstShort d && srcOk a && srcOk b
  | .fsqrtD d a _ _ => dstShort d && srcOk a
  | .fcmpD a b _ _ => srcOk a && srcOk b
  | .fabsD d a _ _ => dstShort d && srcOk a
  | .fnegD d a _ _ => dstShort d && srcOk a
  | .fcpysD d a b _ _ _ => dstShort d && srcOk a && srcOk b
  | .frndD d a m _ _ => dstShort d && srcOk a && roundOk m
  | .fclsD d a _ _ => dstShort d && srcOk a
  | .faddF d a b _ _ _ => dstShort d && srcOk a && srcOk b
  | .fsubF d a b _ _ _ => dstShort d && srcOk a && srcOk b
  | .fmulF d a b _ _ _ => dstShort d && srcOk a && srcOk b
  | .ffmaF d a b _ _ _ => dstShort d && srcOk a && srcOk b
  | .ffmsF d a b _ _ _ => dstShort d && srcOk a && srcOk b
  | .ffnmF d a b _ _ _ => dstShort d && srcOk a && srcOk b
  | .fminF d a b _ _ _ => dstShort d && srcOk a && srcOk b
  | .fmaxF d a b _ _ _ => dstShort d && srcOk a && srcOk b
  | .fdivF d a b _ _ _ => dstShort d && srcOk a && srcOk b
  | .fsqrtF d a _ _ => dstShort d && srcOk a
  | .fcmpF a b _ _ => srcOk a && srcOk b
  | .fabsF d a _ _ => dstShort d && srcOk a
  | .fnegF d a _ _ => dstShort d && srcOk a
  | .fcpysF d a b _ _ _ => dstShort d && srcOk a && srcOk b
  | .frndF d a m _ _ => dstShort d && srcOk a && roundOk m
  | .fclsF d a _ _ => dstShort d && srcOk a
  | .cvtDF d a m => dstShort d && srcOk a && roundOk m
  | .cvtFD d a m => dstShort d && srcOk a && roundOk m
  | .cvtDS64 d a m => dstShort d && srcOk a && roundOk m
  | .cvtS64D d a m => dstShort d && srcOk a && roundOk m
  | .cvtDZ64 d a m => dstShort d && srcOk a && roundOk m
  | .cvtZ64D d a m => dstShort d && srcOk a && roundOk m
  | .cvtFS32 d a m => dstShort d && srcOk a && roundOk m
  | .cvtS32F d a m => dstShort d && srcOk a && roundOk m
  | .cvtBF d a m => dstShort d && srcOk a && roundOk m
  | .cvtFB d a m => dstShort d && srcOk a && roundOk m
  | .cvtHF d a m => dstShort d && srcOk a && roundOk m
  | .cvtFH d a m => dstShort d && srcOk a && roundOk m
  | .qdxX8 d a g _ => dstShort d && srcOk a && g.toNat ≤ 31 && W != 16
  | .qdxX4 d a g _ => dstShort d && srcOk a && g.toNat ≤ 31 && W != 16
  | .dqxX8 d a b => dstShort d && srcOk a && srcOk b && W != 16
  | .dqxX4 d a b => dstShort d && srcOk a && srcOk b && W != 16
  | .frcpF d a _ _ => dstOther d && srcOk a
  | .frsqF d a _ _ => dstOther d && srcOk a
  | .fex2F d a _ _ => dstOther d && srcOk a
  | .flg2F d a _ _ => dstOther d && srcOk a
  | .fsinF d a _ _ => dstOther d && srcOk a
  | .fcosF d a _ _ => dstOther d && srcOk a
  | .drca d a _ _ => dstOther d && srcOk a
  | .drsa d a _ _ => dstOther d && srcOk a
  | .rbox d a _ => dstOther d && srcOk a
  | .rtri d a _ => dstOther d && srcOk a
  | .sel d a b _ => dstShort d && srcOk a && srcOk b
  | .mov d a _ _ => dstShort d && srcOk a
  | .ccget d => dstShort d
  | .ccset a _ => srcOk a
  | .shflIdx d a b _ _ => dstShort d && srcOk a && srcOk b
  | .shflXor d a b _ _ => dstShort d && srcOk a && srcOk b
  | .shflUp d a b _ _ => dstShort d && srcOk a && srcOk b
  | .shflDn d a b _ _ => dstShort d && srcOk a && srcOk b
  | .bcst d a b _ _ => dstShort d && srcOk a && srcOk b
  | .vote d a _ => dstShort d && srcOk a
  | .mtch d a _ => dstShort d && srcOk a
  | .xrd d a b _ => dstOther d && srcOk b && (isV a || isO a)
  | .redAdd d b _ => dstShort d && srcOk b
  | .redMin d b _ => dstShort d && srcOk b
  | .redMax d b _ => dstShort d && srcOk b
  | .redFaddD d b _ => dstShort d && srcOk b
  | .redFaddF d b _ => dstShort d && srcOk b
  | .scanAdd d b _ => dstShort d && srcOk b
  | .scanFaddD d b _ => dstShort d && srcOk b
  | .ldx64 d a b _ _ => dstOther d && srcOk a && srcOk b
  | .ldxS32 d a b _ _ => dstOther d && srcOk a && srcOk b
  | .stx64 d a b _ _ => srcOk a && srcOk b && srcOk d
  | .stx32 d a b _ _ => srcOk a && srcOk b && srcOk d
  | .ldv d a b x => dstOther d && srcOk a && srcOk b && x.toNat != 7
  | .lda d a x => dstOther d && srcOk a && scopeOk x
  | .str d a x => srcOk a && srcOk d && scopeOk x
  | .ptog d a _ => dstOther d && srcOk a
  | .pref a h => srcOk a && h.toNat ≤ 3
  | .flsh x => scopeOk x
  | .invl x => scopeOk x
  | .ldq d a _ => srcOk a && vSpan d 2
  | .stq d a _ => srcOk a && vSpan d 2
  | .ldS8 d a _ => dstOther d && srcOk a
  | .ldZ8 d a _ => dstOther d && srcOk a
  | .ldS16 d a _ => dstOther d && srcOk a
  | .ldZ16 d a _ => dstOther d && srcOk a
  | .ldS32 d a _ => dstOther d && srcOk a
  | .ldZ32 d a _ => dstOther d && srcOk a
  | .ld64 d a _ => dstOther d && srcOk a
  | .st8 d a _ => srcOk a && srcOk d
  | .st16 d a _ => srcOk a && srcOk d
  | .st32 d a _ => srcOk a && srcOk d
  | .st64 d a _ => srcOk a && srcOk d
  | .addi d a _ => dstShort d && srcOk a
  | .andi d a _ => dstShort d && srcOk a
  | .ori d a _ => dstShort d && srcOk a
  | .xori d a _ => dstShort d && srcOk a
  | .cmpi a _ => srcOk a
  | .shli d a _ => dstShort d && srcOk a
  | .shri d a _ => dstShort d && srcOk a
  | .sari d a _ => dstShort d && srcOk a
  | .muli d a _ => dstShort d && srcOk a
  | .movi d _ => dstShort d
  | .movh d _ => dstShort d
  | .adpc d _ => dstShort d
  | .aadd d a b x => dstOther d && srcOk a && srcOk b && scopeOk x
  | .aaddW d a b x => dstOther d && srcOk a && srcOk b && scopeOk x
  | .aminS d a b x => dstOther d && srcOk a && srcOk b && scopeOk x
  | .amaxS d a b x => dstOther d && srcOk a && srcOk b && scopeOk x
  | .aminZ d a b x => dstOther d && srcOk a && srcOk b && scopeOk x
  | .amaxZ d a b x => dstOther d && srcOk a && srcOk b && scopeOk x
  | .aand d a b x => dstOther d && srcOk a && srcOk b && scopeOk x
  | .aor d a b x => dstOther d && srcOk a && srcOk b && scopeOk x
  | .axor d a b x => dstOther d && srcOk a && srcOk b && scopeOk x
  | .axch d a b x => dstOther d && srcOk a && srcOk b && scopeOk x
  | .acas d a b x => dstOther d && srcOk a && srcOk b && scopeOk x
  | .acasW d a b x => dstOther d && srcOk a && srcOk b && scopeOk x
  | .afaddF d a b x => dstOther d && srcOk a && srcOk b && scopeOk x
  | .afaddD d a b x => dstOther d && srcOk a && srcOk b && scopeOk x
  | .ainc d a b x => dstOther d && srcOk a && srcOk b && scopeOk x
  | .adec d a b x => dstOther d && srcOk a && srcOk b && scopeOk x
  | .aaddAr d a b x => dstOther d && srcOk a && srcOk b && scopeOk x
  | .aaddWAr d a b x => dstOther d && srcOk a && srcOk b && scopeOk x
  | .aminSAr d a b x => dstOther d && srcOk a && srcOk b && scopeOk x
  | .amaxSAr d a b x => dstOther d && srcOk a && srcOk b && scopeOk x
  | .aminZAr d a b x => dstOther d && srcOk a && srcOk b && scopeOk x
  | .amaxZAr d a b x => dstOther d && srcOk a && srcOk b && scopeOk x
  | .aandAr d a b x => dstOther d && srcOk a && srcOk b && scopeOk x
  | .aorAr d a b x => dstOther d && srcOk a && srcOk b && scopeOk x
  | .axorAr d a b x => dstOther d && srcOk a && srcOk b && scopeOk x
  | .axchAr d a b x => dstOther d && srcOk a && srcOk b && scopeOk x
  | .acasAr d a b x => dstOther d && srcOk a && srcOk b && scopeOk x
  | .acasWAr d a b x => dstOther d && srcOk a && srcOk b && scopeOk x
  | .afaddFAr d a b x => dstOther d && srcOk a && srcOk b && scopeOk x
  | .afaddDAr d a b x => dstOther d && srcOk a && srcOk b && scopeOk x
  | .aincAr d a b x => dstOther d && srcOk a && srcOk b && scopeOk x
  | .adecAr d a b x => dstOther d && srcOk a && srcOk b && scopeOk x
  | .br c _ => condOk c
  | .brg c _ => condOk c
  | .call _ => true
  | .ret => true
  | .jmp a => srcOk a
  | .jmpl d a => dstOther d && srcOk a
  | .spawn d a b => dstOther d && srcOk a && srcOk b
  | .exit => true
  | .yield => true
  | .resm d a => dstOther d && srcOk a
  | .winb _ => true
  | .nop => true
  | .trap _ => true
  | .eret => true
  | .bkpt _ => true
  | .svc _ => true
  | .join k => maskOk k
  | .leave k => maskOk k
  | .waitk k => maskOk k
  | .kget k a => dstOther a && maskOk k
  | .kset k a => srcOk a && maskOk k
  | .klog k j m op => maskOk k && maskOk j && maskOk m && op.toNat ≤ 4 && (op.toNat != 4 || m.toNat == 0)
  | .bart => true
  | .barg => true
  | .waita d a b op => dstOther d && srcOk a && srcOk b && op.toNat ≤ 1
  | .fence k x => k.toNat ≤ 3 && scopeOk x
  | .csrr d n => dstOther d && csrOk n
  | .csrw a n => srcOk a && csrOk n
  | .mma d a b x => tileOk d && x.toNat ≤ 5 && fragRegs x.toNat W != 0 && vSpan a (fragRegs x.toNat W) && vSpan b (fragRegs x.toNat W)
  | .mdrn d a b c => tileOk d && c.toNat ≤ 5 && vSpan a (tileRegs W) && (b.toNat == 0x79 || (vSpan b 2 && c.toNat != 0))
  | .mzro d => tileOk d
  | .mfil d a => tileOk d && vSpan a (tileRegs W)
  | .msav a => srcOk a
  | .mrst a => srcOk a
  | .bcpy a => srcOk a
  | .wtal a => srcOk a
  | .wtan d a => dstOther d && srcOk a
  | .ffrt d a => dstOther d && srcOk a
  | .tgcl a => srcOk a
  | .coll a => srcOk a
  | .cdec a => srcOk a
  | .lock d a m => dstOther d && srcOk a && modeOk m
  | .lckt d a m => dstOther d && srcOk a && modeOk m
  | .ulck d a m => dstOther d && srcOk a && m.toNat ≤ 6 && (m.toNat != 0 || a.toNat == 0x79)
  | .lupg d a m => dstOther d && srcOk a && modeOk m
  | .tskb d a => dstOther d && srcOk a
  | .tske => true
  | .tska => true
  | .publ d a => dstOther d && srcOk a
  | .retv d a b => dstOther d && srcOk a && srcOk b
  | .vqry d a => dstOther d && srcOk a
  | .rep _ _ _ _ _ => true
  | .recordArrival _ _ => true
  | .arrivalBufferRefill _ => true
  | .overflowRingDrain _ _ => true
  | .departureWaitTimeout _ => true
  | .brgWaitTimeout _ => true
  | .binTimerExpire _ _ => true
  | .binLaunch _ _ => true
  | .groupPark _ => true
  | .groupReform _ => true
  | .groupBoost _ => true
  | .occupancyReport _ => true
  | .replicationWindow _ => true
  | .replicaAdd _ => true
  | .bartArrival _ _ => true
  | .registerFill _ _ _ _ => true
  | .rds _ _ => true
  | .rdx _ _ => true
  | .upg _ _ => true
  | .rdu _ _ _ => true
  | .wrl _ _ _ => true
  | .pute _ _ => true
  | .wb _ _ => true
  | .wbu _ _ => true
  | .ack _ _ => true
  | .fwdack _ _ => true
  | .partialReturn _ _ => true
  | .memoryData _ => true
  | .inv _ _ => true
  | .fwds _ _ => true
  | .fwdx _ _ => true
  | .rcl _ _ => true
  | .collMessage _ _ => true
  | .data _ _ => true
  | .wback _ _ => true
  | .clusterEviction _ _ => true
  | .llcEviction _ => true
  | .spillQueueDrain _ => true
  | .pageWalk _ _ _ => true
  | .translationInvalidation _ _ _ => true
  | .copyOnWriteComplete _ _ => true
  | .vpoolResume _ => true
  | .frameReclaim _ _ _ => true
  | .waitaRelease _ _ => true
  | .woundDelivery _ => true
  | .woundDeadlineExpiry _ => true
  | .lkmatWrite _ => true
  | .mmaRetire _ => true
  | .bceComplete _ _ => true
  | .contextCreate _ _ _ _ _ _ _ => true
  | .queueRegister _ _ _ => true
  | .queueWake _ => true
  | .slotGrant => true
  | .packetTake _ => true
  | .quantumExpiry _ => true
  | .queueUnmap _ => true
  | .teamPlacement _ => true
  | .deadlinePreq _ => true
  | .deadlineForced _ => true
  | .teamEnd _ => true
  | .counterDecrement => true
  | .linkShareWindow _ => true
  | .tvecEntry _ => true
  | .contvEntry _ => true
  | .frameReady _ _ => true
  | .serviceReply _ => true
  | .faultBufferDrain _ => true
  | .uncorrectableError _ _ => true
  | .correctedError _ _ => true
  | .preemptRequest _ => true
  | .forcedSave _ => true
  | .partitionSwap _ => true
  | .partitionRestore _ => true
  | .packetReceive _ _ _ _ _ _ _ => true
  | .retryResend _ _ => true
  | .linkBringUp _ _ => true
  | .keyLoad _ _ _ => true
  | .keyConfirm _ => true
  | .remoteRequest _ _ _ _ _ _ _ _ _ => true
  | .remoteResponse _ _ _ => true
  | .accessTableWrite _ _ _ _ => true
  | .collectiveGroupRegister _ _ _ _ => true
  | .collectivePacket _ _ _ _ _ _ _ _ _ _ => true
  | .collectiveHop _ => true
  | .collComplete _ _ => true
  | .hostMemAccess _ _ _ _ _ => true
  | .hostUnbind _ => true
  | .packageReset _ _ => true
  | .getMeasurements _ _ => true
  | .managementRequest _ _ _ _ => true
  | .powerLimitWrite _ => true
  | .stagingSetting _ _ => true
  | .thermalHold _ _ => true
  | .thermalStop _ _ => true
  | .thermalClear _ => true
  | .snapshotTrigger _ => true
  | .snapshotArm => true
  | .snapshotMissedClear _ => true
  | .reservedEncoding _ => true
  | .fetchFault => true
  | .homeAtomic _ _ _ _ _ _ => true
  | .hostBind _ _ => true
  | .cxlLinkTraining _ => true

end Sys2Proof
end

