-- ==== Sys2Proof/Machine/Operands.lean ====
section
/-!
DEFINITION. The operand forms: which registers each instruction reads and in which lanes, and which it writes in the
lanes of E (R49 to R56); the window check (R53); and what the full/empty bits say of an issue (R58, R59).
-/
namespace Sys2Proof.Machine

/-- One register read: its specifier, its F bit (R59, R72), and the lanes in which it is read. -/
structure Use where
  spec : Spec
  f : Bool
  lanes : List Nat
  deriving DecidableEq, Repr

/-- The registers that an instruction reads, and those that it writes in the lanes of E. -/
structure Uses where
  srcs : List Use
  dsts : List Spec
  deriving DecidableEq, Repr

/-- A source read in the lanes listed; only T3 sources carry an F bit (R59, R72). -/
def use (s : Spec) (lanes : List Nat) : Use := { spec := s, f := false, lanes := lanes }
def useF (s : Spec) (f : BitVec 1) (lanes : List Nat) : Use := { spec := s, f := f == 1, lanes := lanes }

/-- Registers s to s + n − 1. -/
def span (s : Spec) (n : Nat) : List Spec := (upTo n).map fun i => BitVec.ofNat 7 (s.toNat + i)

/-- The source lane of each SHFL form (R391): out of range, the lane keeps its own. -/
def shflLane (form W L k : Nat) : Nat :=
  match form with
  | 0 => k % W
  | 1 => if Nat.xor L k < W then Nat.xor L k else L
  | 2 => if k ≤ L then L - k else L
  | _ => if L + k < W then L + k else L

/-- The lanes whose a register a SHFL of the group reads (R391), as far as b names them (is full), and the one of BCST
(R323), which an empty b does not name yet. -/
def shflLanes (g : Group) (tix form : Nat) (b : Spec) : List Nat :=
  ((g.E.filter fun l => g.fullKey l (g.key b)).map fun l => shflLane form g.W l ((g.read tix b l).toNat % 64)).eraseDups
def bcstLane (g : Group) (tix : Nat) (b : Spec) : Nat := (g.read tix b g.lowE).toNat % 64 % g.W
def bcstLanes (g : Group) (tix : Nat) (b : Spec) : List Nat := if g.fullKey g.lowE (g.key b) then [bcstLane g tix b] else []

/-- CSRW of FPSR reads every lane of E; of any other register the lowest (R62, R333). -/
def csrwLanes (g : Group) (n : BitVec 7) : List Nat := if n.toNat == 1 then g.E else [g.lowE]

/-- What each instruction reads and writes; events read and write no operand. -/
def usesOf (i : Instr) (g : Group) (tix : Nat) : Uses :=
  let E := g.E
  let W := g.W
  match i with
  | .add d a b _ fa gb => ⟨[useF a fa E, useF b gb E], [d]⟩
  | .sub d a b _ fa gb => ⟨[useF a fa E, useF b gb E], [d]⟩
  | .mul d a b _ fa gb => ⟨[useF a fa E, useF b gb E], [d]⟩
  | .mulhS d a b _ fa gb => ⟨[useF a fa E, useF b gb E], [d]⟩
  | .mulhZ d a b _ fa gb => ⟨[useF a fa E, useF b gb E], [d]⟩
  | .and d a b _ fa gb => ⟨[useF a fa E, useF b gb E], [d]⟩
  | .or d a b _ fa gb => ⟨[useF a fa E, useF b gb E], [d]⟩
  | .xor d a b _ fa gb => ⟨[useF a fa E, useF b gb E], [d]⟩
  | .shl d a b _ fa gb => ⟨[useF a fa E, useF b gb E], [d]⟩
  | .shr d a b _ fa gb => ⟨[useF a fa E, useF b gb E], [d]⟩
  | .sar d a b _ fa gb => ⟨[useF a fa E, useF b gb E], [d]⟩
  | .minS d a b _ fa gb => ⟨[useF a fa E, useF b gb E], [d]⟩
  | .maxS d a b _ fa gb => ⟨[useF a fa E, useF b gb E], [d]⟩
  | .minZ d a b _ fa gb => ⟨[useF a fa E, useF b gb E], [d]⟩
  | .maxZ d a b _ fa gb => ⟨[useF a fa E, useF b gb E], [d]⟩
  | .adc d a b _ fa gb => ⟨[useF a fa E, useF b gb E], [d]⟩
  | .sbc d a b _ fa gb => ⟨[useF a fa E, useF b gb E], [d]⟩
  | .cmpS a b fa gb => ⟨[useF a fa E, useF b gb E], []⟩
  | .cmpZ a b fa gb => ⟨[useF a fa E, useF b gb E], []⟩
  | .divS d a b _ fa gb => ⟨[useF a fa E, useF b gb E], [d]⟩
  | .divZ d a b _ fa gb => ⟨[useF a fa E, useF b gb E], [d]⟩
  | .remS d a b _ fa gb => ⟨[useF a fa E, useF b gb E], [d]⟩
  | .remZ d a b _ fa gb => ⟨[useF a fa E, useF b gb E], [d]⟩
  | .addW d a b _ fa gb => ⟨[useF a fa E, useF b gb E], [d]⟩
  | .subW d a b _ fa gb => ⟨[useF a fa E, useF b gb E], [d]⟩
  | .mulW d a b _ fa gb => ⟨[useF a fa E, useF b gb E], [d]⟩
  | .popc d a _ fa => ⟨[useF a fa E], [d]⟩
  | .clz d a _ fa => ⟨[useF a fa E], [d]⟩
  | .brev d a _ fa => ⟨[useF a fa E], [d]⟩
  | .bfx d a b _ fa gb => ⟨[useF a fa E, useF b gb E], [d]⟩
  | .bfi d a b _ fa gb => ⟨[useF a fa E, useF b gb E, use d E], [d]⟩
  | .faddD d a b _ fa gb => ⟨[useF a fa E, useF b gb E], [d]⟩
  | .fsubD d a b _ fa gb => ⟨[useF a fa E, useF b gb E], [d]⟩
  | .fmulD d a b _ fa gb => ⟨[useF a fa E, useF b gb E], [d]⟩
  | .ffmaD d a b _ fa gb => ⟨[useF a fa E, useF b gb E, use d E], [d]⟩
  | .ffmsD d a b _ fa gb => ⟨[useF a fa E, useF b gb E, use d E], [d]⟩
  | .ffnmD d a b _ fa gb => ⟨[useF a fa E, useF b gb E, use d E], [d]⟩
  | .fminD d a b _ fa gb => ⟨[useF a fa E, useF b gb E], [d]⟩
  | .fmaxD d a b _ fa gb => ⟨[useF a fa E, useF b gb E], [d]⟩
  | .fdivD d a b _ fa gb => ⟨[useF a fa E, useF b gb E], [d]⟩
  | .fsqrtD d a _ fa => ⟨[useF a fa E], [d]⟩
  | .fcmpD a b fa gb => ⟨[useF a fa E, useF b gb E], []⟩
  | .fabsD d a _ fa => ⟨[useF a fa E], [d]⟩
  | .fnegD d a _ fa => ⟨[useF a fa E], [d]⟩
  | .fcpysD d a b _ fa gb => ⟨[useF a fa E, useF b gb E], [d]⟩
  | .frndD d a _ _ fa => ⟨[useF a fa E], [d]⟩
  | .fclsD d a _ fa => ⟨[useF a fa E], [d]⟩
  | .faddF d a b _ fa gb => ⟨[useF a fa E, useF b gb E], [d]⟩
  | .fsubF d a b _ fa gb => ⟨[useF a fa E, useF b gb E], [d]⟩
  | .fmulF d a b _ fa gb => ⟨[useF a fa E, useF b gb E], [d]⟩
  | .ffmaF d a b _ fa gb => ⟨[useF a fa E, useF b gb E, use d E], [d]⟩
  | .ffmsF d a b _ fa gb => ⟨[useF a fa E, useF b gb E, use d E], [d]⟩
  | .ffnmF d a b _ fa gb => ⟨[useF a fa E, useF b gb E, use d E], [d]⟩
  | .fminF d a b _ fa gb => ⟨[useF a fa E, useF b gb E], [d]⟩
  | .fmaxF d a b _ fa gb => ⟨[useF a fa E, useF b gb E], [d]⟩
  | .fdivF d a b _ fa gb => ⟨[useF a fa E, useF b gb E], [d]⟩
  | .fsqrtF d a _ fa => ⟨[useF a fa E], [d]⟩
  | .fcmpF a b fa gb => ⟨[useF a fa E, useF b gb E], []⟩
  | .fabsF d a _ fa => ⟨[useF a fa E], [d]⟩
  | .fnegF d a _ fa => ⟨[useF a fa E], [d]⟩
  | .fcpysF d a b _ fa gb => ⟨[useF a fa E, useF b gb E], [d]⟩
  | .frndF d a _ _ fa => ⟨[useF a fa E], [d]⟩
  | .fclsF d a _ fa => ⟨[useF a fa E], [d]⟩
  | .cvtDF d a _ => ⟨[use a E], [d]⟩
  | .cvtFD d a _ => ⟨[use a E], [d]⟩
  | .cvtDS64 d a _ => ⟨[use a E], [d]⟩
  | .cvtS64D d a _ => ⟨[use a E], [d]⟩
  | .cvtDZ64 d a _ => ⟨[use a E], [d]⟩
  | .cvtZ64D d a _ => ⟨[use a E], [d]⟩
  | .cvtFS32 d a _ => ⟨[use a E], [d]⟩
  | .cvtS32F d a _ => ⟨[use a E], [d]⟩
  | .cvtBF d a _ => ⟨[use a E], [d]⟩
  | .cvtFB d a _ => ⟨[use a E], [d]⟩
  | .cvtHF d a _ => ⟨[use a E], [d]⟩
  | .cvtFH d a _ => ⟨[use a E], [d]⟩
  | .qdxX8 d a _ _ => ⟨[use a (upTo W)], [d]⟩
  | .qdxX4 d a _ _ => ⟨[use a (upTo W)], [d]⟩
  | .dqxX8 d a b => ⟨[use a E, use b E], [d]⟩
  | .dqxX4 d a b => ⟨[use a E, use b E], [d]⟩
  | .frcpF d a _ fa => ⟨[useF a fa E], [d]⟩
  | .frsqF d a _ fa => ⟨[useF a fa E], [d]⟩
  | .fex2F d a _ fa => ⟨[useF a fa E], [d]⟩
  | .flg2F d a _ fa => ⟨[useF a fa E], [d]⟩
  | .fsinF d a _ fa => ⟨[useF a fa E], [d]⟩
  | .fcosF d a _ fa => ⟨[useF a fa E], [d]⟩
  | .drca d a _ fa => ⟨[useF a fa E], [d]⟩
  | .drsa d a _ fa => ⟨[useF a fa E], [d]⟩
  | .rbox d a fa => ⟨[useF a fa E, use 0x68#7 E, use 0x69#7 E, use 0x6A#7 E, use 0x6B#7 E], [d]⟩
  | .rtri d a fa => ⟨[useF a fa E, use 0x68#7 E, use 0x69#7 E, use 0x6A#7 E, use 0x6B#7 E, use 0x6C#7 E, use 0x6D#7 E], [d]⟩
  | .sel d a b _ => ⟨[use a E, use b E], [d]⟩
  | .mov d a _ fa => ⟨[useF a fa E], [d]⟩
  | .ccget d => ⟨[], [d]⟩
  | .ccset a fa => ⟨[useF a fa E], []⟩
  | .shflIdx d a b fa gb => ⟨[useF a fa (shflLanes g tix 0 b), useF b gb E], [d]⟩
  | .shflXor d a b fa gb => ⟨[useF a fa (shflLanes g tix 1 b), useF b gb E], [d]⟩
  | .shflUp d a b fa gb => ⟨[useF a fa (shflLanes g tix 2 b), useF b gb E], [d]⟩
  | .shflDn d a b fa gb => ⟨[useF a fa (shflLanes g tix 3 b), useF b gb E], [d]⟩
  | .bcst d a b fa gb => ⟨[useF a fa (bcstLanes g tix b), useF b gb [g.lowE]], [d]⟩
  | .vote d a fa => ⟨[useF a fa E], [d]⟩
  | .mtch d a fa => ⟨[useF a fa E], [d]⟩
  | .xrd d _ b gb => ⟨[useF b gb E], [d]⟩
  | .redAdd d b gb => ⟨[useF b gb E], [d]⟩
  | .redMin d b gb => ⟨[useF b gb E], [d]⟩
  | .redMax d b gb => ⟨[useF b gb E], [d]⟩
  | .redFaddD d b gb => ⟨[useF b gb E], [d]⟩
  | .redFaddF d b gb => ⟨[useF b gb E], [d]⟩
  | .scanAdd d b gb => ⟨[useF b gb E], [d]⟩
  | .scanFaddD d b gb => ⟨[useF b gb E], [d]⟩
  | .ldx64 d a b fa gb => ⟨[useF a fa E, useF b gb E], [d]⟩
  | .ldxS32 d a b fa gb => ⟨[useF a fa E, useF b gb E], [d]⟩
  | .stx64 d a b fa gb => ⟨[useF a fa E, useF b gb E, use d E], []⟩
  | .stx32 d a b fa gb => ⟨[useF a fa E, useF b gb E, use d E], []⟩
  | .ldv d a b _ => ⟨[use a E, use b E], [d]⟩
  | .lda d a _ => ⟨[use a E], [d]⟩
  | .str d a _ => ⟨[use a E, use d E], []⟩
  | .ptog d a fa => ⟨[useF a fa E], [d]⟩
  | .pref a _ => ⟨[use a E], []⟩
  | .flsh _ => ⟨[], []⟩
  | .invl _ => ⟨[], []⟩
  | .ldq d a fa => ⟨[useF a fa E], [d, d + 1]⟩
  | .stq d a fa => ⟨[useF a fa E, use d E, use (d + 1) E], []⟩
  | .ldS8 d a _ => ⟨[use a E], [d]⟩
  | .ldZ8 d a _ => ⟨[use a E], [d]⟩
  | .ldS16 d a _ => ⟨[use a E], [d]⟩
  | .ldZ16 d a _ => ⟨[use a E], [d]⟩
  | .ldS32 d a _ => ⟨[use a E], [d]⟩
  | .ldZ32 d a _ => ⟨[use a E], [d]⟩
  | .ld64 d a _ => ⟨[use a E], [d]⟩
  | .st8 d a _ => ⟨[use a E, use d E], []⟩
  | .st16 d a _ => ⟨[use a E, use d E], []⟩
  | .st32 d a _ => ⟨[use a E, use d E], []⟩
  | .st64 d a _ => ⟨[use a E, use d E], []⟩
  | .addi d a _ => ⟨[use a E], [d]⟩
  | .andi d a _ => ⟨[use a E], [d]⟩
  | .ori d a _ => ⟨[use a E], [d]⟩
  | .xori d a _ => ⟨[use a E], [d]⟩
  | .cmpi a _ => ⟨[use a E], []⟩
  | .shli d a _ => ⟨[use a E], [d]⟩
  | .shri d a _ => ⟨[use a E], [d]⟩
  | .sari d a _ => ⟨[use a E], [d]⟩
  | .muli d a _ => ⟨[use a E], [d]⟩
  | .movi d _ => ⟨[], [d]⟩
  | .movh d _ => ⟨[use d E], [d]⟩
  | .adpc d _ => ⟨[], [d]⟩
  | .aadd d a b _ => ⟨[use a E, use b E], [d]⟩
  | .aaddW d a b _ => ⟨[use a E, use b E], [d]⟩
  | .aminS d a b _ => ⟨[use a E, use b E], [d]⟩
  | .amaxS d a b _ => ⟨[use a E, use b E], [d]⟩
  | .aminZ d a b _ => ⟨[use a E, use b E], [d]⟩
  | .amaxZ d a b _ => ⟨[use a E, use b E], [d]⟩
  | .aand d a b _ => ⟨[use a E, use b E], [d]⟩
  | .aor d a b _ => ⟨[use a E, use b E], [d]⟩
  | .axor d a b _ => ⟨[use a E, use b E], [d]⟩
  | .axch d a b _ => ⟨[use a E, use b E], [d]⟩
  | .acas d a b _ => ⟨[use a E, use b E, use d E], [d]⟩
  | .acasW d a b _ => ⟨[use a E, use b E, use d E], [d]⟩
  | .afaddF d a b _ => ⟨[use a E, use b E], [d]⟩
  | .afaddD d a b _ => ⟨[use a E, use b E], [d]⟩
  | .ainc d a b _ => ⟨[use a E, use b E], [d]⟩
  | .adec d a b _ => ⟨[use a E, use b E], [d]⟩
  | .aaddAr d a b _ => ⟨[use a E, use b E], [d]⟩
  | .aaddWAr d a b _ => ⟨[use a E, use b E], [d]⟩
  | .aminSAr d a b _ => ⟨[use a E, use b E], [d]⟩
  | .amaxSAr d a b _ => ⟨[use a E, use b E], [d]⟩
  | .aminZAr d a b _ => ⟨[use a E, use b E], [d]⟩
  | .amaxZAr d a b _ => ⟨[use a E, use b E], [d]⟩
  | .aandAr d a b _ => ⟨[use a E, use b E], [d]⟩
  | .aorAr d a b _ => ⟨[use a E, use b E], [d]⟩
  | .axorAr d a b _ => ⟨[use a E, use b E], [d]⟩
  | .axchAr d a b _ => ⟨[use a E, use b E], [d]⟩
  | .acasAr d a b _ => ⟨[use a E, use b E, use d E], [d]⟩
  | .acasWAr d a b _ => ⟨[use a E, use b E, use d E], [d]⟩
  | .afaddFAr d a b _ => ⟨[use a E, use b E], [d]⟩
  | .afaddDAr d a b _ => ⟨[use a E, use b E], [d]⟩
  | .aincAr d a b _ => ⟨[use a E, use b E], [d]⟩
  | .adecAr d a b _ => ⟨[use a E, use b E], [d]⟩
  | .br _ _ => ⟨[], []⟩
  | .brg _ _ => ⟨[], []⟩
  | .call _ => ⟨[], [0x6F#7]⟩
  | .ret => ⟨[use 0x6F#7 E], []⟩
  | .jmp a => ⟨[use a E], []⟩
  | .jmpl d a => ⟨[use a E], [d]⟩
  | .spawn d a b => ⟨[use a E, use b E], [d]⟩
  | .exit => ⟨[], []⟩
  | .yield => ⟨[], []⟩
  | .resm d a => ⟨[use a [g.lowE]], [d]⟩
  | .winb _ => ⟨[], []⟩
  | .nop => ⟨[], []⟩
  | .trap _ => ⟨[], []⟩
  | .eret => ⟨[], []⟩
  | .bkpt _ => ⟨[], []⟩
  | .svc _ => ⟨[], []⟩
  | .join _ => ⟨[], []⟩
  | .leave _ => ⟨[], []⟩
  | .waitk _ => ⟨[], []⟩
  | .kget _ a => ⟨[], [a]⟩
  | .kset _ a => ⟨[use a [g.lowE]], []⟩
  | .klog _ _ _ _ => ⟨[], []⟩
  | .bart => ⟨[], []⟩
  | .barg => ⟨[], []⟩
  | .waita d a b _ => ⟨[use a E, use b E], [d]⟩
  | .fence _ _ => ⟨[], []⟩
  | .csrr d _ => ⟨[], [d]⟩
  | .csrw a n => ⟨[use a (csrwLanes g n)], []⟩
  -- MMA waits for its fragments behind its own checks and the claim (R227)
  | .mma _ a b x => ⟨(span a (fragRegs x.toNat W) ++ span b (fragRegs x.toNat W)).map fun r => use r [], []⟩
  | .mdrn _ a b _ => ⟨if b.toNat == 0x79 then [] else (span b 2).map fun r => use r (upTo 16), span a (tileRegs W)⟩
  | .mzro _ => ⟨[], []⟩
  | .mfil _ a => ⟨(span a (tileRegs W)).map fun r => use r (upTo W), []⟩
  | .msav a => ⟨[use a [g.lowE]], []⟩
  | .mrst a => ⟨[use a [g.lowE]], []⟩
  | .bcpy a => ⟨[use a [g.lowE]], []⟩
  | .wtal a => ⟨[use a [g.lowE]], []⟩
  | .wtan d a => ⟨[use a [g.lowE]], [d]⟩
  | .ffrt d a => ⟨[use a [g.lowE]], [d]⟩
  | .tgcl a => ⟨[use a [g.lowE]], []⟩
  | .coll a => ⟨[use a [g.lowE]], []⟩
  | .cdec a => ⟨[use a E], []⟩
  | .lock d a _ => ⟨[use a E], [d]⟩
  | .lckt d a _ => ⟨[use a E], [d]⟩
  | .ulck d a _ => ⟨[use a E], [d]⟩
  | .lupg d a _ => ⟨[use a E], [d]⟩
  | .tskb d a => ⟨[use a [g.lowE]], [d]⟩
  | .tske => ⟨[], []⟩
  | .tska => ⟨[], []⟩
  | .publ d a => ⟨[use a [g.lowE]], [d]⟩
  | .retv d a b => ⟨[use a [g.lowE], use b [g.lowE]], [d]⟩
  | .vqry d a => ⟨[use a [g.lowE]], [d]⟩
  | .rep _ _ _ _ _ => ⟨[], []⟩
  | .recordArrival _ _ => ⟨[], []⟩
  | .arrivalBufferRefill _ => ⟨[], []⟩
  | .overflowRingDrain _ _ => ⟨[], []⟩
  | .departureWaitTimeout _ => ⟨[], []⟩
  | .brgWaitTimeout _ => ⟨[], []⟩
  | .binTimerExpire _ _ => ⟨[], []⟩
  | .binLaunch _ _ => ⟨[], []⟩
  | .groupPark _ => ⟨[], []⟩
  | .groupReform _ => ⟨[], []⟩
  | .groupBoost _ => ⟨[], []⟩
  | .occupancyReport _ => ⟨[], []⟩
  | .replicationWindow _ => ⟨[], []⟩
  | .replicaAdd _ => ⟨[], []⟩
  | .bartArrival _ _ => ⟨[], []⟩
  | .registerFill _ _ _ _ => ⟨[], []⟩
  | .rds _ _ => ⟨[], []⟩
  | .rdx _ _ => ⟨[], []⟩
  | .upg _ _ => ⟨[], []⟩
  | .rdu _ _ _ => ⟨[], []⟩
  | .wrl _ _ _ => ⟨[], []⟩
  | .pute _ _ => ⟨[], []⟩
  | .wb _ _ => ⟨[], []⟩
  | .wbu _ _ => ⟨[], []⟩
  | .ack _ _ => ⟨[], []⟩
  | .fwdack _ _ => ⟨[], []⟩
  | .partialReturn _ _ => ⟨[], []⟩
  | .memoryData _ => ⟨[], []⟩
  | .inv _ _ => ⟨[], []⟩
  | .fwds _ _ => ⟨[], []⟩
  | .fwdx _ _ => ⟨[], []⟩
  | .rcl _ _ => ⟨[], []⟩
  | .collMessage _ _ => ⟨[], []⟩
  | .data _ _ => ⟨[], []⟩
  | .wback _ _ => ⟨[], []⟩
  | .clusterEviction _ _ => ⟨[], []⟩
  | .llcEviction _ => ⟨[], []⟩
  | .spillQueueDrain _ => ⟨[], []⟩
  | .pageWalk _ _ _ => ⟨[], []⟩
  | .translationInvalidation _ _ _ => ⟨[], []⟩
  | .copyOnWriteComplete _ _ => ⟨[], []⟩
  | .vpoolResume _ => ⟨[], []⟩
  | .frameReclaim _ _ _ => ⟨[], []⟩
  | .waitaRelease _ _ => ⟨[], []⟩
  | .woundDelivery _ => ⟨[], []⟩
  | .woundDeadlineExpiry _ => ⟨[], []⟩
  | .lkmatWrite _ => ⟨[], []⟩
  | .mmaRetire _ => ⟨[], []⟩
  | .bceComplete _ _ => ⟨[], []⟩
  | .contextCreate _ _ _ _ _ _ _ => ⟨[], []⟩
  | .queueRegister _ _ _ => ⟨[], []⟩
  | .queueWake _ => ⟨[], []⟩
  | .slotGrant => ⟨[], []⟩
  | .packetTake _ => ⟨[], []⟩
  | .quantumExpiry _ => ⟨[], []⟩
  | .queueUnmap _ => ⟨[], []⟩
  | .teamPlacement _ => ⟨[], []⟩
  | .deadlinePreq _ => ⟨[], []⟩
  | .deadlineForced _ => ⟨[], []⟩
  | .teamEnd _ => ⟨[], []⟩
  | .counterDecrement => ⟨[], []⟩
  | .linkShareWindow _ => ⟨[], []⟩
  | .tvecEntry _ => ⟨[], []⟩
  | .contvEntry _ => ⟨[], []⟩
  | .frameReady _ _ => ⟨[], []⟩
  | .serviceReply _ => ⟨[], []⟩
  | .faultBufferDrain _ => ⟨[], []⟩
  | .uncorrectableError _ _ => ⟨[], []⟩
  | .correctedError _ _ => ⟨[], []⟩
  | .preemptRequest _ => ⟨[], []⟩
  | .forcedSave _ => ⟨[], []⟩
  | .partitionSwap _ => ⟨[], []⟩
  | .partitionRestore _ => ⟨[], []⟩
  | .packetReceive _ _ _ _ _ _ _ => ⟨[], []⟩
  | .retryResend _ _ => ⟨[], []⟩
  | .linkBringUp _ _ => ⟨[], []⟩
  | .keyLoad _ _ _ => ⟨[], []⟩
  | .keyConfirm _ => ⟨[], []⟩
  | .remoteRequest _ _ _ _ _ _ _ _ _ => ⟨[], []⟩
  | .remoteResponse _ _ _ => ⟨[], []⟩
  | .accessTableWrite _ _ _ _ => ⟨[], []⟩
  | .collectiveGroupRegister _ _ _ _ => ⟨[], []⟩
  | .collectivePacket _ _ _ _ _ _ _ _ _ _ => ⟨[], []⟩
  | .collectiveHop _ => ⟨[], []⟩
  | .collComplete _ _ => ⟨[], []⟩
  | .hostMemAccess _ _ _ _ _ => ⟨[], []⟩
  | .hostUnbind _ => ⟨[], []⟩
  | .packageReset _ _ => ⟨[], []⟩
  | .getMeasurements _ _ => ⟨[], []⟩
  | .managementRequest _ _ _ _ => ⟨[], []⟩
  | .powerLimitWrite _ => ⟨[], []⟩
  | .stagingSetting _ _ => ⟨[], []⟩
  | .thermalHold _ _ => ⟨[], []⟩
  | .thermalStop _ _ => ⟨[], []⟩
  | .thermalClear _ => ⟨[], []⟩
  | .snapshotTrigger _ => ⟨[], []⟩
  | .snapshotArm => ⟨[], []⟩
  | .snapshotMissedClear _ => ⟨[], []⟩
  | .reservedEncoding _ => ⟨[], []⟩
  | .fetchFault => ⟨[], []⟩
  | .homeAtomic _ _ _ _ _ _ => ⟨[], []⟩
  | .hostBind _ _ => ⟨[], []⟩
  | .cxlLinkTraining _ => ⟨[], []⟩

/-- WINOV (R53): some v register that the instruction names lies beyond the lane's main file. -/
def windowOk (u : Uses) (g : Group) : Bool :=
  (u.srcs.all fun x => !isV x.spec || decide (g.wbase + x.spec.toNat < g.R)) &&
  (u.dsts.all fun x => !isV x || decide (g.wbase + x.toNat < g.R))

/-- The register of a specifier is full in every lane listed (R58). -/
def fullIn (g : Group) (s : Spec) (lanes : List Nat) : Bool := lanes.all fun l => g.fullKey l (g.key s)

/-- What the full/empty bits decide about an issue (R59). -/
inductive Ready where
  | go | block | empty
  deriving DecidableEq, Repr

/-- The readiness of an issue (R59): EMPTY takes precedence where CONTV is nonzero and a source with F = 1 is empty, also
over an empty destination. (DESIGN CHOICE, log entry 62.) -/
def readiness (u : Uses) (g : Group) (contv : Bool) : Ready :=
  if contv && u.srcs.any fun x => x.f && !fullIn g x.spec x.lanes then .empty
  else if (u.srcs.all fun x => fullIn g x.spec x.lanes) && u.dsts.all fun d => fullIn g d g.E then .go
  else .block

/-- The values of a source in the lanes of E. -/
def State.vals (s : State) (f : Spec) : List (Nat × Word) := s.me.E.map fun l => (l, s.rd f l)

end Sys2Proof.Machine
end

