-- ==== Sys2Proof/Machine/Flags.lean ====
section
/-!
DEFINITION. The flags N Z C V in bits 3 to 0: how each kind of operation writes them (R60, R320, R330) and how a
condition reads them (R77).
-/
namespace Sys2Proof.Machine

/-- NZCV from its four flags. -/
def nzcvOf (n z c v : Bool) : Nzcv :=
  (if n then 8 else 0) ||| (if z then 4 else 0) ||| (if c then 2 else 0) ||| (if v then 1 else 0)

def Flags.n (f : Nzcv) : Bool := f.getLsbD 3
def Flags.z (f : Nzcv) : Bool := f.getLsbD 2
def Flags.c (f : Nzcv) : Bool := f.getLsbD 1
def Flags.v (f : Nzcv) : Bool := f.getLsbD 0

/-- Integer operations other than addition and subtraction: N and Z of the result, C and V cleared (R60). -/
def logicNzcv (r : Word) : Nzcv := nzcvOf r.msb (r == 0) false false

/-- a + b + cin at 64 bits: the result and its flags (R60). -/
def addWith (a b : Word) (cin : Bool) : Word × Nzcv :=
  let n := a.toNat + b.toNat + (if cin then 1 else 0)
  let r := BitVec.ofNat 64 n
  (r, nzcvOf r.msb (r == 0) (decide (2 ^ 64 ≤ n)) (a.msb == b.msb && r.msb != a.msb))

/-- a − b: a + NOT b + 1, so that C is 1 when no borrow occurs (R60). -/
def subWith (a b : Word) (cin : Bool) : Word × Nzcv := addWith a (~~~b) cin

/-- a + b + cin at 32 bits, sign-extended; V and C at the operation's width, N and Z of the result as written (R60,
R211). -/
def addWith32 (a b : Word) (cin : Bool) : Word × Nzcv :=
  let x := a.setWidth 32
  let y := b.setWidth 32
  let n := x.toNat + y.toNat + (if cin then 1 else 0)
  let t := BitVec.ofNat 32 n
  let r : Word := t.signExtend 64
  (r, nzcvOf r.msb (r == 0) (decide (2 ^ 32 ≤ n)) (x.msb == y.msb && t.msb != x.msb))

def subWith32 (a b : Word) (cin : Bool) : Word × Nzcv := addWith32 a (~~~b) cin

/-- CMP.S and CMPI (R320, R321): the flags of a − b. -/
def cmpS (a b : Word) : Nzcv := (subWith a b true).2

/-- CMP.Z (R320): N is set when a < b unsigned, V is cleared. -/
def cmpZ (a b : Word) : Nzcv :=
  let f := (subWith a b true).2
  nzcvOf (decide (a.toNat < b.toNat)) (Flags.z f) (Flags.c f) false

/-- A condition on NZCV (R77). Code 0xE never reaches here: it raises ILL. -/
def condHolds (c : Nat) (f : Nzcv) : Bool :=
  let n := Flags.n f
  let z := Flags.z f
  let cc := Flags.c f
  let v := Flags.v f
  match c with
  | 0x0 => z
  | 0x1 => !z
  | 0x2 => cc
  | 0x3 => !cc
  | 0x4 => n
  | 0x5 => !n
  | 0x6 => v
  | 0x7 => !v
  | 0x8 => cc && !z
  | 0x9 => !cc || z
  | 0xA => n == v
  | 0xB => n != v
  | 0xC => !z && n == v
  | 0xD => z || n != v
  | 0xF => true
  | _ => false

end Sys2Proof.Machine
end

