-- ==== Sys2Proof/Machine/Ops.lean ====
section
/-!
DEFINITION. The issue of an instruction: the checks of R79 in their order, its completion (R32), and the taking of an
exception, ONE operation for every cause: the delivery of R262, the supervisor vector (R264, R434), parking at a user
vector (R266), the stall for service (R262), the abort of a task first (R202), and the end of the grid; and beside it the
return, ERET (R265, R434).
-/
namespace Sys2Proof.Machine

/-- What the meaning of an instruction answers, all checks of R79 before it passed. -/
inductive Res where
  /-- Complete: the lanes of E go on at the next word. -/
  | done (s : State)
  /-- Complete: each lane of E goes on at its own address (R32). -/
  | branch (targets : List (Nat × Word)) (s : State)
  /-- Complete: the meaning has set pcv and status of its lanes. -/
  | jumped (s : State)
  /-- Complete: the meaning has ended the issue itself. -/
  | over (s : State)
  /-- The group keeps pc and E (R85, "wait until"). -/
  | wait (s : State)
  /-- It traps, with TVAL; no lane has an effect (R32). -/
  | trap (c : Cause) (tval : Word) (s : State)
  /-- It traps for the lanes of the mask only; the other lanes of E are performed (R290). -/
  | trapIn (c : Cause) (tval : Word) (lanes : Nat) (s : State)
  | refuse (r : Refusal)

/-- The word of an instruction as TVAL (R262). -/
def wordVal (i : Instr) : Word := ((encode i).getD 0).setWidth 64

/-! ### Tags, MMAs in flight, frames -/

def Team.tag (t : Team) (n : Nat) : Tag := tgetD t.tags n {}

/-- A tag is set: ready, with the error of its operation if it failed (R241). -/
def State.setTag (s : State) (team n : Nat) (err : Option (Cause × Word)) : State :=
  s.modTeam team fun t => { t with tags := tset n { ready := true, err := err, busy := false } t.tags }

/-- The tag of CONTT is set for a frame: ready, its error left; while an operation on it is in flight the setting waits
(R267). -/
def State.frameTag (s : State) (team : Nat) : State :=
  let t := s.team team
  if t.contt.toNat.testBit 6 then
    let n := bitsOf t.contt.toNat 5 0
    let x := t.tag n
    s.modTeam team fun t => { t with tags := tset n (if x.busy then x else { x with ready := true }) t.tags }
  else s

/-- The core whose array a group uses (R23, R222). -/
def State.tileCoreOf (s : State) (g : Group) : Nat := (s.team g.team).tileCore

/-- The group has an MMA in flight (R223). -/
def State.mmaInFlight (s : State) (gid : Nat) : Bool :=
  let g := s.grp gid
  (s.core g.core).mmaQ.any (fun m => m.gid == gid) || (s.core (s.tileCoreOf g)).mmaQ.any (fun m => m.gid == gid)

/-- The lowest free frame id of a team, 1 to 16 (R266). -/
def Team.freeFrame (t : Team) : Option Nat := (upTo 16).findSome? fun i => if (tget (i + 1) t.frames).isNone then some (i + 1) else none

/-- A user vector can be entered: it is nonzero and the team has a free frame (R266). -/
def Team.canPark (t : Team) (vec : Word) : Bool := vec != 0 && t.freeFrame.isSome

/-- Whether a pool's ring holds a frame (R165). -/
def State.poolHas (s : State) (p : Pool) : Bool :=
  let b := s.domPool p
  s.num b 4 != s.num (b + 4) 4

/-! ### Taking an exception -/

/-- Where a cause goes (R262). -/
inductive Dest where
  | tvec | contv | stall | wndv
  deriving DecidableEq, Repr

def Team.dest (t : Team) (c : Cause) : Dest :=
  match c with
  | .empty => .contv
  | .page | .vpool => if t.canPark t.contv then .contv else .stall
  | .vret | .vfut => if t.canPark t.contv then .contv else .tvec
  | .wound => if t.canPark t.wndv then .wndv else .tvec
  | _ => .tvec

/-- A trap in supervisor mode, or one for TVEC when TVEC is zero, ends the grid (R264). (DEDUCED, log entry 10.) -/
def State.fatalTrap (s : State) (gid : Nat) (c : Cause) : Bool :=
  let g := s.grp gid
  g.sup || ((s.team g.team).dest c == .tvec && (s.ctx (s.ctxOf g)).tvec == 0)

/-- The kind of event record that a trap posts, if it posts one (R262, R264, R271): PAGE at CONTV too, whose frame waits for
the reply (R267), VPOOL only where the group stalls. -/
def State.recordKind (s : State) (gid : Nat) (c : Cause) : Option Nat :=
  if s.fatalTrap gid c then some 3
  else match c with
    | .page => some 0
    | .vpool => if (s.team (s.grp gid).team).dest .vpool == .stall then some 0 else none
    | _ => none

/-- The trap can be entered now: no MMA of the group is in flight (R223), and its record can be stored (R271, R277).
(DEDUCED, log entry 57.) -/
def State.canEnter (s : State) (gid : Nat) (c : Cause) : Bool :=
  !s.mmaInFlight gid &&
  match s.recordKind gid c with
  | none => true
  | some k => s.canPost (dieOf (s.grp gid).core) k

/-- Lanes of a mask get a new pcv and become ready. -/
def Group.sendTo (g : Group) (lanes : Nat) (pc : Word) : Group :=
  g.modLanes (fun i => lanes.testBit i) fun _ x => { x with status := .ready, pcv := pc, freed := none }

/-- Entry to TVEC (R264): the trap record is written, the group is in supervisor mode, and the lanes of TLANES alone are
runnable, at TVEC. For a trap that reached the group at no instruction, their status and pcv are kept (R434), and the mark
of R92 with them. -/
def Group.enterTvec (g : Group) (tvec : Word) (d : TrapDue) : Group :=
  let kept := if d.async then some (g.lanes.map fun x => (x.status, x.pcv, x.freed)) else none
  { (g.sendTo d.lanes tvec) with
    sup := true, supRun := d.lanes, cause := BitVec.ofNat 64 d.cause.code, epc := d.epc, tval := d.tval,
    tlanes := BitVec.ofNat 64 d.lanes, ttask := BitVec.ofNat 32 d.task, kept := kept, trapDue := none, wait := .none,
    latched := none, waitingSince := none }

/-- A running group after its state was parked (R266): every occupied lane that has not exited is ready at the vector
with the frame id, the cause and TVAL in o0, o1 and o2; registers with a write in flight are full with their old value;
REPI is 0. -/
def Group.enterUser (g : Group) (vec : Word) (frame : Nat) (c : Cause) (tval : Word) : Group :=
  let g := g.modLanes (fun i => (g.lane i).alive) fun _ x =>
    { x with status := .ready, pcv := vec, freed := none,
             th := { x.th with
               o := tset 2 tval (tset 1 (BitVec.ofNat 64 c.code) (tset 0 (BitVec.ofNat 64 frame) x.th.o)) } }
  let g := g.modLanes (fun _ => true) fun _ x => { x with th := { x.th with empties := [], pend := [] } }
  { g with qEmpty := [], qPend := [], repi := 0, repPc := none, repE := 0, trapDue := none, wait := .none, lockSt := [],
           latched := none, waitingSince := none }

/-- Parks the group's state in a frame of its team and enters a user vector (R266); with no frame free it does not park. -/
def State.park (s : State) (gid : Nat) (vec : Word) (c : Cause) (tval : Word) (until_ : FrameWait) : State :=
  let g := s.grp gid
  match (s.team g.team).freeFrame with
  | none => s.modGrp gid fun g => { g with trapDue := none }
  | some id =>
    let s := s.dropMonitors gid
    let s := s.modTeam g.team fun t =>
      { t with frames := tset id { gid := gid, st := g.toGState, until_ := until_, tagged := false } t.frames }
    s.setGrp gid (g.enterUser vec id c tval)

/-- The instruction at which a group stood has no effect (R32): its destinations are as they were, and what it had fetched
from another package goes. -/
def State.dropTry (s : State) (gid : Nat) : State := s.modGrp gid fun g => { g.unmark with fetched := [], last := false }

/-- EMPTY that waited for its entry finds CONTV zero, or no frame free: no trap is raised, and the instruction blocks (R59,
R266). -/
def State.emptyLapses (s : State) (gid : Nat) (c : Cause) : Bool :=
  let t := s.team (s.grp gid).team
  c == .empty && !t.canPark t.contv

/-- The trap is taken (R202, R262, R264, R266): the task aborts first, then the cause goes to its destination.
(DEDUCED, log entry 10; DEDUCED, log entry 57.) -/
def State.enterTrap (s : State) (gid : Nat) (d : TrapDue) : State :=
  let s := s.dropTry gid
  let g := s.grp gid
  let ctx := s.ctxOf g
  let tvec := (s.ctx ctx).tvec
  let abortAt := (tget g.taskId s.tasks).map fun k => k.abort
  if s.emptyLapses gid d.cause then s.modGrp gid fun g => { g with trapDue := none }
  else if s.fatalTrap gid d.cause then
    s.gridFatal (s.team g.team).grid g.core d.cause d.tval (if g.taskId == 0 then d.epc else abortAt.getD d.epc) g.team
  else
    -- R202: abort, o1 receives the trapping address in the lanes of E, EPC is the abort address
    let task := if d.async then d.task else g.taskId
    let s := if g.taskId == 0 then s
      else (s.abortTask gid d.cause.code).modGrp gid fun g =>
        g.modLanes (fun i => d.lanes.testBit i) fun _ x => { x with th := x.th.setO 1 d.epc }
    let d := { d with epc := if g.taskId == 0 then d.epc else abortAt.getD d.epc, task := task }
    let team := s.team g.team
    let r : EvRec := { kind := 0, cause := d.cause.code, core := g.core, val := d.tval, epc := d.epc, team := g.team, ctx := ctx }
    let seq := s.nextSeq % 2 ^ 32
    let s := if (s.recordKind gid d.cause).isSome then s.post (dieOf g.core) r else s
    let frame : FrameWait := match d.cause with
      | .empty => .full
      | .page => .reply seq
      | .vpool => (match g.noPool with | some p => .pool p | none => .now)
      | _ => .now
    match team.dest d.cause with
    | .contv => s.park gid team.contv d.cause d.tval frame
    | .wndv => s.park gid team.wndv d.cause d.tval frame
    | .stall =>
      s.modGrp gid fun g => { g with
        trapDue := none, latched := if task == 0 then some (d.epc, d.lanes) else none
        wait := match d.cause, g.noPool with
          | .vpool, some p => .pool p
          | _, _ => .page seq }
    | .tvec => (if d.async then s.dropMonitors gid else s).modGrp gid fun g => g.enterTvec tvec d

/-- An exception of the issuing group: it is taken at once, or it waits for the group's MMA or for room for its record,
with no effect meanwhile (R223, R277). -/
def State.raiseIn (s : State) (c : Cause) (tval : Word) (lanes : Nat) : State :=
  let d : TrapDue := { cause := c, tval := tval, epc := s.me.pc, lanes := lanes, async := false, task := s.me.taskId }
  if s.canEnter s.cur c then s.enterTrap s.cur d
  else s.modMe fun g => { g with trapDue := some d }

/-- An exception of every lane of E. -/
def State.raise (s : State) (c : Cause) (tval : Word) : State := s.raiseIn c tval s.me.eMask

/-- A trap that reaches the group at no instruction (R434): its lanes are all that are occupied and have not exited, EPC
the least of their pcvs, TVAL 0. -/
def State.raiseAsync (s : State) (gid : Nat) (c : Cause) (task : Nat) : State :=
  let g := s.grp gid
  let d : TrapDue := { cause := c, tval := 0, epc := (g.minPcOf g.aliveLanes).getD 0, lanes := maskOf g.aliveLanes,
                       async := true, task := task }
  if s.canEnter gid c then s.enterTrap gid d else s.modGrp gid fun g => { g with trapDue := some d }

/-! ### The return -/

/-- A status that was held back is brought up to date (R269, R434): a lane at a BART whose phase has released, or at a
BARG whose phase has, stands behind it; a lane at WAITA stands ready at it. -/
def Lane.renew (x : Lane) (bart barg : Nat) : Lane :=
  match x.status with
  | .waitB false p => if p < bart then x.release else x
  | .waitB true p => if p < barg then x.release else x
  | .waitA => { x with status := .ready }
  | _ => x

def State.renewLanes (s : State) (g : Group) : Group :=
  let t := s.team g.team
  (g.modLanes (fun _ => true) fun _ x => x.renew t.bartPhase (s.grid t.grid).bargPhase).checkAll

/-- The return of ERET (R265, R434): the lanes of TLANES go to EPC, or to the status and pcv kept for them; the group is
in user mode; an accumulator store held by the supervisor is freed, its contents discarded (R222). -/
def State.returnTrap (s : State) : State :=
  let g := s.me
  let lanes := g.tlanes.toNat
  let h : Group := match g.kept with
    | some l =>
      s.renewLanes (g.modLanes (fun i => lanes.testBit i) fun i x =>
        match l[i]? with | some (st, pc, fr) => { x with status := st, pcv := pc, freed := fr } | none => x)
    | none => g.sendTo lanes g.epc
  let rep := if g.repPc == some g.epc || g.kept.isSome then g.repPc else none
  let s := s.setMe { h with sup := false, supRun := 0, kept := none, repPc := rep, repSup := false, readyAt := s.tick, boosted := none }
  let c := s.tileCoreOf g
  if (s.core c).owner == .sup then s.modCore c fun x => { x with owner := .free, tiles := [] } else s

/-! ### The issue -/

/-- The privilege check of R79 (step 3): a supervisor control register or ERET in user mode raises PRIV; then a CSRW of a
read-only register raises ILL (R62). -/
def csrReadOnly (n : Nat) : Bool :=
  (5 ≤ n && n ≤ 0x0E) || n == 0x49 || n == 0x4B

def privCheck (i : Instr) (sup : Bool) : Option Cause :=
  match i with
  | .eret => if sup then none else some .priv
  | .csrr _ n => if decide (0x40 ≤ n.toNat) && !sup then some .priv else none
  | .csrw _ n =>
    if decide (0x40 ≤ n.toNat) && !sup then some .priv else if csrReadOnly n.toNat then some .ill else none
  | _ => none

/-- Checks 2 to 4 of R79: encoding, privilege, window. -/
def preCheck (i : Instr) (g : Group) (tix : Nat) : Option Cause :=
  if !i.wf g.W then some .ill
  else match privCheck i g.sup with
    | some c => some c
    | none => if windowOk (usesOf i g tix) g then none else some .winov

/-- A write of the group's is in flight to a register of one of its lanes, or to a q register (R353, R426). -/
def Group.writesOut (g : Group) : Bool := !g.qPend.isEmpty || g.lanes.any fun x => !x.th.pend.isEmpty

/-- A lane of E has an LDA whose value has not returned (R369). -/
def Group.ldaOut (g : Group) : Bool :=
  (g.qPend.any fun p => p.by_ == .lda && Nat.land p.lanes g.eMask != 0)
    || g.E.any fun l => (g.lane l).th.pend.any fun p => p.by_ == .lda

/-- OP of an instruction (R69). -/
def opNum (i : Instr) : Nat := ((encode i).getD 0).toNat / 2 ^ 24

/-- The OP values whose instructions access memory (R76): ray instructions, loads and stores, atomics, WAITA, MSAV, MRST,
BCPY, COLL, and TSKE, which commits a task's stores. -/
def accessOp (op : Nat) : Bool :=
  op == 0x58 || op == 0x59 || (0x70 ≤ op && op ≤ 0x76) || (0x7B ≤ op && op ≤ 0x8A) || (0xA0 ≤ op && op ≤ 0xBF)
    || op == 0xD8 || op == 0xE4 || op == 0xE5 || op == 0xE6 || op == 0xEB || op == 0xF5

/-- What holds an instruction beside the full/empty bits: BART arrives after every earlier result of the group is written
(R426), and no later access of a thread is performed before an LDA's value has returned (R369). -/
def State.orderHolds (s : State) (i : Instr) : Bool :=
  match i with
  | .bart => s.me.writesOut
  | _ => s.me.ldaOut && accessOp (opNum i)

/-- The readiness of an issue of the present group (R59, R369, R426); a team without a free frame has no CONTV to enter
(R266). -/
def State.ready (s : State) (i : Instr) : Ready :=
  match readiness (usesOf i s.me s.myTeam.tix) s.me (s.myTeam.canPark s.myTeam.contv) with
  | .go => if s.orderHolds i then .block else .go
  | r => r

/-- Every occupied lane of the group that has not exited waits at WAITK, BART or BARG: the clock of R47 starts.
(DEDUCED, log entry 47.) -/
def Group.noteWaiting (g : Group) (tick : Nat) : Group :=
  let l := g.aliveLanes
  let w := !l.isEmpty && l.all fun i => match (g.lane i).status with | .waitK _ | .waitB _ _ => true | _ => false
  { g with waitingSince := if w then some (g.waitingSince.getD tick) else none }

/-- What an issue leaves behind in the group: it is ready from now on, boosted no longer (R258), and waits no more. -/
def State.touch (s : State) : State :=
  s.modGrp s.cur fun g =>
    { (g.noteWaiting s.tick) with readyAt := s.tick, boosted := none, wait := .none, latched := none, fetched := [], last := false }

/-- Lanes go on at the addresses given (R32). -/
def Group.goTo (g : Group) (ts : List (Nat × Word)) : Group :=
  ts.foldl (fun g t => g.modLane t.1 fun x => { x with pcv := t.2, freed := none }) g

/-! ### Departure -/

/-- The segment that the group's core pins for its grid (R91). -/
def State.localSeg (s : State) (g : Group) : Option Seg :=
  (s.core g.core).seg.filter fun x => x.grid == (s.team g.team).grid

def Seg.holds (x : Seg) (a : Word) : Bool := decide (x.base ≤ a.toNat) && decide (a.toNat < x.base + x.len)

/-- A lane that goes from pc to T departs (R92): from the pinned segment to anywhere outside it; from other code by a
transfer into a segment that is not the core's own. -/
def State.departs (s : State) (g : Group) (x : Seg) (pc : Word) (fall : Bool) (T : Word) : Bool :=
  if x.holds T then false
  else if x.holds pc then true
  else !fall && T != pc + 4 && (s.segOf (s.smap (s.team g.team).grid) T.toNat).isSome

/-- The registers that travel from a lane (R94). -/
def Group.liveKeys (g : Group) (lv lo : Nat) : List RKey :=
  ((upTo lv).map fun n => RKey.v (g.wbase + n)) ++ (upTo lo).map fun n => RKey.o n

/-- Steps 1 to 3 of R93: the cause that stops the departure, and its TVAL. The window base is that under which the
registers travel: a WINB that departs has written its own. -/
def State.departCheck (s : State) (wbase : Nat) (m : SMap) (word : Word) (out : List (Nat × Word)) : Option (Cause × Word) :=
  let g := s.me
  let bad (t : Word) : Bool := (s.entryAt m t.toNat).isNone
  let wide (t : Word) : Bool := match s.entryAt m t.toNat with
    | some (_, _, lv, _, _) => decide (g.R < wbase + lv)
    | none => false
  let held := (s.team g.team).frames.any fun e => e.2.gid == s.cur
  match out.find? fun x => bad x.2 with
  | some x => some (.brentry, x.2)
  | none =>
    if g.taskId != 0 || held then some (.ill, word)
    else if out.any fun x => wide x.2 then some (.winov, word)
    else none

/-- Step 4 of R93: the registers that travel are full. -/
def State.departFull (s : State) (wbase : Nat) (m : SMap) (out : List (Nat × Word)) : Bool :=
  out.all fun x => match s.entryAt m x.2.toNat with
    | some (_, _, lv, lo, _) => (({ s.me with wbase := wbase } : Group).liveKeys lv lo).all fun k => s.me.fullKey x.1 k
    | none => true

/-- The departing instruction's own long-class writes to registers that travel complete before step 5 (R93, step 4). -/
def State.departFill (s : State) (m : SMap) (out : List (Nat × Word)) : State :=
  out.foldl (fun s x => match s.entryAt m x.2.toNat with
    | some (_, _, lv, lo, _) => s.modMe fun g => (g.liveKeys lv lo).foldl (fun g k => g.fillKey x.1 k) g
    | none => s) s

/-- The replica to which a thread goes (R93): the least occupied by the reports that the departing core has, or by the
hash of tid. A replica of which no report has come counts as empty. (DESIGN CHOICE, log entry 65.) -/
def State.chooseReplica (s : State) (core tid : Nat) (least : Bool) (reps : List (Nat × Nat)) : Option Nat :=
  if least then
    let occ (c : Nat) : Nat := tgetD (s.core core).occSeen c 0
    reps.foldl (fun b r => match b with
      | none => some r.2
      | some x => if occ r.2 < occ x || (occ r.2 == occ x && r.2 < x) then some r.2 else some x) none
  else (reps[tid * 40503 % 2 ^ 32 / 2 ^ 16 % reps.length]?).map fun r => r.2

/-- The record of a departing thread (R94). -/
def Group.packLane (g : Group) (l : Nat) (t : Word) (seg ent lv lo : Nat) : Rec :=
  let x := (g.lane l).th
  { team := g.team, tgt := t, bramble := true, seg := seg, ent := ent, lv := lv, lo := lo,
    th := { tid := x.tid, nzcv := x.nzcv, fpsr := x.fpsr,
            v := (upTo lv).map fun n => (n, tgetD x.v (g.wbase + n) 0),
            o := (upTo lo).map fun n => (n, tgetD x.o n 0) } }

/-- BROVF: fatal to the grid (R97). The manual states no TVAL for it (R262): the record's VAL is free (log entry 55). -/
def State.brovfGrid (s : State) (grid core team : Nat) : State :=
  let d := s.draw1
  d.2.gridFatal grid core .brovf (Config.freeWord d.1) 0 team

def State.brovf (s : State) (team core : Nat) : State := s.brovfGrid (s.team team).grid core team

/-- A lane has departed: it leaves every mask, and what was due to its thread travels with it (R38, R103). -/
def State.laneGone (s : State) (gid l : Nat) : State :=
  let t := s.carryDue gid [((s.grp gid).lane l).th.tid]
  t.modGrp gid fun g => (g.modLane l fun x => { x with status := .departed }).leaveMasks [l]

/-- The segment that a record names whose thread stays on its core (R94, R107): the one in which its target lies, or, where
it lies in none, the one that the core pins. -/
def State.staySeg (s : State) (g : Group) (t : Word) : Nat :=
  ((s.segOf (s.smap (s.team g.team).grid) t.toNat).or ((s.localSeg g).map fun x => x.seg)).getD 0

/-- The record of a thread that goes to the bins of its own core with its whole state (R42). -/
def State.homeRec (s : State) (g : Group) (l : Nat) (t : Word) : Rec :=
  let br := (s.grid (s.team g.team).grid).bramble
  let at_ := if br then s.entryAt (s.smap (s.team g.team).grid) t.toNat else none
  { team := g.team, tgt := t, th := (g.lane l).th, bramble := br, lv := g.R, lo := 16,
    seg := if br then s.staySeg g t else 0, ent := (at_.map fun e => e.2.1).getD 0 }

/-- Threads that go from one core to another see there what happened before (R94, R121, R145): where the clusters differ,
dirty SCO lines of the one are written back and SCO lines of the other are invalidated. -/
def State.handOver (s : State) (from_ to_ : Nat) : State :=
  if clusterOf from_ == clusterOf to_ then s else (s.scoRelease (clusterOf from_)).scoAcquire (clusterOf to_)

/-- BRENTRY at step 5 of R93: the lane and those after it stay, and the instruction has no effect in them (R86): they
stand as before it. -/
def State.departStops (s : State) (left : List Nat) (t : Word) : State :=
  (s.modMe fun g =>
    let h := g.before.foldl (fun g x => if left.contains x.1 then g.setLane x.1 x.2 else g) g
    { h with depart := none, before := [], force := false, wait := .none, latched := some ((h.lane (left.headD 0)).pcv, maskOf left) }).raiseIn .brentry t (maskOf left)

/-- The replica of a thread's send: the one that its step 5 chose, where it waits for room there (R107), and otherwise the
one that REPL names now. -/
def State.sendCore (s : State) (m : SMap) (l i : Nat) (least : Bool) : Option Nat :=
  match s.me.wait with
  | .room c _ => some c
  | _ => s.chooseReplica s.me.core (s.me.lane l).th.tid least (s.replicas m i)

/-- Steps 5 and 6 of R93, and the loop of R44, from the lanes that are still to be sent. -/
def State.runDepart : Nat → State → State
  | 0, s => s
  | n + 1, s =>
    let g := s.me
    match g.depart with
    | none => s
    | some ([], rest) =>
      (s.modMe fun g => { (g.goTo rest).noteWaiting s.tick with
        depart := none, before := [], wait := .none, latched := none, force := false, readyAt := s.tick, boosted := none }).groupCheck s.cur
    | some ((l, t, stay) :: more, rest) =>
      let left := (l :: more.map fun x => x.1) ++ rest.map fun x => x.1
      let sent (s : State) : State :=
        State.runDepart n ((s.laneGone s.cur l).modMe fun g =>
          { g with depart := some (more, rest), wait := .none, force := false })
      if stay then
        (match s.putRec g.core (s.homeRec g l t) with
         | some u => sent u
         | none => s.brovf g.team g.core)
      else
        let m := s.smap (s.team g.team).grid
        match s.entryAt m t.toNat with
        | none => s.departStops left t
        | some (i, e, lv, lo, least) =>
          match s.sendCore m l i least with
          | none => s.departStops left t
          | some c =>
            let r := g.packLane l t i e lv lo
            if s.arriveRoom c r then sent ((s.modCore c fun x => { x with transit := x.transit ++ [r] }).handOver g.core c)
            else if g.force then
              (match s.toRing c r with
               | some t => sent (t.handOver g.core c)
               | none => s.brovf g.team g.core)
            else
              let since := match g.wait with | .room _ k => k | _ => s.tick
              s.modMe fun g => { g with wait := .room c since }

/-- An instruction of the present group completes: `s` holds its effects, `s0` is the state in which it issued, and each
lane of E goes on at the address given; lanes that leave the pinned segment depart (R92, R93). `fall` says that every
lane goes on at the next word, `past` that they were released behind the segment's last word. -/
def State.leave (s0 s : State) (word : Word) (fall past : Bool) (ts : List (Nat × Word)) : State :=
  let stay := (s.modMe fun g => g.goTo ts).touch
  match s0.localSeg s0.me with
  | none => stay
  | some x =>
    let out := ts.filter fun t => past || s0.departs s0.me x s0.me.pc fall t.2
    if out.isEmpty then stay
    else
      let m := s0.smap x.grid
      match s0.departCheck s.me.wbase m word out with
      | some (c, v) => s0.raise c v
      | none =>
        if !s0.departFull s.me.wbase m out then s0.latch
        else
          let t := (s.departFill m out).modMe fun g =>
            { g with depart := some (out.map fun x => (x.1, x.2, false), ts.filter fun t => !out.contains t), wait := .none
                     latched := none, before := ts.map fun t => (t.1, s0.me.lane t.1) }
          t.runDepart (out.length + 2)

/-- The OP values of the long class (R75, R76), whose instructions mark their destinations empty; an atomic with d = z has
none. -/
def longOp (op : Nat) : Bool :=
  op == 0x58 || op == 0x59 || op == 0x67 || op == 0x70 || op == 0x71 || op == 0x74 || op == 0x75 || op == 0x7B
    || (0x80 ≤ op && op ≤ 0x86) || (0xA0 ≤ op && op ≤ 0xBF) || op == 0xC9 || op == 0xE1 || op == 0xF0 || op == 0xF1

/-- The destinations of a long-class instruction that has issued and waits are empty meanwhile (R58). -/
def State.holdDests (s : State) (i : Instr) (s0 : State) : State :=
  let ks := ((usesOf i s0.me s0.myTeam.tix).dsts.map fun d => s0.me.E.map fun l => (l, s0.me.key d)).flatten
  s.modGrp s.cur fun g => if longOp (opNum i) && !ks.isEmpty then g.markDests ks else g

/-- An instruction waits: its address and E are kept (R85). -/
def State.keep (s : State) (i : Instr) (s0 : State) : State :=
  (s.holdDests i s0).modGrp s.cur fun g =>
    if g.latched.isSome then g else { g with latched := some (s0.me.pc, s0.me.eMask) }

/-- An issue ends (R32). -/
def conclude (i : Instr) (s0 : State) (r : Res) : Out :=
  match r with
  | .done s => .next (s0.leave s (wordVal i) true false (s0.me.E.map fun l => (l, s0.me.pc + 4)))
  | .branch ts s => .next (s0.leave s (wordVal i) false false ts)
  | .jumped s => .next s.touch
  | .over s => .next s
  | .wait s => .next (s.keep i s0)
  | .trap c v s => .next (s.raise c v)
  | .trapIn c v m s => .next (s.raiseIn c v m)
  | .refuse r => .refused r

/-- The group can issue: it stands on its core with a nonempty E, and no trap of it waits for its entry. -/
def State.issuable (s : State) : Bool :=
  !s.me.E.isEmpty && s.me.trapDue.isNone && s.me.loc == .onCore

/-- The lanes of E stand behind their segment's last word, where a wait released them: those depart before they issue, with
EPC behind that word and TVAL 0 for a cause that has no word (R92). (DESIGN CHOICE, log entry 64.) -/
def State.pastLanes (s : State) : List Nat := s.me.E.filter fun l => (s.me.lane l).freed == some s.me.pc
def State.pastEnd (s : State) : Option Seg :=
  (s.localSeg s.me).filter fun x => s.me.pc.toNat == x.base + x.len && !s.me.sup && !s.pastLanes.isEmpty

/-- The issue of an instruction by the present group: a departure in progress goes on (R93); otherwise the checks of R79
in their order, then the meaning. -/
def issue (i : Instr) (sem : State → Res) (s : State) : Out :=
  if s.me.depart.isSome then .next (s.runDepart (s.me.W + 2))
  else if !s.issuable then .next s
  else if s.pastEnd.isSome then .next (s.leave s 0 false true (s.pastLanes.map fun l => (l, s.me.pc)))
  else
    let s := if s.me.marks.isEmpty then s else s.modMe Group.unmark
    match preCheck i s.me s.myTeam.tix with
    | some c => .next (s.raise c (wordVal i))
    | none =>
      match s.ready i with
      | .block => .next s.latch
      | .empty => .next (s.raise .empty 0)
      | .go => conclude i s (sem s)

/-! ### Results of the short, long and direct classes -/

/-- A short-class result: d and lat in each lane of E (R57), and NZCV where the instruction writes it. -/
def State.putShort (s : State) (d : Spec) (vals : List (Nat × Word)) (flags : List (Nat × Nzcv)) : State :=
  s.modMe fun g => ((g.writeAll (g.key d) vals).writeLat vals).writeFlags flags

/-- A direct-class result: d in each lane of E. -/
def State.putDirect (s : State) (d : Spec) (vals : List (Nat × Word)) : State :=
  s.modMe fun g => g.writeAll (g.key d) vals

/-- A long-class result: d is empty in the lanes of E until the values arrive (R58). -/
def State.putLong (s : State) (d : Spec) (vals : List (Nat × Word)) : State :=
  s.modMe fun g => g.pendAll (g.key d) vals fun _ => {}

/-- The values of a load (R58, R371), or of an LDA (R369). -/
def State.putLoad (s : State) (d : Spec) (vals : List (Nat × Word)) (by_ : PendBy := .load) : State :=
  s.modMe fun g => g.pendAll (g.key d) vals fun _ => { by_ := by_ }

end Sys2Proof.Machine
end

