-- ==== Sys2Proof/Machine/Access.lean ====
section
/-!
DEFINITION. Accesses of lanes to memory: one lane's load, store or atomic at its target (R123, R314, R365, R395), and the one driver
through which every load, store and atomic of a group goes: checks in lane order (R116), copy-on-write, remote requests
and their responses (R289, R290), whole-line stores (R130), and the lanes one by one.
-/
namespace Sys2Proof.Machine

/-! ### One lane's access -/

/-- The committed byte of physical memory as a core of a cluster reads it: through the cluster's copy on an SCO page. -/
def State.clusterByte (s : State) (cl : Nat) (ty : MType) (pa : Nat) : Byte :=
  match ty with
  | .sco => (match s.scoLine cl (lineOf pa) with | some x => x.byte (pa % 128) | none => mget pa s.mem)
  | .ro => (match s.roLine cl (lineOf pa) with | some x => x.byte (pa % 128) | none => mget pa s.mem)
  | _ => mget pa s.mem

/-- The caches before a read of bytes (R120, R126, R129, R365): partials on a line are collected before a copy of any type
is taken from its home. -/
def State.readPrep (s : State) (cl : Nat) (ty : MType) (pa n : Nat) : State :=
  match ty with
  | .coh => (linesOf pa n).foldl (fun s l => s.ensureRead cl l) s
  | .sco => (linesOf pa n).foldl (fun s l => s.scoFetch cl l) s
  | .ro => (linesOf pa n).foldl (fun s l => s.roFetch cl l) s
  | .dev => (linesOf pa n).foldl (fun s l => s.collect l) s

/-- Bytes loaded at a target (R123, R365). -/
def State.loadAt (s : State) (w : Who) (t : Target) (n : Nat) : List Byte × State :=
  match t with
  | .mem pa ty _ _ =>
    let cl := clusterOf w.core
    let s := s.readPrep cl ty pa n
    ((upTo n).map fun i =>
      if w.task == 0 then s.clusterByte cl ty (pa + i) else s.taskByte w.task (pa + i) (s.clusterByte cl ty), s)
  | .store tm off => (s.peekStore tm off n, s)
  | _ => ([], s)

/-- Bytes stored in a cluster's SCO copy, the line fetched first (R121), or at the home where the cluster takes no copy
(R13). -/
def State.scoStore (s : State) (cl pa : Nat) (bs : List Byte) : State :=
  (imapFrom (fun i b => (pa + i, b)) 0 bs).foldl (fun s e =>
    let s := s.scoFetch cl (lineOf e.1)
    match s.scoLine cl (lineOf e.1) with
    | some x => s.putSco (x.store (e.1 % 128) e.2)
    | none => s.homeWrite e.1 [e.2]) s

/-- Bytes stored at a target (R395); inside a task they are speculative (R198): `none` is TSKCAP. -/
def State.storeAt (s : State) (w : Who) (t : Target) (bs : List Byte) : Option State :=
  match t with
  | .mem pa ty dom va =>
    let cl := clusterOf w.core
    if w.task != 0 then
      (imapFrom (fun i b => (pa + i, b)) 0 bs).foldl (fun so e => so.bind fun s =>
        (s.specLine w.task (lineOf e.1) (dom.map fun d => (d, va / 65536))).map fun y =>
          let base := lineOf e.1 * 128
          -- a delta that the store cuts becomes bytes, combined with what its line holds now (R129, R199)
          let u := if (y.1.deltaAt (e.1 % 128)).isSome then y.2.readPrep cl ty e.1 1 else y.2
          u.setSpec w.task (y.1.put (e.1 % 128) [e.2] fun o => u.taskByte w.task (base + o) (u.clusterByte cl ty))) (some s)
    else
      match ty with
      | .coh => some (((linesOf pa bs.length).foldl (fun s l => s.ensureWrite cl l) s).poke pa bs)
      | .sco => some (s.scoStore cl pa bs)
      | _ => some (s.poke pa bs)
  | .store tm off => some (s.pokeStore tm off bs)
  | _ => some s

/-- An atomic at a target (R311, R314): the old value. A reduction form may run in U (R127), inside a task as a delta
(R199). `none` is TSKCAP. -/
def State.atomicAt (s : State) (w : Who) (t : Target) (op : AOp) (b e : Nat) (red : Bool) : Option (Nat × State) :=
  let n := op.size
  match t with
  | .mem pa ty dom va =>
    let cl := clusterOf w.core
    if w.task != 0 then
      (s.specLine w.task (lineOf pa) (dom.map fun d => (d, va / 65536))).map fun y =>
        let x := y.1
        let s := y.2
        let off := pa % 128
        let stored := (upTo n).any fun i => (tget (off + i) x.bytes).isSome
        let cut := x.deltas.any fun d => overlap d.1 d.2.1.size off n && !(d.1 == off && d.2.1 == op)
        if red && !stored && !cut then
          let v := match tget off x.deltas with | some (_, v) => v | none => op.ident
          (0, s.setSpec w.task { x with deltas := tset off (op, op.new v b 0) x.deltas })
        else
          -- it reads as a load of the task does: partials on the line are collected first (R129, R198)
          let s := s.readPrep cl ty pa n
          let get (p : Nat) : Byte := s.taskByte w.task p (s.clusterByte cl ty)
          let old := ofBytes ((upTo n).map fun i => get (pa + i))
          if op.writes old e then
            (old, s.setSpec w.task (x.put off (toBytes n (op.new old b e)) fun o => get (lineOf pa * 128 + o)))
          else (old, s)
    else
      match ty with
      | .coh => if red then some (0, s.reduce cl op pa b) else some (s.atomicHome pa op b e)
      | _ => some (s.atomicHome pa op b e)
  | .store tm off =>
    let old := ofBytes (s.peekStore tm off n)
    some (old, if op.writes old e then s.pokeStore tm off (toBytes n (op.new old b e)) else s)
  | _ => some (0, s)

/-! ### The driver -/

/-- What one lane does: a load, a store of a value, or an atomic. -/
inductive Acc where
  | load
  | store (x : Nat)
  | atomic (op : AOp) (b e : Nat) (red : Bool)
  deriving DecidableEq, Repr

def Acc.kind : Acc → AKind
  | .load => .load
  | .store _ => .store
  | .atomic _ _ _ _ => .atomic

/-- A lane's access: lane, address, bytes, the version that an LDV names (R166), for a piece of an access that is split
(R141, R289) the offset of its bytes in the value, and the global address behind the address (R111, R118). -/
structure LaneAcc where
  lane : Nat
  va : Word
  n : Nat
  acc : Acc
  ver : Option Nat := none
  voff : Nat := 0
  gva : Nat := 0
  deriving DecidableEq, Repr

/-- A lane's access with its targets. -/
abbrev Checked := LaneAcc × List (Target × Nat)

/-- A load of a named version (R166): of the open version it is a plain load; of an older one it reads the frame of the
newest record that serves it, which no task's line covers (R370). -/
def State.resolve (s : State) (ctx : Nat) (a : LaneAcc) (ts : List (Target × Nat)) : Except Cause Checked :=
  match a.ver, ts with
  | some v, [(.mem pa ty (some d) va, n)] =>
    if v < s.domOldest ctx d then .error .vret
    else if s.domOpen ctx d < v then .error .vfut
    else
      match s.vfind (s.pageEntry ctx d va) v with
      | none => .error .vret
      | some r =>
        if v == s.domOpen ctx d then .ok ({ a with ver := none }, ts)
        else .ok (a, [(.mem (r.frame + pa % 65536) ty (some d) va, n)])
  | _, _ => .ok ({ a with ver := none }, ts)

/-- The global address behind a global or private address; local store has none (R111). -/
def State.gvaOf (s : State) (w : Who) (va : Word) (n : Nat) : Nat :=
  match s.globalOf w va n with
  | .ok (some a) => a
  | _ => 0

/-- Checks of all lanes in ascending order: the first that fails reports (R116, R166). -/
def State.checkLanes (s : State) (g : Group) (align : Bool) : List LaneAcc → Except (Cause × Word) (List Checked)
  | [] => .ok []
  | a :: rest =>
    match s.targets (s.who g a.lane) a.va a.n (if align then a.n else 1) a.acc.kind with
    | .error c => .error (c, a.va)
    | .ok t =>
      match s.resolve (s.ctxOf g) { a with gva := s.gvaOf (s.who g a.lane) a.va a.n } t with
      | .error c => .error (c, a.va)
      | .ok c =>
        match s.checkLanes g align rest with
        | .error e => .error e
        | .ok r => .ok (c :: r)

/-- Where a target's place is watched by anchors (R407). -/
def Target.place : Target → Option Place
  | .mem pa _ _ _ => some (.phys pa)
  | .store t off => some (.store t off)
  | .remote q pa _ => some (.remote q pa)
  | .device _ => none

/-- After an access, the thread's anchors on its bytes are gone; an 8-byte atomic leaves a new one, which starts with the
value it wrote, or read where an ACAS did not write (R407); of a reduction in U, and of an atomic in a guarded task, the
write is still to come. On another package the anchor is the tag of the atomic's request. -/
def State.anchor (s : State) (w : Who) (t : Target) (n : Nat) (new : Option (List Word)) : State :=
  match t.place with
  | none => s
  | some p =>
    let keep := s.anchors.filter fun a => a.peer.isSome || !(a.team == w.team && a.tid == w.tid && a.place.hit p n)
    { s with anchors := match new with
        | some v => keep ++ [{ team := w.team, tid := w.tid, place := p, vals := v, rtag := s.nextRtag % 2 ^ 17, task := w.task }]
        | none => keep }

/-- One lane's access is performed: its value, and `none` for TSKCAP. -/
def State.perform (s : State) (g : Group) (c : Checked) : Option (Nat × State) :=
  let w := { s.who g c.1.lane with task := if c.1.ver.isSome then 0 else g.taskId }
  match c.1.acc with
  | .load =>
    let r := c.2.foldl (fun a t => let y := a.2.loadAt w t.1 t.2; (a.1 ++ y.1, y.2.anchor w t.1 t.2 none)) (([] : List Byte), s)
    some (ofBytes r.1, r.2)
  | .store x =>
    let bs := toBytes c.1.n x
    (c.2.foldl (fun a t => a.bind fun y =>
      (y.2.storeAt w t.1 (y.1.take t.2)).map fun z => (y.1.drop t.2, z.anchor w t.1 t.2 none)) (some (bs, s))).map fun y => (0, y.2)
  | .atomic op b e red =>
    match c.2 with
    | (t, n) :: _ =>
      (s.atomicAt w t op b e red).map fun y =>
        let later : Bool := match t with
          | .mem pa .coh _ _ => w.task != 0 || (red && (match y.2.lineSt (clusterOf w.core) (lineOf pa) with | some (.U _) => true | _ => false))
          | .mem _ _ _ _ => w.task != 0
          | _ => false
        let new := if op.size != 8 then none
          else if later then some []
          else match red, t with
            | true, .mem pa .coh _ _ => some [BitVec.ofNat 64 (y.2.word8 (.phys pa))]
            | _, _ => some [BitVec.ofNat 64 (if op.writes y.1 e then op.new y.1 b e else y.1)]
        (y.1, y.2.anchor w t n new)
    | [] => some (0, s)

/-- Two lanes touch a common byte. -/
def clash (a b : Checked) : Bool :=
  a.2.any fun x => b.2.any fun y =>
    match x.1.place, y.1.place with
    | some (.phys p), some (.phys q) => overlap p x.2 q y.2
    | some (.store t p), some (.store u q) => t == u && overlap p x.2 q y.2
    | _, _ => false

def anyClash : List Checked → Bool
  | [] => false
  | a :: r => r.any (clash a) || anyClash r

/-- Takes the element at an index out. (DESIGN CHOICE, log entry 4.) -/
def pick {α : Type} : Nat → List α → Option (α × List α)
  | _, [] => none
  | 0, x :: r => some (x, r)
  | n + 1, x :: r => (pick n r).map fun y => (y.1, x :: y.2)

/-- The order of lanes that touch one location is open (R312, R395): one of their orders, by free choices; on DEV pages
lanes go in ascending order (R122). -/
def freeOrder {α : Type} : Nat → State → List α → List α × State
  | 0, s, l => (l, s)
  | n + 1, s, l =>
    match pick (Config.freeChoice s.fresh % l.length) l with
    | none => (l, s)
    | some (x, r) => let y := freeOrder n { s with fresh := s.fresh + 1 } r; (x :: y.1, y.2)

def orderLanes (s : State) (l : List Checked) : List Checked × State :=
  let dev := l.any fun c => c.2.any fun t => match t.1 with | .mem _ .dev _ _ => true | _ => false
  if !dev && anyClash l && l.any fun c => c.1.acc != .load then freeOrder l.length s l else (l, s)

/-- The lanes in some order: values by lane; `none` for TSKCAP. (DESIGN CHOICE, log entry 19.) -/
def performAll (g : Group) : List Checked → State → Option (List (Nat × Nat) × State)
  | [], s => some ([], s)
  | c :: r, s =>
    match s.perform g c with
    | none => none
    | some (v, t) => (performAll g r t).map fun y => ((c.1.lane, v * 2 ^ (8 * c.1.voff)) :: y.1, y.2)

/-- A store that covers one aligned line whole, every lane of the group executing (R130): the line and its bytes. Only a line
of a COH page goes as WrL. (DESIGN CHOICE, log entry 60.) The forms that can meet it are plain stores (R395). -/
def wholeLine (g : Group) (l : List Checked) : Option (Nat × Nat) :=
  match l with
  | (a, [(.mem pa .coh _ _, n)]) :: _ =>
    let line := lineOf pa
    let offs := l.filterMap fun c => match c with
      | ({ acc := .store x, .. }, [(.mem p .coh _ _, m)]) => if lineOf p == line && p % m == 0 && m == n then some (p % 128, x % 2 ^ (8 * m)) else none
      | _ => none
    if a.acc.kind == .store && l.length == g.W && offs.length == g.W && g.W * n == 128
        && (offs.map fun o => o.1).eraseDups.length == g.W then
      some (line, offs.foldl (fun x o => x + o.2 * 2 ^ (8 * o.1)) 0)
    else none
  | _ => none

/-- The copies that the lanes' pages need (R172): the state with the copies begun and the page waited for, or the pool
that is empty with the address that met it. -/
def State.cowLanes (s : State) (g : Group) : List Checked → Except (Pool × Word) (Option (Nat × Nat) × State)
  | [] => .ok (none, s)
  | c :: rest =>
    let ctx := s.ctxOf g
    let need := if c.1.acc == .load || g.taskId != 0 then [] else c.2.filterMap fun t => match t.1 with
      | .mem _ _ (some d) va => if s.needsCow ctx d va then some (d, va) else none
      | _ => none
    let go := need.foldl (fun r x => match r with
      | .error p => .error p
      | .ok s => s.cowStart ctx x.1 x.2) (Except.ok s : Except Pool State)
    match go with
    | .error p => .error (p, c.1.va)
    | .ok t =>
      match t.cowLanes g rest with
      | .error p => .error p
      | .ok (w, u) => .ok ((match need with | (_, va) :: _ => some (ctx, va / 65536) | [] => w), u)

def Target.far (t : Target) : Bool := match t with | .remote _ _ _ => true | _ => false
def Target.dev (t : Target) : Bool := match t with | .remote _ _ d => d | .mem _ ty _ _ => ty == .dev | _ => false
def hasRemote (l : List Checked) : Bool := l.any fun c => c.2.any fun t => t.1.far

/-- The part of a lane's access that starts at an offset of its value. -/
def LaneAcc.piece (a : LaneAcc) (voff n : Nat) : LaneAcc :=
  { a with va := a.va + BitVec.ofNat 64 voff, n := n, voff := voff, gva := (a.gva + voff) % 2 ^ 56
           acc := match a.acc with
             | .store x => .store (x / 2 ^ (8 * voff))
             | y => y }

/-- A lane's access, one piece for each of its targets (R141). -/
def piecesFrom (a : LaneAcc) : Nat → List (Target × Nat) → List Checked
  | _, [] => []
  | voff, (t, n) :: r => (a.piece voff n, [(t, n)]) :: piecesFrom a (voff + n) r
def pieces (c : Checked) : List Checked := piecesFrom c.1 0 c.2

/-- The blocks of 256 bytes that a piece in another package touches, a request each (R289). -/
def inBlocks (c : Checked) : List Checked :=
  match c.2 with
  | [(.remote q pa d, n)] =>
    let m := 256 - pa % 256
    if n ≤ m then [c]
    else
      [({ c.1.piece 0 m with voff := c.1.voff }, [(.remote q pa d, m)]),
       ({ c.1.piece m (n - m) with voff := c.1.voff + m }, [(.remote q (pa + m) d, n - m)])]
  | _ => [c]

/-- The target of a device register, if a lane has one. (DESIGN CHOICE, log entry 16.) -/
def deviceOf (l : List Checked) : Option Nat :=
  l.findSome? fun c => c.2.findSome? fun t => match t.1 with | .device pa => some pa | _ => none

/-- A load, or an atomic's read, that would take data with an uncorrectable error never completes with it (R277). -/
def State.badData (s : State) (l : List Checked) : Bool :=
  !s.bad.isEmpty && l.any fun c => c.1.acc.kind != .store && c.2.any fun t => match t.1 with
    | .mem pa _ _ _ => (linesOf pa t.2).any fun x => s.bad.contains x
    | _ => false

/-- The requests for pieces that lie in the 256 bytes of one package from an address on, a block's (R289): one that merges
them, with a byte mask; for an atomic, one for each lane. -/
def blockAsks (q base : Nat) (l : List (LaneAcc × Nat × Nat)) : List RemAsk :=
  let atoms := l.filterMap fun p => match p.1.acc with
    | .atomic op b e _ =>
      some ({ peer := q, kind := 2, pa := base + p.2.1, op := op.num, parts := [(p.1.lane, 0, p.2.2, 0)], mask := 0,
              data := toBytes op.size b ++ toBytes op.size e, vas := [(p.1.gva, p.1.n)] } : RemAsk)
    | _ => none
  let plain := l.filter fun p => p.1.acc.kind != .atomic
  if plain.isEmpty then atoms
  else
    let isStore := plain.any fun p => p.1.acc.kind == .store
    let data := if isStore then
        (upTo 256).map fun i => plain.foldl (fun b p => match p.1.acc with
          | .store x => if p.2.1 ≤ i && i < p.2.1 + p.2.2 then (toBytes p.2.2 x).getD (i - p.2.1) 0 else b
          | _ => b) (0 : Byte)
      else []
    atoms ++ [{ peer := q, kind := if isStore then 1 else 0, pa := base, op := 0
                parts := plain.map fun p => (p.1.lane, p.2.1, p.2.2, p.1.voff)
                mask := plain.foldl (fun m p => Nat.lor m ((2 ^ p.2.2 - 1) * 2 ^ p.2.1)) 0
                data := data, vas := plain.map fun p => (p.1.gva, p.1.n) }]

/-- Pieces in other packages, merged by package and block, and their requests (R289). -/
def farAsks (l : List Checked) : List RemAsk :=
  let ps := l.filterMap fun c => match c.2 with
    | [(.remote q pa _, n)] => some (q, pa / 256, c.1, pa % 256, n)
    | _ => none
  (((ps.map fun p => (p.1, p.2.1)).eraseDups).map fun k =>
    blockAsks k.1 (k.2 * 256) ((ps.filter fun p => p.1 == k.1 && p.2.1 == k.2).map fun p => p.2.2)).flatten

/-- The request of one DEV access, which is neither merged nor split (R122): within one block at another package (R289), as it
stands at host memory, which is the package's own. -/
def devAsk (me : Nat) (c : Checked) : List RemAsk :=
  match c.2 with
  | [(.remote q pa _, n)] => blockAsks q (pa / 256 * 256) [(c.1, pa % 256, n)]
  | [(.mem pa _ _ _, n)] => blockAsks me pa [(c.1, 0, n)]
  | _ => []

/-- Sends requests of the issuing group. -/
def State.sendAsks (s : State) (l : List RemAsk) : State := l.foldl State.remoteSend s

/-- The next of the requests that go out one after the other (R122): to another package, or here at once. -/
def State.nextAsk (s : State) : State :=
  match s.me.asks with
  | [] => s
  | a :: r =>
    let s := s.modMe fun g => { g with asks := r }
    if a.peer == s.position then
      if a.kind != 1 && s.poisoned a.pa (a.parts.foldl (fun m p => max m (p.2.1 + p.2.2.1)) 1) then s.modMe fun g => { g with asks := a :: r }
      else
      let x := s.serveHome a.kind a.pa a.op a.data a.mask
      x.2.2.modMe fun g => { g with remote := g.remote ++ a.answers 0 x.2.1 }
    else s.remoteSend a

/-- Anchors that a lane's remote access ends, and the one that an 8-byte atomic leaves (R407). -/
def State.farAnchor (s : State) (g : Group) (c : Checked) : State :=
  let new : Option (List Word) := match c.1.acc with
    | .atomic op _ _ _ => if op.size == 8 then some [] else none
    | _ => none
  c.2.foldl (fun s t => s.anchor (s.who g c.1.lane) t.1 t.2 new) s

/-- Pieces go to other packages: anchors first, then the requests. An atomic's anchor takes the tag of its own request, so
the pieces go one by one where they are atomics. -/
def State.sendRemote (s : State) (l : List Checked) : State :=
  let g := s.me
  let atoms := l.filter fun c => c.1.acc.kind == .atomic
  let plain := l.filter fun c => c.1.acc.kind != .atomic
  let s := atoms.foldl (fun s c => (s.farAnchor g c).sendAsks (farAsks [c])) s
  (plain.foldl (fun s c => s.farAnchor g c) s).sendAsks (farAsks plain)

/-- The cause of remote failures: statuses 3 PEERRST, 1 FABDENY, 2 TGTERR (R290). -/
def remoteCause (st : List Nat) : Cause := if st.contains 3 then .peerrst else if st.contains 1 then .fabdeny else .prot

/-- The lanes of a remote access after every response (R290): the pieces of each lane's value together. Where a response is not
OK, a lane whose write or atomic was performed completes; of a load no lane does (R371). -/
def State.finishRemote (s : State) (E : List LaneAcc) (fin : List (Nat × Nat) → State → State) : Res :=
  let rs := s.me.remote
  let s := s.modMe fun g => { g with remote := [] }
  let bad (l : Nat) : Bool := rs.any fun r => r.1 == l && r.2.1 != 0
  let val (l : Nat) : Nat := rs.foldl (fun x r => if r.1 == l then x + r.2.2 else x) 0
  match E.filter fun a => bad a.lane with
  | [] => .done (fin (E.map fun a => (a.lane, val a.lane)) s)
  | f :: _ =>
    let c := remoteCause (rs.map fun r => r.2.1)
    let good := E.filter fun a => !bad a.lane && a.acc != .load
    let g := s.me
    if good.isEmpty then .trapIn c f.va (maskOf (E.map fun a => a.lane)) s
    else
      let s := fin (good.map fun a => (a.lane, val a.lane)) s
      -- a q register takes the value of the lowest lane of E, or none (R56)
      let s := if bad g.lowE then s.modMe fun h => { h with q := g.q, qEmpty := g.qEmpty, qPend := g.qPend } else s
      -- they have passed the instruction: behind a segment's last word they depart before they issue (R92)
      .trapIn c f.va (maskOf ((E.filter fun a => bad a.lane).map fun a => a.lane))
        (s.modMe fun g => g.modLanes (fun i => good.any fun a => a.lane == i) fun _ x => x.pass)

/-- A group's remote accesses: the next request goes out once the one before it has been answered, and when all are
answered the instruction goes on (R122, R290). -/
def State.awaitRemote (s : State) (fin : State → Res) : Res :=
  if s.remReqs.any fun r => r.gid == s.cur && r.use == .lanes then .wait s
  else if !s.me.asks.isEmpty then .wait s.nextAsk
  else fin s

/-- The accesses of a store that went as WrL (R130) are the latest of their threads to its bytes (R407). -/
def State.lineAnchors (s : State) (g : Group) (l : List Checked) : State :=
  l.foldl (fun s c => c.2.foldl (fun s t => s.anchor (s.who g c.1.lane) t.1 t.2 none) s) s

/-- How a memory instruction's accesses are performed: those that go one after the other (R122), those that go to other
packages together (R289), and the rest, which are performed at once. A lane with a piece in another package, or on a DEV
page beside such lanes, goes piece by piece. -/
def splitAccs (cs : List Checked) : List Checked × List Checked × List Checked :=
  if !hasRemote cs then ([], [], cs)
  else
    let ps := (cs.map fun c => if hasRemote [c] || c.2.any fun t => t.1.dev then pieces c else [c]).flatten
    let dev (c : Checked) : Bool := c.2.any fun t => t.1.dev
    (((ps.filter dev).map inBlocks).flatten, ((ps.filter fun c => !dev c && hasRemote [c]).map inBlocks).flatten,
      ps.filter fun c => !dev c && !hasRemote [c])

/-- A memory instruction of the group: every lane's access, what precedes the accesses once the checks have passed, and
what to do with the values (R311, R364, R394). `align` says that every lane's address must be aligned: such a form is no
plain store (R395). (DESIGN CHOICE, log entry 19.) -/
def memOp (align : Bool) (pre : State → State) (l : List LaneAcc) (fin : List (Nat × Nat) → State → State) (s : State) : Res :=
  let g := s.me
  if g.wait == .remote then s.awaitRemote fun s => s.finishRemote l fin
  else
    let s := l.foldl (fun s a => s.prefetch (s.who g a.lane) a.va a.n) s
    if l.any fun a => s.walkHeld (s.who g a.lane) a.va a.n then .wait (s.modMe fun g => { g with wait := .bad })
    else
    match s.checkLanes g align l with
    | .error (c, va) => .trap c va s
    | .ok cs =>
      match deviceOf cs with
      | some pa => .refuse (.deviceRegister pa)
      | none =>
        match s.cowLanes g cs with
        | .error (p, va) => .trap .vpool va (s.modMe fun g => { g with noPool := some p })
        | .ok (some (c, v), t) => .wait (t.modMe fun g => { g with wait := .cow c v })
        | .ok (none, s) =>
          if s.badData cs then .wait (s.modMe fun g => { g with wait := .bad })
          else
            let s := pre s
            let p := splitAccs cs
            match (if g.taskId == 0 && !align then wholeLine g p.2.2 else none) with
            | some (line, x) =>
              .done (fin (l.map fun a => (a.lane, 0))
                (((s.drainLine drainFuel line).request line (clusterOf g.core) (.wrL x)).lineAnchors g p.2.2))
            | none =>
              let o := orderLanes s p.2.2
              match performAll g o.1 o.2 with
              | none => .jumped (s.abortTask s.cur Cause.tskcap.code)
              | some (vals, t) =>
                if !hasRemote cs then .done (fin (l.map fun a => (a.lane, tgetD vals a.lane 0)) t)
                else
                  let u := (t.modMe fun g => { g with
                    wait := .remote, remote := vals.map (fun v => (v.1, 0, v.2))
                    asks := (p.1.map (devAsk t.position)).flatten }).sendRemote p.2.1
                  .wait (p.1.foldl (fun s c => s.farAnchor g c) u).nextAsk

/-! ### Ordering -/

/-- The team's threads span clusters (R121): a Bramble kernel whose placement names cores of several clusters. -/
def State.spans (s : State) (team : Nat) : Bool :=
  let tm := s.team team
  (s.grid tm.grid).bramble && (s.placement (s.smap tm.grid)).any fun c => clusterOf c != clusterOf tm.home

/-- The scope asks for the SCO actions (R121): .die and wider, and .team where the team spans clusters. -/
def State.scoScope (s : State) (scope : Nat) : Bool :=
  decide (2 ≤ scope) || (scope == 0 && s.spans s.me.team)

/-- The SCO action of a release, and of an acquire, at a scope (R121, R147). -/
def State.release (s : State) (scope : Nat) : State := if s.scoScope scope then s.scoRelease (clusterOf s.me.core) else s
def State.acquire (s : State) (scope : Nat) : State := if s.scoScope scope then s.scoAcquire (clusterOf s.me.core) else s

/-- Values of every lane of E from its source. -/
def State.laneAccs (s : State) (f : Nat → LaneAcc) : List LaneAcc := s.me.E.map f

end Sys2Proof.Machine
end

