-- ==== Sys2Proof/Machine/Alu.lean ====
section
/-!
DEFINITION. Integer arithmetic, bit fields, shifts, comparisons, moves and constants: R318 to R322, R330, R331, R339,
R374 to R377, R387, R388, R390. Every result is short class: d and lat in the lanes of E, and NZCV where W asks.
-/
namespace Sys2Proof.Machine

/-- A short-class operation: each lane of E computes a result and flags from its own sources, all read before any write
(R86); flags are written when `w` is set (R60). -/
def shortOp (d : Spec) (w : BitVec 1) (f : Nat → Word × Nzcv) (s : State) : Res :=
  let r := s.me.E.map fun l => (l, f l)
  .done (s.putShort d (r.map fun x => (x.1, x.2.1)) (if w == 1 then r.map fun x => (x.1, x.2.2) else []))

/-- A result whose flags are N and Z, C and V cleared (R60). -/
def plain (x : Word) : Word × Nzcv := (x, logicNzcv x)

/-- Two register sources. -/
def bin (d a b : Spec) (w : BitVec 1) (f : Word → Word → Word × Nzcv) (s : State) : Res :=
  shortOp d w (fun l => f (s.rd a l) (s.rd b l)) s

/-- One register source. -/
def un (d a : Spec) (w : BitVec 1) (f : Word → Word × Nzcv) (s : State) : Res :=
  shortOp d w (fun l => f (s.rd a l)) s

/-- A source and an immediate; no flags (R321). -/
def immOp (d a : Spec) (f : Word → Word) (s : State) : Res := shortOp d 0 (fun l => plain (f (s.rd a l))) s

/-- C of a lane as it stands before the instruction (R318, R388). -/
def State.carry (s : State) (l : Nat) : Bool := Flags.c (s.me.lane l).th.nzcv

/-- A ten-bit immediate, sign-extended (R71). -/
def imm10 (i : BitVec 10) : Word := i.signExtend 64

/-- Signed and unsigned quotient and remainder (R211, R339, R374). -/
def divS (a b : Word) : Word := if b == 0 then BitVec.allOnes 64 else a.sdiv b
def divZ (a b : Word) : Word := if b == 0 then BitVec.allOnes 64 else a.udiv b
def remS (a b : Word) : Word := if b == 0 then a else a.srem b
def remZ (a b : Word) : Word := if b == 0 then a else a.umod b

/-- Bits [127:64] of the product (R374). -/
def mulhS (a b : Word) : Word := BitVec.ofInt 64 (a.toInt * b.toInt / 2 ^ 64)
def mulhZ (a b : Word) : Word := BitVec.ofNat 64 (a.toNat * b.toNat / 2 ^ 64)
def mulW (a b : Word) : Word := ((a.setWidth 32 * b.setWidth 32 : BitVec 32)).signExtend 64

/-- Ones, leading zeros and reversal (R318, R374). -/
def popc (a : Word) : Word := BitVec.ofNat 64 ((upTo 64).filter fun i => a.getLsbD i).length
def clz (a : Word) : Word := BitVec.ofNat 64 (64 - bitLen a.toNat)
def brev (a : Word) : Word := BitVec.ofNat 64 (maskOf ((upTo 64).filter fun i => a.getLsbD (63 - i)))

/-- Bit fields: position b[5:0], length b[13:8] (R319). -/
def fieldMask (b : Word) : Word := BitVec.ofNat 64 (2 ^ bitsOf b.toNat 13 8 - 1)
def fieldPos (b : Word) : Nat := bitsOf b.toNat 5 0
def bfx (a b : Word) : Word := (a >>> fieldPos b) &&& fieldMask b
def bfi (d a b : Word) : Word :=
  (d &&& ~~~(fieldMask b <<< fieldPos b)) ||| ((a &&& fieldMask b) <<< fieldPos b)

/-- Shifts by b[5:0] (R387). -/
def shlBy (a : Word) (n : Nat) : Word := a <<< (n % 64)
def shrBy (a : Word) (n : Nat) : Word := a >>> (n % 64)
def sarBy (a : Word) (n : Nat) : Word := a.sshiftRight (n % 64)

/-- The lesser and the greater of two values (R374). -/
def minS (a b : Word) : Word := if a.toInt ≤ b.toInt then a else b
def maxS (a b : Word) : Word := if b.toInt ≤ a.toInt then a else b
def minZ (a b : Word) : Word := if a.toNat ≤ b.toNat then a else b
def maxZ (a b : Word) : Word := if b.toNat ≤ a.toNat then a else b

/-- A comparison: lat receives a − b (R57, R320), NZCV is always written. -/
def compare (fl : Word → Word → Nzcv) (a b : Nat → Word) (s : State) : Res :=
  shortOp 0x79#7 1 (fun l => (a l - b l, fl (a l) (b l))) s

/-- The R77 condition that a SEL code selects (R390). -/
def selCond (c : Nat) : Nat :=
  match c with
  | 0 => 0x0 | 1 => 0x1 | 2 => 0xB | 3 => 0xA | 4 => 0x3 | 5 => 0x2 | 6 => 0x4 | _ => 0x6

/-- ADD: a + b (R318). -/
def semAdd (d : Spec) (a : Spec) (b : Spec) (w : BitVec 1) : State → Res :=
  (bin d a b w fun x y => addWith x y false)
def execAdd (d a b : Spec) (w f g : BitVec 1) (s : State) : Out := issue (.add d a b w f g) (semAdd d a b w) s

/-- SUB: a − b (R388). -/
def semSub (d : Spec) (a : Spec) (b : Spec) (w : BitVec 1) : State → Res :=
  (bin d a b w fun x y => subWith x y true)
def execSub (d a b : Spec) (w f g : BitVec 1) (s : State) : Out := issue (.sub d a b w f g) (semSub d a b w) s

/-- MUL: the low 64 bits of the product (R374). -/
def semMul (d : Spec) (a : Spec) (b : Spec) (w : BitVec 1) : State → Res :=
  (bin d a b w fun x y => plain (x * y))
def execMul (d a b : Spec) (w f g : BitVec 1) (s : State) : Out := issue (.mul d a b w f g) (semMul d a b w) s

/-- MULH.S: the high 64 bits of the signed product (R374). -/
def semMulhS (d : Spec) (a : Spec) (b : Spec) (w : BitVec 1) : State → Res :=
  (bin d a b w fun x y => plain (Sys2Proof.Machine.mulhS x y))
def execMulhS (d a b : Spec) (w f g : BitVec 1) (s : State) : Out := issue (.mulhS d a b w f g) (semMulhS d a b w) s

/-- MULH.Z: the high 64 bits of the unsigned product (R374). -/
def semMulhZ (d : Spec) (a : Spec) (b : Spec) (w : BitVec 1) : State → Res :=
  (bin d a b w fun x y => plain (Sys2Proof.Machine.mulhZ x y))
def execMulhZ (d a b : Spec) (w f g : BitVec 1) (s : State) : Out := issue (.mulhZ d a b w f g) (semMulhZ d a b w) s

/-- AND (R318). -/
def semAnd (d : Spec) (a : Spec) (b : Spec) (w : BitVec 1) : State → Res :=
  (bin d a b w fun x y => plain (x &&& y))
def execAnd (d a b : Spec) (w f g : BitVec 1) (s : State) : Out := issue (.and d a b w f g) (semAnd d a b w) s

/-- OR (R374). -/
def semOr (d : Spec) (a : Spec) (b : Spec) (w : BitVec 1) : State → Res :=
  (bin d a b w fun x y => plain (x ||| y))
def execOr (d a b : Spec) (w f g : BitVec 1) (s : State) : Out := issue (.or d a b w f g) (semOr d a b w) s

/-- XOR (R388). -/
def semXor (d : Spec) (a : Spec) (b : Spec) (w : BitVec 1) : State → Res :=
  (bin d a b w fun x y => plain (x ^^^ y))
def execXor (d a b : Spec) (w f g : BitVec 1) (s : State) : Out := issue (.xor d a b w f g) (semXor d a b w) s

/-- SHL by b[5:0] (R387). -/
def semShl (d : Spec) (a : Spec) (b : Spec) (w : BitVec 1) : State → Res :=
  (bin d a b w fun x y => plain (shlBy x y.toNat))
def execShl (d a b : Spec) (w f g : BitVec 1) (s : State) : Out := issue (.shl d a b w f g) (semShl d a b w) s

/-- SHR by b[5:0] (R387). -/
def semShr (d : Spec) (a : Spec) (b : Spec) (w : BitVec 1) : State → Res :=
  (bin d a b w fun x y => plain (shrBy x y.toNat))
def execShr (d a b : Spec) (w f g : BitVec 1) (s : State) : Out := issue (.shr d a b w f g) (semShr d a b w) s

/-- SAR by b[5:0] (R387). -/
def semSar (d : Spec) (a : Spec) (b : Spec) (w : BitVec 1) : State → Res :=
  (bin d a b w fun x y => plain (sarBy x y.toNat))
def execSar (d a b : Spec) (w f g : BitVec 1) (s : State) : Out := issue (.sar d a b w f g) (semSar d a b w) s

/-- MIN.S (R374). -/
def semMinS (d : Spec) (a : Spec) (b : Spec) (w : BitVec 1) : State → Res :=
  (bin d a b w fun x y => plain (Sys2Proof.Machine.minS x y))
def execMinS (d a b : Spec) (w f g : BitVec 1) (s : State) : Out := issue (.minS d a b w f g) (semMinS d a b w) s

/-- MAX.S (R374). -/
def semMaxS (d : Spec) (a : Spec) (b : Spec) (w : BitVec 1) : State → Res :=
  (bin d a b w fun x y => plain (Sys2Proof.Machine.maxS x y))
def execMaxS (d a b : Spec) (w f g : BitVec 1) (s : State) : Out := issue (.maxS d a b w f g) (semMaxS d a b w) s

/-- MIN.Z (R374). -/
def semMinZ (d : Spec) (a : Spec) (b : Spec) (w : BitVec 1) : State → Res :=
  (bin d a b w fun x y => plain (Sys2Proof.Machine.minZ x y))
def execMinZ (d a b : Spec) (w f g : BitVec 1) (s : State) : Out := issue (.minZ d a b w f g) (semMinZ d a b w) s

/-- MAX.Z (R374). -/
def semMaxZ (d : Spec) (a : Spec) (b : Spec) (w : BitVec 1) : State → Res :=
  (bin d a b w fun x y => plain (Sys2Proof.Machine.maxZ x y))
def execMaxZ (d a b : Spec) (w f g : BitVec 1) (s : State) : Out := issue (.maxZ d a b w f g) (semMaxZ d a b w) s

/-- ADC: a + b + C, with C as it stood before (R318). -/
def semAdc (d : Spec) (a : Spec) (b : Spec) (w : BitVec 1) : State → Res :=
  (fun s => shortOp d w (fun l => addWith (s.rd a l) (s.rd b l) (s.carry l)) s)
def execAdc (d a b : Spec) (w f g : BitVec 1) (s : State) : Out := issue (.adc d a b w f g) (semAdc d a b w) s

/-- SBC: a + NOT b + C, with C as it stood before (R388). -/
def semSbc (d : Spec) (a : Spec) (b : Spec) (w : BitVec 1) : State → Res :=
  (fun s => shortOp d w (fun l => subWith (s.rd a l) (s.rd b l) (s.carry l)) s)
def execSbc (d a b : Spec) (w f g : BitVec 1) (s : State) : Out := issue (.sbc d a b w f g) (semSbc d a b w) s

/-- CMP.S (R320). -/
def semCmpS (a : Spec) (b : Spec) : State → Res :=
  (fun s => compare cmpS (s.rd a) (s.rd b) s)
def execCmpS (a b : Spec) (f g : BitVec 1) (s : State) : Out := issue (.cmpS a b f g) (semCmpS a b) s

/-- CMP.Z (R320). -/
def semCmpZ (a : Spec) (b : Spec) : State → Res :=
  (fun s => compare cmpZ (s.rd a) (s.rd b) s)
def execCmpZ (a b : Spec) (f g : BitVec 1) (s : State) : Out := issue (.cmpZ a b f g) (semCmpZ a b) s

/-- DIV.S (R211, R339). -/
def semDivS (d : Spec) (a : Spec) (b : Spec) (w : BitVec 1) : State → Res :=
  (bin d a b w fun x y => plain (Sys2Proof.Machine.divS x y))
def execDivS (d a b : Spec) (w f g : BitVec 1) (s : State) : Out := issue (.divS d a b w f g) (semDivS d a b w) s

/-- DIV.Z (R211, R339). -/
def semDivZ (d : Spec) (a : Spec) (b : Spec) (w : BitVec 1) : State → Res :=
  (bin d a b w fun x y => plain (Sys2Proof.Machine.divZ x y))
def execDivZ (d a b : Spec) (w f g : BitVec 1) (s : State) : Out := issue (.divZ d a b w f g) (semDivZ d a b w) s

/-- REM.S (R211, R374). -/
def semRemS (d : Spec) (a : Spec) (b : Spec) (w : BitVec 1) : State → Res :=
  (bin d a b w fun x y => plain (Sys2Proof.Machine.remS x y))
def execRemS (d a b : Spec) (w f g : BitVec 1) (s : State) : Out := issue (.remS d a b w f g) (semRemS d a b w) s

/-- REM.Z (R211, R374). -/
def semRemZ (d : Spec) (a : Spec) (b : Spec) (w : BitVec 1) : State → Res :=
  (bin d a b w fun x y => plain (Sys2Proof.Machine.remZ x y))
def execRemZ (d a b : Spec) (w f g : BitVec 1) (s : State) : Out := issue (.remZ d a b w f g) (semRemZ d a b w) s

/-- ADD.W: the 32-bit sum, sign-extended (R318). -/
def semAddW (d : Spec) (a : Spec) (b : Spec) (w : BitVec 1) : State → Res :=
  (bin d a b w fun x y => addWith32 x y false)
def execAddW (d a b : Spec) (w f g : BitVec 1) (s : State) : Out := issue (.addW d a b w f g) (semAddW d a b w) s

/-- SUB.W: the 32-bit difference, sign-extended (R388). -/
def semSubW (d : Spec) (a : Spec) (b : Spec) (w : BitVec 1) : State → Res :=
  (bin d a b w fun x y => subWith32 x y true)
def execSubW (d a b : Spec) (w f g : BitVec 1) (s : State) : Out := issue (.subW d a b w f g) (semSubW d a b w) s

/-- MUL.W: the low 32 bits of the product, sign-extended (R374). -/
def semMulW (d : Spec) (a : Spec) (b : Spec) (w : BitVec 1) : State → Res :=
  (bin d a b w fun x y => plain (Sys2Proof.Machine.mulW x y))
def execMulW (d a b : Spec) (w f g : BitVec 1) (s : State) : Out := issue (.mulW d a b w f g) (semMulW d a b w) s

/-- POPC: one bits of a (R374). -/
def semPopc (d : Spec) (a : Spec) (w : BitVec 1) : State → Res :=
  (un d a w fun x => plain (Sys2Proof.Machine.popc x))
def execPopc (d a : Spec) (w f : BitVec 1) (s : State) : Out := issue (.popc d a w f) (semPopc d a w) s

/-- CLZ: leading zero bits of a (R318). -/
def semClz (d : Spec) (a : Spec) (w : BitVec 1) : State → Res :=
  (un d a w fun x => plain (Sys2Proof.Machine.clz x))
def execClz (d a : Spec) (w f : BitVec 1) (s : State) : Out := issue (.clz d a w f) (semClz d a w) s

/-- BREV: a with its bits reversed (R318). -/
def semBrev (d : Spec) (a : Spec) (w : BitVec 1) : State → Res :=
  (un d a w fun x => plain (Sys2Proof.Machine.brev x))
def execBrev (d a : Spec) (w f : BitVec 1) (s : State) : Out := issue (.brev d a w f) (semBrev d a w) s

/-- BFX: the field of a at b[5:0] of length b[13:8] (R319). -/
def semBfx (d : Spec) (a : Spec) (b : Spec) (w : BitVec 1) : State → Res :=
  (bin d a b w fun x y => plain (Sys2Proof.Machine.bfx x y))
def execBfx (d a b : Spec) (w f g : BitVec 1) (s : State) : Out := issue (.bfx d a b w f g) (semBfx d a b w) s

/-- BFI: a inserted into d at b[5:0] over length b[13:8] (R319). -/
def semBfi (d : Spec) (a : Spec) (b : Spec) (w : BitVec 1) : State → Res :=
  (fun s => shortOp d w (fun l => plain (Sys2Proof.Machine.bfi (s.rd d l) (s.rd a l) (s.rd b l))) s)
def execBfi (d a b : Spec) (w f g : BitVec 1) (s : State) : Out := issue (.bfi d a b w f g) (semBfi d a b w) s

/-- SEL: a where the condition holds on the lane's NZCV, b elsewhere (R390). -/
def semSel (d : Spec) (a : Spec) (b : Spec) (c : BitVec 3) : State → Res :=
  (fun s => shortOp d 0 (fun l =>
      plain (if condHolds (selCond c.toNat) (s.me.lane l).th.nzcv then s.rd a l else s.rd b l)) s)
def execSel (d a b : Spec) (c : BitVec 3) (s : State) : Out := issue (.sel d a b c) (semSel d a b c) s

/-- MOV: all 64 bits of a (R376). -/
def semMov (d : Spec) (a : Spec) (w : BitVec 1) : State → Res :=
  (un d a w plain)
def execMov (d a : Spec) (w f : BitVec 1) (s : State) : Out := issue (.mov d a w f) (semMov d a w) s

/-- CCGET: NZCV in bits [3:0] (R330). -/
def semCcget (d : Spec) : State → Res :=
  (fun s => shortOp d 0 (fun l => ((s.me.lane l).th.nzcv.setWidth 64, 0)) s)
def execCcget (d : Spec) (s : State) : Out := issue (.ccget d) (semCcget d) s

/-- CCSET: NZCV from a[3:0]; lat receives a (R331). -/
def semCcset (a : Spec) : State → Res :=
  (fun s => shortOp 0x79#7 1 (fun l => (s.rd a l, (s.rd a l).setWidth 4)) s)
def execCcset (a : Spec) (f : BitVec 1) (s : State) : Out := issue (.ccset a f) (semCcset a) s

/-- ADDI: a with the sign-extended immediate, no flags (R321). -/
def semAddi (d : Spec) (a : Spec) (i : BitVec 10) : State → Res :=
  (immOp d a fun x => x + imm10 i)
def execAddi (d a : Spec) (i : BitVec 10) (s : State) : Out := issue (.addi d a i) (semAddi d a i) s

/-- ANDI: a with the sign-extended immediate, no flags (R321). -/
def semAndi (d : Spec) (a : Spec) (i : BitVec 10) : State → Res :=
  (immOp d a fun x => x &&& imm10 i)
def execAndi (d a : Spec) (i : BitVec 10) (s : State) : Out := issue (.andi d a i) (semAndi d a i) s

/-- ORI: a with the sign-extended immediate, no flags (R375). -/
def semOri (d : Spec) (a : Spec) (i : BitVec 10) : State → Res :=
  (immOp d a fun x => x ||| imm10 i)
def execOri (d a : Spec) (i : BitVec 10) (s : State) : Out := issue (.ori d a i) (semOri d a i) s

/-- XORI: a with the sign-extended immediate, no flags (R388). -/
def semXori (d : Spec) (a : Spec) (i : BitVec 10) : State → Res :=
  (immOp d a fun x => x ^^^ imm10 i)
def execXori (d a : Spec) (i : BitVec 10) (s : State) : Out := issue (.xori d a i) (semXori d a i) s

/-- CMPI: as CMP.S with the immediate as b (R321). -/
def semCmpi (a : Spec) (i : BitVec 10) : State → Res :=
  (fun s => compare cmpS (s.rd a) (fun _ => imm10 i) s)
def execCmpi (a : Spec) (i : BitVec 10) (s : State) : Out := issue (.cmpi a i) (semCmpi a i) s

/-- SHLI: a shifted by the immediate, no flags (R387). -/
def semShli (d : Spec) (a : Spec) (i : BitVec 6) : State → Res :=
  (immOp d a fun x => shlBy x i.toNat)
def execShli (d a : Spec) (i : BitVec 6) (s : State) : Out := issue (.shli d a i) (semShli d a i) s

/-- SHRI: a shifted by the immediate, no flags (R387). -/
def semShri (d : Spec) (a : Spec) (i : BitVec 6) : State → Res :=
  (immOp d a fun x => shrBy x i.toNat)
def execShri (d a : Spec) (i : BitVec 6) (s : State) : Out := issue (.shri d a i) (semShri d a i) s

/-- SARI: a shifted by the immediate, no flags (R387). -/
def semSari (d : Spec) (a : Spec) (i : BitVec 6) : State → Res :=
  (immOp d a fun x => sarBy x i.toNat)
def execSari (d a : Spec) (i : BitVec 6) (s : State) : Out := issue (.sari d a i) (semSari d a i) s

/-- MULI: a × the sign-extended immediate, no flags (R375). -/
def semMuli (d : Spec) (a : Spec) (i : BitVec 10) : State → Res :=
  (immOp d a fun x => x * imm10 i)
def execMuli (d a : Spec) (i : BitVec 10) (s : State) : Out := issue (.muli d a i) (semMuli d a i) s

/-- MOVI: the sign-extended immediate (R377). -/
def execMovi (d : Spec) (i : BitVec 17) (s : State) : Out :=
  issue (.movi d i) (shortOp d 0 fun _ => plain (i.signExtend 64)) s

/-- MOVH: d shifted left by 17 with the immediate below it (R377). -/
def execMovh (d : Spec) (i : BitVec 17) (s : State) : Out :=
  issue (.movh d i) (immOp d d fun x => (x <<< 17) ||| i.setWidth 64) s

/-- ADPC: the issue address and four times the sign-extended immediate (R322). -/
def execAdpc (d : Spec) (i : BitVec 17) (s : State) : Out :=
  issue (.adpc d i) (fun s => shortOp d 0 (fun _ => plain (s.me.pc + i.signExtend 64 * 4)) s) s

end Sys2Proof.Machine
end

