-- ==== Sys2Proof/Machine/Fetch.lean ====
section
/-!
DEFINITION. The fetch of an instruction word (R69), and the two things that a group may meet in place of an instruction:
a fetch that fails (R69, R79) and a word that is no instruction (R80).
-/
namespace Sys2Proof.Machine

/-- What a fetch yields: a word, the cause that it raises, nothing, where its line has an uncorrectable error (R277) or the
answer of another package is awaited, or the request to that package. -/
inductive Fetched where
  | word (w : IWord)
  | fail (c : Cause)
  | held
  | asks
  deriving DecidableEq, Repr

def wordOf (bs : List Byte) : IWord := wordOfBytes (bs.getD 0 0) (bs.getD 1 0) (bs.getD 2 0) (bs.getD 3 0)

/-- A word of the segment that a core's instruction store holds (R91). -/
def Seg.word (x : Seg) (pc : Nat) : IWord := wordOf ((x.code.drop (pc - x.base)).take 4)

/-- A fetch from another package (R113): a fabric request, answered once for the instruction at hand. (DEDUCED, log entry 24.) -/
def State.fetchFar (s : State) (gid q pa : Nat) : Fetched × State :=
  let g := s.grp gid
  match g.fetched.find? fun x => x.1 == pa with
  | some (_, st, bs) => (if st == 0 then .word (wordOf bs) else .fail (statusCause st), s)
  | none =>
    if s.remReqs.any fun r => r.gid == gid && r.use == .fetch then (.held, s)
    else
      (.asks, s.remoteAsk gid .fetch (s.ctxOf g)
        { peer := q, kind := 0, pa := pa / 256 * 256, op := 0, parts := [(pa, pa % 256, 4, 0)], mask := 15 * 2 ^ (pa % 256),
          data := [], vas := [] })

/-- The word at an address of the present group's code, with the state after the walk (R69, R79, R91, R92, R117): the window
is checked first (R109); code of the pinned segment comes from the instruction store, all other through the cluster
cache. -/
def State.fetch (s : State) (g : Group) (pc : Word) : Fetched × State :=
  if window pc != 0 then (.fail .noaddr, s)
  else if pc.toNat % 4 != 0 then (.fail .align, s)
  else
    match (s.localSeg g).filter fun x => x.holds pc with
    | some x => (.word (x.word pc.toNat), s)
    | none =>
      let t := s.tlbFill g.core (s.ctxOf g) pc.toNat
      if (t.tlbFind g.core (s.ctxOf g) pc.toNat).isNone && t.walkBad (s.ctxOf g) pc.toNat then (.held, t)
      else
      match t.globalAt g.core (s.ctxOf g) pc.toNat .fetch with
      | .error c => (.fail c, t)
      | .ok (.mem pa ty _ _) =>
        if t.bad.contains (lineOf pa) then (.held, t)
        else
          let cl := clusterOf g.core
          let u := match ty with
            | .coh | .dev => t.collect (lineOf pa)
            | _ => t.readPrep cl ty pa 4
          (.word (wordOf ((upTo 4).map fun i => u.clusterByte cl ty (pa + i))), u)
      | .ok (.remote q pa _) => t.fetchFar t.cur q pa
      | .ok _ => (.fail .prot, t)

/-- The present group can take up what stands at its issue address. -/
def State.canIssue (s : State) : Bool := s.issuable && s.me.depart.isNone && s.pastEnd.isNone

/-- A group is ready (R258): its instruction at its issue address would neither block nor wait. -/
def State.readyGroup (s : State) (gid : Nat) : Bool :=
  let s : State := { s with cur := gid }
  s.canIssue && s.me.wait == .none &&
  match s.fetch s.me s.me.pc with
  | (.held, _) => false
  | (.fail _, _) | (.asks, _) => true
  | (.word w, t) =>
    match decode w with
    | .error _ => true
    | .ok i => !i.wf t.me.W || t.ready i != .block

/-- FETCH_FAULT (R69, R79): the fetch at the issue address of the present group raises its cause; TVAL and EPC are the
address. A fetch that yields a word raises nothing. -/
def execFetchFault (s : State) : Out :=
  if s.canIssue then
    match s.fetch s.me s.me.pc with
    | (.fail c, t) => .next (t.raise c t.me.pc)
    | (_, t) => .next t
  else .next s

/-- RESERVED_ENCODING (R80): the present group issues a word that is no instruction, or whose fields are reserved, and
raises ILL with the word as TVAL; a word of an instruction raises nothing here. -/
def execReservedEncoding (word : IWord) (s : State) : Out :=
  if s.canIssue then
    match decode word with
    | .error _ => .next (s.raise .ill (word.setWidth 64))
    | .ok i => if i.wf s.me.W then .next s else .next (s.raise .ill (word.setWidth 64))
  else .next s

end Sys2Proof.Machine
end

