-- ==== Sys2Proof/Machine/Save.lean ====
section
/-!
DEFINITION. Saving and restoring (R270, R273, R274): what leaves a core when a group yields or is saved by force, what is
saved of the team once every group has left, and the way back.
-/
namespace Sys2Proof.Machine

/-- Every write in flight to a group completes. -/
def Group.settle (g : Group) : Group :=
  let h := g.modLanes (fun _ => true) fun _ x => { x with th := x.th.settle }
  let q := h.qPend.foldl (fun t p => match p.key with | .q n => tset n p.val t | _ => t) h.q
  { h with q := q, qPend := [], qEmpty := [] }

/-- The loads in flight to a group's registers complete, those of its ray instructions among them (R371, R386). -/
def Thread.settleLoads (t : Thread) : Thread :=
  let now := t.pend.filter fun p => p.by_ != .other
  let u := now.foldl (fun t p => match p.key with
    | .v n => { t with v := tset n p.val t.v }
    | .o n => { t with o := tset n p.val t.o }
    | _ => t) t
  { u with pend := t.pend.filter (fun p => p.by_ == .other), empties := t.empties.filter fun k => now.all fun p => p.key != k }
def Group.settleLoads (g : Group) : Group :=
  let h := g.modLanes (fun _ => true) fun _ x => { x with th := x.th.settleLoads }
  let now := h.qPend.filter fun p => p.by_ != .other
  { h with q := now.foldl (fun t p => match p.key with | .q n => tset n p.val t | _ => t) h.q
           qPend := h.qPend.filter fun p => p.by_ == .other
           qEmpty := h.qEmpty.filter fun n => now.all fun p => p.key != .q n }

/-- No register of the group is empty (R270). -/
def Group.allFull (g : Group) : Bool := g.qEmpty.isEmpty && g.lanes.all fun x => !x.occ || x.th.empties.isEmpty

/-- A forced save of the group may take effect now (R273): no MMA in flight, no BRG or departure in progress, no store
held for a copy, no FENCE that waits, no remote access without its responses, no LKMAT write under way. -/
def State.canForce (s : State) (gid : Nat) : Bool :=
  let g := s.grp gid
  !s.mmaInFlight gid && g.depart.isNone &&
  (match g.wait with | .remote | .cow _ _ | .again | .room _ _ | .brg | .fence | .lkmat => false | _ => true)

/-- Records of a team that a core holds, with the key of the bin of each. -/
def Core.recsOfTeam (c : Core) (t : Nat) : List (Option Word × Rec) :=
  (((tvals c.bins).filter fun b => b.team == t).map fun b => b.recs.map fun r => (some b.addr, r)).flatten
    ++ ((c.arrive ++ c.transit).filter fun r => r.team == t).map fun r => (none, r)

/-- Records of a team that the cores hold, with core and bin key, in order of arrival (R104, R273); those in transit, which
arrive now, come last. -/
def State.recsInOrder (s : State) (t : Nat) : List (Nat × Option Word × Rec) :=
  let settled (c : Core) : Core := { c with transit := [] }
  let held := ((s.cores.map fun e => ((settled e.2).recsOfTeam t).map fun r => (e.1, r.1, r.2)).flatten).mergeSort fun x y =>
    decide (x.2.2.came ≤ y.2.2.came)
  held ++ (s.cores.map fun e => (e.2.transit.filter fun r => r.team == t).map fun r => (e.1, none, r)).flatten

def Core.dropTeam (c : Core) (t : Nat) : Core :=
  { c with bins := c.bins.filter (fun e => e.2.team != t)
           arrive := c.arrive.filter (fun r => r.team != t)
           transit := c.transit.filter (fun r => r.team != t) }

/-- The team's own state is saved (R270, R273): bin and arrival records go into the image, or to the rings of a Bramble
kernel (R104); the accumulator store goes with its ownership; REQ becomes 0. -/
def State.saveTeam (s : State) (t : Nat) : State :=
  let tm := s.team t
  let bramble := (s.grid tm.grid).bramble
  let recs := s.recsInOrder t
  let s : State := { s with cores := tmap (fun _ c => c.dropTeam t) s.cores }
  let rings := if bramble then
      recs.foldl (fun (so : Option State) r => so.bind fun s => s.toRing r.1 r.2.2) (some s)
    else some s
  match rings with
  | none => s.brovf t tm.home
  | some s =>
    let c := s.core tm.tileCore
    let mine := match c.owner with
      | .team x => x == t
      | .sup => s.groups.any fun e => e.2.team == t && e.2.sup
      | .free => false
    let s := if mine then
        (s.setCore tm.tileCore { c with owner := .free, tiles := [] }).modTeam t fun x => { x with tileImage := some (c.owner, c.tiles) }
      else s
    s.modTeam t fun x => { x with preq := none, saved := true, image := if bramble then x.image else x.image ++ recs }

/-- Once every group of a team under a pre-emption request has left its core, its engines are done and its MMAs have retired,
the team is saved (R222, R270, R273). Of a deadline launch nothing is saved but what an earlier request had begun to save: its groups end, and
its records still launch (R253). (DEDUCED, log entry 21.) -/
def State.saveCheck (s : State) (t : Nat) : State :=
  match (s.team t).preq with
  | none => s
  | some p =>
    if (tget t s.teams).isSome && (s.groups.all fun e => e.2.team != t || e.2.loc != .onCore)
        && s.bce.all (fun b => b.team != t) && !s.cores.any (fun c => c.2.mmaQ.any fun m => m.team == t) && (!p.deadline || s.groups.any fun e => e.2.team == t && e.2.loc == .saved) then s.saveTeam t
    else s

/-- A group leaves its core (R270, R273): a register save leaves lat zero. -/
def State.saveGroup (s : State) (gid : Nat) (lat0 : Bool) : State :=
  let s := (s.dropMonitors gid).withdraw gid
  let s := s.modGrp gid fun g =>
    let h := g.settle
    let h := if lat0 then h.modLanes (fun _ => true) fun _ x => { x with lat := 0 } else h
    { h.unmark with loc := .saved, lockSt := [], waitingSince := none,
                    wait := match h.wait with | .page q => .page q | .pool p => .pool p | .ldv => .ldv | _ => .none }
  s.saveCheck (s.grp gid).team

/-- A forced save of a group: an open task aborts with PREEMPT first (R273). -/
def State.forceSave (s : State) (gid : Nat) : State :=
  ((if (s.grp gid).taskId == 0 then s else s.abortTask gid Cause.preempt.code)).saveGroup gid false

/-- A group ends, its threads counted as exited (R27, R253). -/
def State.endGroup (s : State) (gid : Nat) : State :=
  let g := s.grp gid
  let tids := g.aliveLanes.map fun l => (g.lane l).th.tid
  let s := if g.taskId == 0 then s else s.abortTask gid Cause.preempt.code
  ((s.exitTids g.team tids).removeGroup gid).teamCheck g.team

/-- Vault bytes in use on a core's pair (R123). -/
def State.vaultUsed (s : State) (pair : Nat) : Nat :=
  s.teams.foldl (fun n e => if pairOf e.2.home == pair && !e.2.saved then n + e.2.lsize else n) 0

/-- A saved group goes back to its core, slot and lanes (R274): WAITA is evaluated again, and the clock of R47 starts where
every lane waits. `none` while they are taken. -/
def State.restoreGroup (s : State) (gid : Nat) : Option State :=
  let g := s.grp gid
  let used := (s.groupsOn g.core).map fun e => e.2.slot
  if used.contains g.slot || !decide (g.W * g.R ≤ s.freeRegs g.core) then none
  else
    let h := g.modLanes (fun i => (g.lane i).status == .waitA) fun _ x => { x with status := .ready }
    some (s.setGrp gid { h.noteWaiting s.tick with loc := .onCore, readyAt := s.tick, boosted := none })

/-- Saved records go back to the core that held them, in their order (R274): into the bins, and from the first that finds
none ahead of what the core's spill holds. -/
def State.putBack (core : Nat) : List Rec → State → State
  | [], s => s
  | r :: rest, s =>
    match s.intoBin core r with
    | some t => State.putBack core rest t
    | none => s.modCore core fun c => { c with spill := r :: rest ++ c.spill }

/-- Restore of a team (R274): groups, accumulator store and records. `none` while what it needs is taken. -/
def State.restoreTeam (s : State) (t : Nat) : Option State :=
  let tm := s.team t
  let gids := (s.groups.filter fun e => e.2.team == t && e.2.loc == .saved).map fun e => e.1
  let c := s.core tm.tileCore
  let cores := tm.home :: gids.map fun g => (s.grp g).core
  if !decide (s.vaultUsed (pairOf tm.home) + tm.lsize ≤ s.lscap.getD (dieOf tm.home) 0) then none
  else if tm.tileImage.isSome && c.owner != .free then none
  else if cores.any fun c => s.coreTaken (s.grid tm.grid) c then none
  else
    (gids.foldl (fun (so : Option State) g => so.bind fun s => s.restoreGroup g) (some s)).map fun s =>
      let s := match tm.tileImage with
        | some (o, tl) => s.modCore tm.tileCore fun c => { c with owner := o, tiles := tl }
        | none => s
      let s := s.modTeam t fun x => { x with saved := false, tileImage := none, image := [] }
      let at_ := (tm.image.map fun r => r.1).eraseDups
      let s := at_.foldl (fun s c => State.putBack c ((tm.image.filter fun r => r.1 == c).map fun r => r.2.2) s) s
      at_.foldl (fun s c => s.refill c) s

end Sys2Proof.Machine
end

