-- ==== Sys2Proof/Machine/Sync.lean ====
section
/-!
DEFINITION. Lane masks (R36 to R39, R358 to R361, R372, R409), barriers (R46, R100, R260, R327, R328), WAITA (R406 to
R408) and FENCE (R352, R353).
-/
namespace Sys2Proof.Machine

/-- The lanes of E that a wait has let go on, with their addresses: the others keep their pcv. -/
def State.moved (s0 s : State) : List (Nat × Word) :=
  (s0.me.E.map fun l => (l, (s.me.lane l).pcv)).filter fun t => t.2 != s0.me.pc

/-! ### Masks -/

/-- JOIN (R358): k ← k OR E. -/
def execJoin (k : BitVec 7) (s : State) : Out :=
  issue (.join k) (fun s => .done (s.modMe fun g => g.setMask k.toNat (Nat.lor (g.mask k.toNat) g.eMask))) s

/-- LEAVE (R372): k ← k AND NOT E, then CheckRelease(k). -/
def execLeave (k : BitVec 7) (s : State) : Out :=
  issue (.leave k)
    (fun s => .done (s.modMe fun g =>
      (g.setMask k.toNat (Nat.land (g.mask k.toNat) (2 ^ 64 - 1 - g.eMask))).checkRelease k.toNat)) s

/-- WAITK (R37): members of E wait, the others pass, then CheckRelease(k). -/
def Group.waitk (g : Group) (k : Nat) : Group :=
  let E := g.E
  let m := g.mask k
  (g.modLanes (fun i => E.contains i) fun i x =>
    if m.testBit i then { x with status := .waitK k } else { x with pcv := x.pcv + 4 }).checkRelease k

def execWaitk (k : BitVec 7) (s : State) : Out :=
  issue (.waitk k) (fun s => let t := s.modMe fun g => g.waitk k.toNat; .branch (s.moved t) t) s

/-- KGET (R359): every lane of E receives the mask; the a field names the register that is written. -/
def execKget (k : BitVec 7) (a : Spec) (s : State) : Out :=
  issue (.kget k a)
    (fun s => .done (s.putDirect a (s.me.E.map fun l => (l, BitVec.ofNat 64 (s.me.mask k.toNat))))) s

/-- A mask becomes a value, less lanes that are not there, then CheckRelease (R360, R361). -/
def Group.newMask (g : Group) (k m : Nat) : Group :=
  (g.setMask k (Nat.land m (maskOf g.aliveLanes))).checkRelease k

/-- KSET (R360). -/
def execKset (k : BitVec 7) (a : Spec) (s : State) : Out :=
  issue (.kset k a)
    (fun s => let x := (s.rd a s.me.lowE).toNat; .done (s.modMe fun g => g.newMask k.toNat x)) s

/-- The operations of KLOG (R361). -/
def klogOp (op x y : Nat) : Nat :=
  match op with
  | 0 => Nat.land x y
  | 1 => Nat.lor x y
  | 2 => Nat.xor x y
  | 3 => Nat.land x (2 ^ 64 - 1 - y)
  | _ => 2 ^ 64 - 1 - x

/-- KLOG (R361). -/
def execKlog (k j m : BitVec 7) (op : BitVec 3) (s : State) : Out :=
  issue (.klog k j m op)
    (fun s => .done (s.modMe fun g => g.newMask k.toNat (klogOp op.toNat (g.mask j.toNat) (g.mask m.toNat)))) s

/-! ### Barriers -/

/-- A thread arrives in the open BART phase of its team (R46). -/
def State.bartArrive (s : State) (team tid : Nat) : State :=
  s.modTeam team fun t => if t.live.contains tid && !t.bartAt.contains tid then { t with bartAt := t.bartAt ++ [tid] } else t

/-- BART (R327): the lanes of E arrive; on another core of a Bramble kernel the arrival goes to the home core (R100). -/
def State.bart (s : State) : State :=
  let g := s.me
  let E := g.E
  let tids := E.map fun l => (g.lane l).th.tid
  let phase := s.myTeam.bartPhase
  let far := s.myGrid.bramble && g.core != s.myTeam.home
  let s := s.modMe fun g => g.modLanes (fun i => E.contains i) fun _ x => { x with status := .waitB false phase }
  if far then { s with bartMsgs := s.bartMsgs ++ tids.map fun t => (g.team, t) }
  else (tids.foldl (fun s t => s.bartArrive g.team t) s).bartCheck g.team

def execBart (s : State) : Out :=
  issue .bart
    (fun s => if s.me.taskId != 0 then .trap .ill (wordVal .bart) s else let t := s.bart; .branch (s.moved t) t) s

/-- BARG (R328): the lanes of E arrive at the grid barrier. -/
def State.barg (s : State) : State :=
  let g := s.me
  let E := g.E
  let tids := E.map fun l => (g.lane l).th.tid
  let phase := s.myGrid.bargPhase
  let s := s.modMe fun g => g.modLanes (fun i => E.contains i) fun _ x => { x with status := .waitB true phase }
  (s.modTeam g.team fun t => { t with bargAt := (t.bargAt ++ tids).eraseDups }).bargCheck (s.team g.team).grid

def execBarg (s : State) : Out :=
  issue .barg
    (fun s =>
      if !s.myGrid.cooperative || s.me.taskId != 0 then .trap .ill (wordVal .barg) s
      else let t := s.barg; .branch (s.moved t) t) s

/-! ### WAITA -/

/-- An address lies on a DEV page (R407). -/
def State.devPage (s : State) (w : Who) (va : Word) : Bool :=
  match s.globalOf w va 8 with
  | .ok (some a) => (match s.leafFor w.core w.ctx a with | .ok e => leafType e == .dev | .error _ => false)
  | _ => false

/-- The place that a lane of WAITA names, or the cause that stops it (R407). -/
def State.waitPlace (s : State) (g : Group) (l : Nat) (va : Word) : Except Cause Place :=
  let w := s.who g l
  match s.targets w va 8 8 .load with
  | .error c => .error c
  | .ok ts =>
    if s.devPage w va then .error .prot
    else
      match ts with
      | (.mem pa _ _ _, _) :: _ => .ok (.phys pa)
      | (.store t off, _) :: _ => .ok (.store t off)
      | (.remote p pa _, _) :: _ => .ok (.remote p pa)
      | _ => .error .prot

/-- The places of the lanes, or the first cause with its address. -/
def State.waitPlaces (s : State) (g : Group) (va : Nat → Word) : List Nat → Except (Cause × Word) (List (Nat × Place))
  | [] => .ok []
  | l :: rest =>
    match s.waitPlace g l (va l) with
    | .error c => .error (c, va l)
    | .ok p =>
      match s.waitPlaces g va rest with
      | .error e => .error e
      | .ok r => .ok ((l, p) :: r)

/-- What an atomic read at the home meets (R127, R129, R407): partials are collected, and SCO copies recalled. -/
def State.waitRead (s : State) : Place → State
  | .phys pa => (s.collect (lineOf pa)).scoRecall (lineOf pa)
  | _ => s

/-- The thread's anchor on a place (R407). -/
def State.anchorOf (s : State) (team tid : Nat) (p : Place) : Option Anchor :=
  s.anchors.find? fun a => a.team == team && a.tid == tid && a.place == p

def State.dropAnchor (s : State) (team tid : Nat) (p : Place) : State :=
  { s with anchors := s.anchors.filter fun a => !(a.team == team && a.tid == tid && a.place == p) }

/-- The values that a WAITA evaluates at its issue: from the anchor on, or the one that it reads (R407). -/
def State.waitVals (s : State) (team tid : Nat) (p : Place) : List Word :=
  match p with
  | .remote _ _ => []
  | _ =>
    match (s.anchorOf team tid p).map fun a => a.vals with
    | some (x :: r) => x :: r
    | _ => [BitVec.ofNat 64 (s.word8 p)]

/-- The request of a WAITA to another package (R20, R408): it names the condition, the comparand and the anchor's tag; `gva` is
the global address behind the lane's. -/
def waitAsk (m : Monitor) (pkg pa gva : Nat) (anchor : Option Nat) : RemAsk :=
  { peer := pkg, kind := 0, pa := pa / 256 * 256, op := if m.ne then 2 else 1, parts := [(m.lane, pa % 256, 8, 0)],
    mask := 255 * 2 ^ (pa % 256), vas := [(gva, 8)]
    data := toBytes 8 m.cmp.toNat ++ toBytes 4 (match anchor with | some t => t + 1 | none => 0) }

/-- A lane waits under a monitor, at another package by a request to it (R407, R408). -/
def State.watch (s : State) (m : Monitor) : State :=
  let t : State := s.modMe fun g => g.modLane m.lane fun x => { x with status := .waitA }
  match m.place with
  | .remote q pa =>
    let g := s.me
    let a := (s.anchorOf g.team (g.lane m.lane).th.tid m.place).map fun a => a.rtag
    ({ t with monitors := t.monitors ++ [{ m with rtag := some (t.nextRtag % 2 ^ 17) }] }).remoteAsk s.cur .monitor s.myCtxNum
      (waitAsk m q pa (s.gvaOf (s.who g m.lane) m.va 8) a)
  | _ => { t with monitors := t.monitors ++ [m] }

/-- One lane arrives at WAITA (R407): it goes on with the value that lets it, or waits. A q register takes the value of the
lowest lane alone (R56). -/
def State.waitLane (s : State) (d : Spec) (va cmp : Word) (ne : Bool) (low l : Nat) (p : Place) : Option Word × State :=
  let g := s.me
  let tid := (g.lane l).th.tid
  let s := s.waitRead p
  let key := match g.key d with | .q n => if l == low then .q n else .none | k => k
  let m : Monitor := { gid := s.cur, lane := l, place := p, va := va, ne := ne, cmp := cmp, key := key, fired := none }
  match (s.waitVals g.team tid p).find? m.lets with
  | some x => ((some x, (s.dropAnchor g.team tid p).modMe fun g => g.writeKey l key x))
  | none => (none, s.watch m)

/-- The lanes of WAITA one after the other: the values of those released. -/
def State.waitLanes (d : Spec) (va cmp : Nat → Word) (ne : Bool) (low : Nat) : List (Nat × Place) → State → List (Nat × Word) × State
  | [], s => ([], s)
  | (l, p) :: rest, s =>
    let r := s.waitLane d (va l) (cmp l) ne low l p
    let y := State.waitLanes d va cmp ne low rest r.2
    (match r.1 with | some x => (l, x) :: y.1 | none => y.1, y.2)

/-- The refusal of another package that a lane's WAITA has met (R290). -/
def State.deniedAt (s : State) (l : Nat) (va : Word) : Option Monitor :=
  s.monitors.find? fun m => m.gid == s.cur && m.lane == l && m.va == va && m.denied.isSome

/-- WAITA's effect (R290, R406, R407). -/
def State.waita (s : State) (word : Word) (d a b : Spec) (op : Nat) : Res :=
  let g := s.me
  if g.taskId != 0 then .trap .ill word s
  else
    let s := g.E.foldl (fun t l => t.prefetch (s.who g l) (s.rd a l) 8) s
    if g.E.any fun l => s.walkHeld (s.who g l) (s.rd a l) 8 then .wait (s.modMe fun g => { g with wait := .bad })
    else
    match s.waitPlaces g (fun l => s.rd a l) g.E with
    | .error (c, va) => .trap c va s
    | .ok ps =>
      if ps.any fun p => (match p.2 with | .phys pa => s.poisoned pa 8 | _ => false) then .wait (s.modMe fun g => { g with wait := .bad })
      else
      match g.E.find? fun l => (s.deniedAt l (s.rd a l)).isSome with
      | some l =>
        let c := ((s.deniedAt l (s.rd a l)).bind fun m => m.denied).getD .fabdeny
        .trap c (s.rd a l) { s with monitors := s.monitors.filter fun m => !(m.gid == s.cur && g.E.contains m.lane) }
      | none =>
        let r := State.waitLanes d (fun l => s.rd a l) (fun l => s.rd b l) (op == 1) g.lowE ps s
        let pc := g.pc
        .branch (r.1.map fun x => (x.1, pc + 4)) (if r.1.isEmpty then r.2 else r.2.acquire 4)

/-- WAITA (R406, R407). -/
def execWaita (d a b : Spec) (op : BitVec 3) (s : State) : Out :=
  issue (.waita d a b op) (fun s => s.waita (wordVal (.waita d a b op)) d a b op.toNat) s

/-! ### FENCE -/

/-- A lane of E has a write in flight to one of its registers, or to a q register: an earlier read of those lanes has not
returned (R353). -/
def State.readsOut (s : State) : Bool :=
  (s.me.qPend.any fun p => Nat.land p.lanes s.me.eMask != 0) || s.me.E.any fun l => !(s.me.lane l).th.pend.isEmpty

/-- FENCE (R353): kinds 0 to 2 wait for the reads of E; the SCO action follows the kind. -/
def execFence (k : BitVec 7) (x : BitVec 3) (s : State) : Out :=
  issue (.fence k x)
    (fun s =>
      if k.toNat < 3 && s.readsOut then .wait (s.modMe fun g => { g with wait := .fence })
      else .done (match k.toNat with
        | 0 | 1 => s.acquire x.toNat
        | 2 => s.release x.toNat
        | _ => s)) s

end Sys2Proof.Machine
end

