-- ==== Sys2Proof/Machine/Bins.lean ====
section
/-!
DEFINITION. What befalls thread records and groups between instructions: arrival over the mesh, the arrival buffer, spill
and rings (R40, R95 to R97, R107), bins (R41), the limits of the waits of BRG and of a departure (R44, R95), parking and
re-forming (R47, R99), boosting (R258), barrier messages (R100), occupancy reports and replication (R93, R105, R106), and
the arrival of long-class values (R58).
-/
namespace Sys2Proof.Machine

/-- RECORD_ARRIVAL (R95, R107): the record enters a bin, the arrival buffer or, with no room, where R40 sends it. -/
def execRecordArrival (core n : Nat) (s : State) : Out :=
  match (s.core core).transit[n]? with
  | none => .next s
  | some r =>
    let t := s.modCore core fun c => { c with transit := c.transit.eraseIdx n }
    if r.bramble && !t.pins (t.team r.team).grid core r.seg then .next (t.brovf r.team core)
    else
      match t.putRec core r with
      | some u => .next u
      | none => .next (t.brovf r.team core)

/-- A core takes the oldest record of its ring back while its arrival buffer has room (R97); a corrupt ring is BROVF, and so
is a record whose segment the core does not pin (R107). (DEDUCED, log entry 23.) -/
def State.drainRing (s : State) (grid core : Nat) : State :=
  if (s.fromRing grid core).isNone || s.ringAstray grid core then s.brovfGrid grid core 0
  else
    match s.drainOnce grid core with
    | some t => t.refill core
    | none => s

/-- A drain of the ring would do something. It raises BROVF for a corrupt header whenever it looks at the ring, even with
nothing to drain. (DESIGN CHOICE, log entry 71.) -/
def State.ringMoves (s : State) (grid core : Nat) : Bool :=
  (s.fromRing grid core).isNone || s.ringAstray grid core || (s.drainOnce grid core).isSome

/-- ARRIVAL_BUFFER_REFILL (R40, R433): records come back from the spill and from the rings while there is room. -/
def execArrivalBufferRefill (core : Nat) (s : State) : Out :=
  .next ((s.ringGrids core).foldl (fun s g => s.drainRing g core) (s.refill core))

/-- OVERFLOW_RING_DRAIN (R97). -/
def execOverflowRingDrain (grid core : Nat) (s : State) : Out :=
  .next (if (s.ringGrids core).contains grid then s.drainRing grid core else s)

/-- A group's wait for room has lasted 4,096 clocks (R44, R95). -/
def Group.waitedOut (g : Group) (tick : Nat) : Bool :=
  match g.wait with
  | .room _ since => decide (since + Config.sendLimit ≤ tick)
  | _ => false

/-- DEPARTURE_WAIT_TIMEOUT (R95): the record that waited is written to the ring, and the departure goes on. -/
def execDepartureWaitTimeout (gid : Nat) (s : State) : Out :=
  let g := s.grp gid
  if g.depart.isSome && g.waitedOut s.tick then
    let t := (({ s with cur := gid }).modMe fun g => { g with force := true }).runDepart (g.W + 2)
    .next { t with cur := s.cur }
  else .next s

/-- BRG_WAIT_TIMEOUT (R44): the BRG places every record when it goes on. -/
def execBrgWaitTimeout (gid : Nat) (s : State) : Out :=
  let g := s.grp gid
  if g.depart.isNone && g.waitedOut s.tick then
    .next (s.modGrp gid fun g => { g with force := true, readyAt := s.tick })
  else .next s

/-- BIN_TIMER_EXPIRE (R41). -/
def execBinTimerExpire (core bin : Nat) (s : State) : Out :=
  .next (match tget bin (s.core core).bins with
    | some b => if b.expires ≤ s.tick then s.modCore core fun c => { c with bins := tset bin { b with due := true } c.bins } else s
    | none => s)

/-- A group in the park area is due to re-form (R47, R193): its barrier or mask has released, or a wound or a revocation
waits for it. -/
def Group.reformDue (g : Group) : Bool :=
  g.loc == .parkArea && (g.woundDue || g.revokeDue || g.aliveLanes.any fun i =>
    match (g.lane i).status with | .waitK _ | .waitB _ _ => false | _ => true)

/-- A bin can launch now (R41): its condition holds, its team is resident, slot and lane-registers are free, and no parked
group of the core is due to re-form (R47); one of a saved team waits for its restore. -/
def State.canLaunch (s : State) (core : Nat) (b : Bin) : Bool :=
  s.binDue core b && s.resident b.team && s.binRoom core b
    && !(s.groups.any fun e => e.2.core == core && e.2.reformDue && s.resident e.2.team)

/-- BIN_LAUNCH (R41): of the bins that can launch, the one with the oldest first record. -/
def execBinLaunch (core bin : Nat) (s : State) : Out :=
  .next (match tget bin (s.core core).bins with
    | some b =>
      if s.canLaunch core b && (s.core core).bins.all (fun e => !s.canLaunch core e.2 || decide (b.since ≤ e.2.since)) then
        s.launchBin core bin
      else s
    | none => s)

/-- A group has waited long enough to be parked (R47, R159). -/
def State.parkDue (s : State) (g : Group) : Bool :=
  (match g.waitingSince with | some t => decide (t + Config.parkAfter ≤ s.tick) | none => false)
    && g.loc == .onCore && g.depart.isNone && g.trapDue.isNone

/-- GROUP_PARK (R47, R99, R159): after 16,384 clocks of waiting, with every access in flight complete. (DEDUCED, log entry 47.) -/
def execGroupPark (gid : Nat) (s : State) : Out :=
  let g := s.grp gid
  if s.parkDue g && !s.mmaInFlight gid then
    .next (s.modGrp gid fun g => { g.settle with loc := .parkArea, waitingSince := none })
  else .next s

/-- GROUP_REFORM (R47): the group takes a free slot, its lanes as they were. -/
def execGroupReform (gid : Nat) (s : State) : Out :=
  let g := s.grp gid
  if g.reformDue && s.resident g.team && s.groupRoom g.core g.W g.R then
    .next (s.modGrp gid fun h => { h with
      loc := .onCore, slot := (s.freeSlot g.core).getD 0, readyAt := s.tick, boosted := none, waitingSince := none })
  else .next s

/-- A group has been ready for 256 clocks without issuing (R258). -/
def State.boostDue (s : State) (gid : Nat) : Bool :=
  let g := s.grp gid
  g.boosted.isNone && g.loc == .onCore && decide (g.readyAt + Config.boostAfter ≤ s.tick) && (g.able || s.readyGroup gid)

/-- GROUP_BOOST (R258). -/
def execGroupBoost (gid : Nat) (s : State) : Out :=
  if s.boostDue gid then
    .next (s.modGrp gid fun g => { g with boosted := some s.tick })
  else .next s

/-- The segment maps that are in use, each with its placement. -/
def State.maps (s : State) : List (SMap × List Nat) :=
  (s.grids.filter fun e => e.2.bramble && e.2.admitted).map fun e => let m := s.smap e.1; (m, s.placement m)

/-- Records that wait at a core (R93): of any team and any grid, in its bins, its arrival buffer and its rings. -/
def State.occupancyIn (s : State) (maps : List (SMap × List Nat)) (core : Nat) : Nat :=
  let c := s.core core
  (tvals c.bins).foldl (fun n b => n + b.recs.length) 0 + c.arrive.length
    + maps.foldl (fun n e => if e.2.contains core then n + (s.ringIn e.1 e.2 core).count else n) 0

def State.occupancy (s : State) (core : Nat) : Nat := s.occupancyIn s.maps core

/-- A core's count goes to every core of every placement that names it (R93). -/
def State.reportOcc (s : State) (core : Nat) : State :=
  let n := s.occupancy core
  (s.maps.filter fun e => e.2.contains core).foldl (fun s e => e.2.foldl (fun s c =>
    s.modCore c fun x => { x with occSeen := tset core n x.occSeen }) s) s

/-- OCCUPANCY_REPORT (R93). -/
def execOccupancyReport (core : Nat) (s : State) : Out := .next (s.reportOcc core)

/-- Every core of a placement reports (R93): so it is at least once in every 256 clocks. -/
def State.reportAll (s : State) : State :=
  (s.grids.filter fun e => e.2.bramble && e.2.admitted).foldl (fun s e =>
    (s.placement (s.smap e.1)).foldl (fun s c => s.reportOcc c) s) s

/-- BART_ARRIVAL (R100). -/
def execBartArrival (team tid : Nat) (s : State) : Out :=
  match takeFirst (fun m => m == (team, tid)) s.bartMsgs with
  | none => .next s
  | some (_, rest) => .next ((({ s with bartMsgs := rest }).bartArrive team tid).bartCheck team)

/-! ### Replication -/

/-- Waiting records of a segment on all its replicas, times the clocks of the window for which they waited (R105). -/
def State.segOccupancy (s : State) (gr : Grid) (m : SMap) (i : Nat) : Nat :=
  (s.replicas m i).foldl (fun n r => n + tgetD gr.occSum r.2 0) 0

/-- A segment exceeds its threshold times its replicas, averaged over the window that ends now (R105). (DEDUCED, log entry 22.) -/
def State.segHot (s : State) (gr : Grid) (m : SMap) (i : Nat) : Bool :=
  s.segThr m i != 0
    && decide (s.segThr m i * (s.replicas m i).length * (s.tick - gr.window) < s.segOccupancy gr m i)

/-- The occupancies of a Bramble grid's cores go into its window for the clocks that pass (R105). (DEDUCED, log entry 22.) -/
def State.tally (s : State) (maps : List (SMap × List Nat)) (n gid : Nat) (g : Grid) : Grid :=
  if g.bramble && g.admitted then
    { g with occSum := (s.placement (s.smap gid)).foldl (fun t c => tset c (tgetD t c 0 + n * s.occupancyIn maps c) t) g.occSum }
  else g

/-- A replica slot is written (R89, R106). -/
def State.setSlot (s : State) (m : SMap) (i slot x : Nat) : State := s.devWrite m.ctx (m.desc i + 32 + 2 * slot) (toBytes 2 x)

/-- Every valid slot of the map: segment, slot, core. -/
def State.allSlots (s : State) (m : SMap) : List (Nat × Nat × Nat) :=
  ((upTo m.nseg).map fun i => (s.replicas m i).map fun r => (i, r.1, r.2)).flatten

/-- Another grid's segment is pinned on the core (R91). (DESIGN CHOICE, log entry 71.) -/
def State.pinnedElse (s : State) (grid core : Nat) : Bool := match (s.core core).seg with | some x => x.grid != grid | none => false

/-- The lowest core that a replica may take (R105): an idle core of the placement, else a cold one with its slot. -/
def State.freeReplica (s : State) (grid : Nat) (gr : Grid) (m : SMap) (thr : Nat) : Option (Nat × Option (Nat × Nat)) :=
  let slots := s.allSlots m
  let least (l : List Nat) : Option Nat :=
    l.foldl (fun b c => match b with | none => some c | some x => some (min x c)) none
  match least ((s.placement m).filter fun c => !(slots.any fun x => x.2.2 == c) && !s.pinnedElse grid c && s.coreFor gr c) with
  | some c => some (c, none)
  | none =>
    let cold := slots.filter fun x => s.coreFor gr x.2.2 && decide (2 ≤ (s.replicas m x.1).length) && decide (4 * tgetD gr.occSum x.2.2 0 < thr * (s.tick - gr.window))
    match least (cold.map fun x => x.2.2) with
    | none => none
    | some c => (cold.find? fun x => x.2.2 == c).map fun x => (c, some (x.1, x.2.1))

/-- REPLICATION_WINDOW (R105): the segments' occupancy is measured, and a replication may start, for the lowest-numbered
segment hot for four windows that finds a core; a cold core's slot is cleared at once (R106, step 1), and the segment's
run of windows starts again. (DESIGN CHOICE, log entry 66.) -/
def execReplicationWindow (grid : Nat) (s : State) : Out :=
  let gr := s.grid grid
  if !(gr.bramble && gr.admitted && decide (gr.window + 4096 ≤ s.tick)) then .next s
  else
    let m := s.smap grid
    let hotRun : Tab Nat := ((upTo m.nseg).filter fun i => s.segHot gr m i).map fun i => (i, tgetD gr.hotRun i 0 + 1)
    let t := s.modGrid grid fun g => { g with hotRun := hotRun, window := s.tick, occSum := [] }
    let want := hotRun.filter fun e => decide (4 ≤ e.2) && decide ((s.replicas m e.1).length < 8)
    match (if gr.repl.isSome then none else want.findSome? fun e => (s.freeReplica grid gr m (s.segThr m e.1)).map fun r => (e.1, r)) with
    | none => .next t
    | some (i, c, old) =>
      let t := match old with
        | some (j, slot) => t.setSlot m j slot 0
        | none => t
      .next (t.modGrid grid fun g => { g with repl := some (i, c), hotRun := tdel i g.hotRun })

/-- A core has launched every record of the grid that named it, no thread that chose it waits for room there, and it holds no
group of the grid (R106, R107); nor does it pin a segment of another grid, or belong to another queue's reserve (R251). -/
def State.drained (s : State) (grid core : Nat) : Bool :=
  let mine (t : Nat) : Bool := (s.team t).grid == grid
  !((s.core core).allRecs.any fun r => mine r.team) && (s.ring (s.smap grid) core).count == 0
    && !(s.groups.any fun e => mine e.2.team && (e.2.core == core || match e.2.wait with | .room c _ => c == core | _ => false))
    && !s.pinnedElse grid core && s.coreFor (s.grid grid) core

/-- REPLICA_ADD (R106, steps 2 to 4): the code is loaded, and the lowest-numbered free slot takes the core.
Where the segment has no free slot any more, the replication stays in progress. (DESIGN CHOICE, log entries 67 and 71.) -/
def execReplicaAdd (grid : Nat) (s : State) : Out :=
  match (s.grid grid).repl with
  | none => .next s
  | some (i, c) =>
    if !s.drained grid c then .next s
    else
      let m := s.smap grid
      let t := s.modCore c fun x => { x with seg := some (s.segLoad grid i) }
      let used := (s.replicas m i).map fun r => r.1
      match (upTo 8).find? fun j => !used.contains j with
      | none => .next s
      | some j => .next ((t.setSlot m i j (32768 + c)).modGrid grid fun g => { g with repl := none })

/-! ### Long-class values -/

/-- The register that a number names: v n, 256 + n an o register, 512 + n a q register. -/
def regKey (reg : Nat) : RKey := if reg < 256 then .v reg else if reg < 512 then .o (reg - 256) else .q (reg - 512)

/-- A value arrives for a thread that stands in no group: in a bin, an arrival buffer, a spill or in transit (R42). -/
def Thread.fill (t : Thread) (k : RKey) : Thread :=
  match takeFirst (fun p => p.key == k) t.pend with
  | none => t
  | some (p, r) =>
    let u := match k with
      | .v n => { t with v := tset n p.val t.v }
      | .o n => { t with o := tset n p.val t.o }
      | _ => t
    { u with empties := t.empties.filter (· != k), pend := r }

/-- Every record of a core changed. -/
def Core.mapRecs (c : Core) (f : Rec → Rec) : Core :=
  { c with arrive := c.arrive.map f, spill := c.spill.map f, transit := c.transit.map f,
           bins := tmap (fun _ b => { b with recs := b.recs.map f }) c.bins }

/-- A value arrives for the record of a thread. -/
def State.fillRec (s : State) (team tid : Nat) (k : RKey) : State :=
  { s with cores := tmap (fun _ c =>
      c.mapRecs fun r => if r.team == team && r.th.tid == tid then { r with th := r.th.fill k } else r) s.cores }

/-- REGISTER_FILL (R58): the oldest value on its way to the register arrives, in the running group or in a parked frame;
a full register is written by none. Group 0, which does not exist, stands for a thread record: `frame` is then its team
and `lane` its tid. (DESIGN CHOICE, log entry 12.) -/
def execRegisterFill (gid frame lane reg : Nat) (s : State) : Out :=
  let k := regKey reg
  if gid == 0 then .next (s.fillRec frame lane k)
  else if frame == 0 then
    .next (s.modGrp gid fun g =>
      if g.fullKey lane k then g else { g.fillKey lane k with readyAt := if s.readyGroup gid then g.readyAt else s.tick })
  else
    .next (s.modTeam (s.grp gid).team fun t => { t with frames := tmod frame (fun f =>
      if f.gid != gid then f
      else
        let g : Group := { toGState := f.st }
        if g.fullKey lane k then f else { f with st := (g.fillKey lane k).toGState }) t.frames })

end Sys2Proof.Machine
end

