-- ==== Sys2Proof/Machine/Cohere.lean ====
section
/-!
DEFINITION. The steps of the coherence protocol that stand by themselves (R126, R129 to R134): requests reaching a home,
messages delivered one at a time, evictions, and a slice's spill queue. An instruction that needs a line runs the
protocol to its grant within its own step (`State.request`); these steps interleave what else is open.
-/
namespace Sys2Proof.Machine

/-- The first message of a kind on a line, from or to a cluster, is delivered; with none, nothing happens. -/
def State.deliverOne (s : State) (p : MsgKind → Bool) (cl line : Nat) : State :=
  (s.deliverFirst fun m => p m.kind && m.cl == cl && m.line == line).getD s

/-- A request of a cluster reaches the home: a new one, or, while requests on the line stand in the mesh, the one whose turn
it is by cluster number (R131, R134). -/
def State.requestOne (s : State) (cl line : Nat) (r : Req) : State :=
  if s.coh.msgs.any fun m => m.isReq && m.line == line then
    (s.deliverFirst fun m => m.kind == .req r && m.cl == cl && m.line == line && s.reqTurn m).getD s
  else s.homeReq line cl r

/-- What the home sends a cluster reaches it in order on one line: a grant that is on its way comes before the snoop
(R129, R131). (DEDUCED, log entry 11.) -/
def State.snoopOne (s : State) (k : MsgKind) (cl line : Nat) : State :=
  if s.coh.msgs.any fun m => m.kind == k && m.cl == cl && m.line == line then
    ((s.deliverFirst fun m => (match m.kind with | .grant _ => true | _ => false) && m.cl == cl && m.line == line).getD s).deliverOne
      (fun x => x == k) cl line
  else s

/-- An eviction reaches its home, which always takes it (R133, R134): one that meets a forward or a recall is held in a
reserved entry of its slice, and one of these ends where all are taken. -/
def State.evictionOne (s : State) (k : MsgKind) (cl line : Nat) : State :=
  let met := (s.coh.msgs.any fun m => m.kind == k && m.cl == cl && m.line == line) && s.fwdOpen cl line
  (if met then s.freeHold line else s).deliverOne (fun x => x == k) cl line

/-- The kinds of partial that a number names (R127): below 16 the operation of R310, from 16 on those of R238. -/
def uKind (n : Nat) : AOp := aopOf n

/-- RDS (R131): from a cluster that has no copy. -/
def execRds (cl line : Nat) (s : State) : Out :=
  .next (if (s.cline cl line).isNone then s.requestOne cl line .rdS else s)

/-- RDX (R131): from a cluster that has no copy. -/
def execRdx (cl line : Nat) (s : State) : Out :=
  .next (if (s.cline cl line).isNone then s.requestOne cl line .rdX else s)

/-- UPG (R131, R132): from a cluster that holds S or O; it becomes RdX where the home finds that it no longer does. -/
def execUpg (cl line : Nat) (s : State) : Out :=
  .next (match s.lineSt cl line with
    | some .S | some .O => s.requestOne cl line .upg
    | _ => s)

/-- RDU (R127, R131): from a cluster that holds nothing or S. -/
def execRdu (cl line kind : Nat) (s : State) : Out :=
  let k := uKind kind
  let free := match s.cline cl line with | none => true | some x => x.st == .S && !x.wb
  .next (if k.reduces && free && !s.watched line then s.requestOne cl line (.rdU k) else s)

/-- WRL (R130): the home recalls or collects every copy and writes the 128 bytes. -/
def execWrl (cl line bytes : Nat) (s : State) : Out := .next (s.requestOne cl line (.wrL (bytes % 2 ^ 1024)))

/-- PUTE (R131, R133). -/
def execPute (cl line : Nat) (s : State) : Out := .next (s.evictionOne .putE cl line)

/-- WB (R131, R133). -/
def execWb (cl line : Nat) (s : State) : Out := .next (s.evictionOne .wb cl line)

/-- WBU (R129). -/
def execWbu (cl line : Nat) (s : State) : Out :=
  .next (s.deliverOne (fun k => match k with | .wbu _ _ => true | _ => false) cl line)

/-- ACK (R131). -/
def execAck (cl line : Nat) (s : State) : Out := .next (s.deliverOne (fun k => k == .ack) cl line)

/-- FWDACK (R131). -/
def execFwdack (cl line : Nat) (s : State) : Out :=
  .next (s.deliverOne (fun k => match k with | .fwdAck _ => true | _ => false) cl line)

/-- PARTIAL_RETURN (R129, R153). -/
def execPartialReturn (cl line : Nat) (s : State) : Out :=
  .next (s.deliverOne (fun k => match k with | .partial_ _ _ => true | _ => false) cl line)

/-- MEMORY_DATA (R131). -/
def execMemoryData (line : Nat) (s : State) : Out :=
  .next ((s.deliverFirst fun m => m.kind == .memData && m.line == line).getD s)

/-- INV (R132). -/
def execInv (cl line : Nat) (s : State) : Out := .next (s.snoopOne .inv cl line)

/-- FWDS (R132). -/
def execFwds (cl line : Nat) (s : State) : Out := .next (s.snoopOne .fwdS cl line)

/-- FWDX (R132). -/
def execFwdx (cl line : Nat) (s : State) : Out := .next (s.snoopOne .fwdX cl line)

/-- RCL (R131). -/
def execRcl (cl line : Nat) (s : State) : Out := .next (s.snoopOne .rcl cl line)

/-- COLL_MESSAGE (R129). -/
def execCollMessage (cl line : Nat) (s : State) : Out := .next (s.snoopOne .coll cl line)

/-- DATA (R131): a grant reaches its requester. -/
def execData (cl line : Nat) (s : State) : Out :=
  .next (s.deliverOne (fun k => match k with | .grant _ => true | _ => false) cl line)

/-- WBACK (R132). -/
def execWback (cl line : Nat) (s : State) : Out := .next (s.deliverOne (fun k => k == .wbAck) cl line)

/-- CLUSTER_EVICTION (R129, R131, R132): a dirty line goes out as WB, a clean sole copy as PutE, a partial as WBU, and a
shared copy or a copy of an RO line without a message. An SCO copy stays: the cluster gives one up only where R121
requires it. -/
def execClusterEviction (cl line : Nat) (s : State) : Out :=
  let s : State := { s with ro := s.ro.filter fun x => !(x.cl == cl && x.line == line) }
  .next (match s.cline cl line with
    | none => s
    | some x => s.evictLine x)

/-- LLC_EVICTION (R126): the line is recalled from its holders, and its entry goes. -/
def execLlcEviction (line : Nat) (s : State) : Out :=
  .next (if (tget line s.coh.dir).isSome then s.requestOne 0 line .evict else s)

/-- SPILL_QUEUE_DRAIN (R133): the oldest request of the queue is taken back as an entry frees. -/
def execSpillQueueDrain (slice : Nat) (s : State) : Out :=
  match tgetD s.coh.spill slice [] with
  | [] => .next s
  | (line, cl, r) :: rest =>
    let t := s.setSpill slice rest
    let d := t.dirOf line
    .next (if d.txn.isSome then
        (if d.waiting.length < Config.lineWaiting then t.setDir line { d with waiting := d.waiting ++ [(cl, r)] } else s)
      else if t.sliceFull line then s
      else t.homeStart line cl r)

/-- HOME_ATOMIC (R127, R131, R314): the home recalls every copy and performs the atomic at `off` of the line. -/
def execHomeAtomic (cl line off op arg cmp : Nat) (s : State) : Out :=
  let o := aopOf op
  let _ := cl
  .next (if off % o.size == 0 && decide (off < 128) then (s.atomicHome (line * 128 + off) o arg cmp).2 else s)

end Sys2Proof.Machine
end

