-- ==== Sys2Proof/Machine/Engine.lean ====
section
/-!
DEFINITION. Completion tags (R241), the issue of an engine's operation (R233, R292), and the box copy engine: its
descriptor, walk, fill, swizzle, multicast, reduce-on-store and errors (R233 to R240), and CDEC (R335).
-/
namespace Sys2Proof.Machine

/-! ### Tags -/

/-- A tag instruction stops here with ILL: an open task, a core that is not the home of a Bramble team, or a mask bit
beyond the tag count (R102, R241). FFRT is legal in a task. -/
def State.tagBar (s : State) (m : Nat) (taskOk : Bool) : Bool :=
  let t := s.myTeam
  (!taskOk && s.me.taskId != 0) || (s.myGrid.bramble && s.me.core != t.home) || decide (2 ^ t.ntags ≤ m)

/-- Tags that a mask names. -/
def tagsOf (m : Nat) : List Nat := bitsSet m 64

/-- The tags are observed (R241): the lowest that carries an error traps with its cause; otherwise an acquire at
.team. -/
def State.observe (s : State) (tags : List Nat) (fin : State → State) : Res :=
  match tags.findSome? fun n => (s.myTeam.tag n).err with
  | some (c, v) => .trap c v s
  | none => .done (fin (s.acquire 0))

/-- WTAL (R241). -/
def execWtal (a : Spec) (s : State) : Out :=
  issue (.wtal a)
    (fun s =>
      let m := (s.rd a s.me.lowE).toNat
      if s.tagBar m false then .trap .ill (wordVal (.wtal a)) s
      else if (tagsOf m).all fun n => (s.myTeam.tag n).ready then s.observe (tagsOf m) id
      else .wait (s.modMe fun g => { g with wait := .tag })) s

/-- d ← an index in every lane of E. -/
def State.putIndex (s : State) (d : Spec) (x : Word) : State := s.putDirect d (s.me.E.map fun l => (l, x))

/-- WTAN (R241). -/
def execWtan (d a : Spec) (s : State) : Out :=
  issue (.wtan d a)
    (fun s =>
      let m := (s.rd a s.me.lowE).toNat
      if s.tagBar m false then .trap .ill (wordVal (.wtan d a)) s
      else
        match (tagsOf m).find? fun n => (s.myTeam.tag n).ready with
        | some n => s.observe [n] fun s => s.putIndex d (BitVec.ofNat 64 n)
        | none => .wait (s.modMe fun g => { g with wait := .tag })) s

/-- FFRT (R354): it never waits. -/
def execFfrt (d a : Spec) (s : State) : Out :=
  issue (.ffrt d a)
    (fun s =>
      let m := (s.rd a s.me.lowE).toNat
      if s.tagBar m true then .trap .ill (wordVal (.ffrt d a)) s
      else
        match (tagsOf m).find? fun n => (s.myTeam.tag n).ready with
        | some n => s.observe [n] fun s => s.putIndex d (BitVec.ofNat 64 n)
        | none => .done (s.putIndex d (BitVec.allOnes 64))) s

/-- TGCL (R401): bit and error of every masked tag that is not in flight. -/
def execTgcl (a : Spec) (s : State) : Out :=
  issue (.tgcl a)
    (fun s =>
      let m := (s.rd a s.me.lowE).toNat
      if s.tagBar m false then .trap .ill (wordVal (.tgcl a)) s
      else .done (s.modTeam s.me.team fun t =>
        { t with tags := (tagsOf m).foldl (fun ts n =>
            if (tgetD ts n {}).busy then ts else tset n { tgetD ts n {} with ready := false, err := none } ts) t.tags })) s

/-! ### Issue of an engine's operation -/

/-- The issue steps of BCPY and COLL (R233, R292): alignment, the descriptor as one load of the lowest lane, the tag, the
wait for an earlier operation on it, and the hand-over. -/
def State.engineIssue (s : State) (word : Word) (va : Word) (tagOf : Nat → Nat) (go : Nat → State → State) : Res :=
  let g := s.me
  if g.taskId != 0 then .jumped (s.abortTask s.cur Cause.tskeng.code)
  else if s.myGrid.bramble && g.core != s.myTeam.home then .trap .ill word s
  else if va.toNat % 128 != 0 then .trap .align va s
  else
    let after (v : Nat) (s : State) : Res :=
      let n := tagOf v
      let clear (s : State) : State := s.modMe fun g => { g with remote := [] }
      if s.myTeam.ntags ≤ n then .trap .ill word (clear s)
      else if (s.myTeam.tag n).busy then .wait (s.modMe fun g => { g with wait := .tag, remote := [(0, 0, v)] })
      else
        .done (go v ((clear s).modTeam g.team fun t => { t with tags := tset n { busy := true } t.tags }))
    match g.wait, g.remote with
    | .tag, (_, _, v) :: _ => after v s
    | _, _ =>
      match memOp false id [{ lane := g.lowE, va := va, n := 128, acc := .load }]
          (fun vals s => s.modMe fun g => { g with remote := vals.map fun v => (v.1, 0, v.2) }) s with
      | .done t => (match t.me.remote with | (_, _, v) :: _ => after v t | [] => .wait t)
      | r => r

/-- BCPY (R233, R334). -/
def execBcpy (a : Spec) (s : State) : Out :=
  issue (.bcpy a)
    (fun s =>
      let va := s.rd a s.me.lowE
      s.engineIssue (wordVal (.bcpy a)) va (fun v => bitsOf v (128 + 25) (128 + 20)) fun v s =>
        let g := s.me
        let op : BceOp := { team := g.team, tag := bitsOf v (128 + 25) (128 + 20), desc := va, bytes := toBytes 128 v, core := g.core,
                            tid := (g.lane g.lowE).th.tid }
        { s with bce := s.bce ++ [op] }) s

/-- CDEC (R335): each lane's counter must be the context's; the decrements reach the CP in lane order. -/
def execCdec (a : Spec) (s : State) : Out :=
  issue (.cdec a)
    (fun s =>
      if s.me.taskId != 0 then .trap .ill (wordVal (.cdec a)) s
      else
        let c := s.myCtx
        let ns := s.vals a
        match ns.find? fun n => !(decide (n.2.toNat < 4096) && decide (c.ctrLo ≤ n.2.toNat) && decide (n.2.toNat < c.ctrLo + c.ctrN)) with
        | some n => .trap .prot n.2 s
        | none =>
          let t := s.release 3
          .done { t with decs := t.decs ++ ns.map fun n => n.2.toNat }) s

/-! ### The box -/

/-- A field of a descriptor, and a signed one. -/
def dNum (bs : List Byte) (off n : Nat) : Nat := ofBytes ((bs.drop off).take n)
def dInt (bs : List Byte) (off n : Nat) : Int :=
  let x := dNum bs off n
  if x < 2 ^ (8 * n - 1) then x else (x : Int) - 2 ^ (8 * n)

/-- A BCPY descriptor (R233). -/
structure BoxDesc where
  srcb : Nat
  dstb : Nat
  ctrl : Nat
  sext : List Nat
  org : List Int
  box : List Nat
  sstr : List Int
  dstr : List Int
  rsv : Nat
  deriving DecidableEq, Repr

def boxOf (bs : List Byte) : BoxDesc :=
  { srcb := dNum bs 0 8, dstb := dNum bs 8 8, ctrl := dNum bs 16 8,
    sext := (upTo 5).map fun k => dNum bs (24 + 4 * k) 4, org := (upTo 5).map fun k => dInt bs (44 + 4 * k) 4,
    box := (upTo 5).map fun k => dNum bs (64 + 2 * k) 2, sstr := (upTo 4).map fun k => dInt bs (74 + 6 * k) 6,
    dstr := (upTo 4).map fun k => dInt bs (98 + 6 * k) 6, rsv := dNum bs 122 6 }

def BoxDesc.mcast (b : BoxDesc) : Nat := bitsOf b.ctrl 39 32
def BoxDesc.rsc (b : BoxDesc) : Nat := bitsOf b.ctrl 18 16
def BoxDesc.asc (b : BoxDesc) : Nat := bitsOf b.ctrl 14 12
def BoxDesc.rdu (b : BoxDesc) : Bool := b.ctrl.testBit 11
def BoxDesc.red (b : BoxDesc) : Nat := bitsOf b.ctrl 10 8
def BoxDesc.swz (b : BoxDesc) : Nat := bitsOf b.ctrl 6 5
def BoxDesc.fill (b : BoxDesc) : Nat := bitsOf b.ctrl 4 3
/-- Element size in bytes. -/
def BoxDesc.e (b : BoxDesc) : Nat := 2 ^ bitsOf b.ctrl 2 0
/-- Granule of the swizzle (R236). -/
def BoxDesc.granule (b : BoxDesc) : Nat := 4 * 2 ^ b.swz
def inStore (va : Nat) : Bool := va / 2 ^ 56 == 0xFF
def BoxDesc.size (b : BoxDesc) (e : Nat) : Bool := b.e == e

/-- The reduction that RED and the element size name (R238). -/
def BoxDesc.aop (b : BoxDesc) : Option AOp :=
  match b.red, b.e with
  | 1, 8 => some .redAddD | 2, 4 => some .redAddF | 3, 2 => some .redAddB
  | 4, 8 => some .redMinD | 4, 4 => some .redMinF | 4, 2 => some .redMinB
  | 5, 8 => some .redMaxD | 5, 4 => some .redMaxF | 5, 2 => some .redMaxB
  | _, _ => none

/-- Errors that the descriptor shows by itself (R240): codes 1, 2, 3 and 5 in this order. `ens` is the ensemble's size.
(DEDUCED, log entry 43.) -/
def BoxDesc.error (b : BoxDesc) (ens : Nat) : Option Nat :=
  let rsv := b.ctrl / 2 ^ 40 != 0 || bitsOf b.ctrl 31 26 != 0 || b.ctrl.testBit 19 || b.ctrl.testBit 15 || b.ctrl.testBit 7 || b.rsv != 0
  let codes := decide (4 < b.rsc) || decide (4 < b.asc) || decide (5 < b.red) || decide (16 < b.e)
  let zero := b.sext.contains 0 || b.box.contains 0
  if rsv || codes || zero || (b.red != 0 && b.aop.isNone) || (b.fill == 1 && b.e == 1) || (b.fill == 3 && b.e != 2) then some 1
  else if b.srcb % b.e != 0 || b.dstb % b.e != 0 || (b.sstr ++ b.dstr).any (fun x => x % (b.e : Int) != 0)
      || (b.swz != 0 && ((!inStore b.srcb && !inStore b.dstb) || decide (b.granule < b.e))) then some 2
  else if (bitsSet b.mcast 8).any fun m => decide (ens < m + 1) then some 3
  else if (b.red != 0 && b.dstb / 2 ^ 56 != 0) || (b.mcast != 0 && !inStore b.dstb) then some 5
  else none

/-- The swizzle (R236). -/
def BoxDesc.swizzle (b : BoxDesc) (o : Nat) : Nat :=
  if b.swz == 0 then o else Nat.xor o (o / 256 % (256 / b.granule) * b.granule)

/-- A signed sum as an offset of 64 bits. -/
def wrap64 (x : Int) : Nat := (x % 2 ^ 64).toNat

/-- Every index of a box (R234), the first dimension fastest. -/
def boxIdx : List Nat → List (List Nat)
  | [] => [[]]
  | n :: r => ((boxIdx r).map fun t => (upTo n).map fun i => i :: t).flatten

/-- The bytes that an out-of-bounds element takes (R235): none where nothing is written. -/
def BoxDesc.fillBytes (b : BoxDesc) : Option (List Byte) :=
  if b.red != 0 then none
  else
    match b.fill with
    | 0 => some (toBytes b.e 0)
    | 1 => some (match b.e with
        | 2 => toBytes 2 0x7FC0
        | 4 => toBytes 4 0x7FC00000
        | 8 => toBytes 8 0x7FF8000000000000
        | _ => toBytes 8 0x7FF8000000000000 ++ toBytes 8 0x7FF8000000000000)
    | 3 => some (toBytes 2 0x7E00)
    | _ => none

/-- One element of the box: its source address where it is in bounds, the bytes that fill it otherwise, and its
destination addresses, the multicast ones after its own (R234 to R237). -/
structure BoxEl where
  src : Option Word
  fill : List Byte
  dst : List Word
  deriving DecidableEq, Repr

def dotI (xs : List Int) (ys : List Int) : Int := (List.zipWith (fun x y => x * y) xs ys).foldl (fun a b => a + b) 0

/-- An element by its index; `none` where nothing is written. -/
def BoxDesc.el (b : BoxDesc) (n : List Nat) : Option BoxEl :=
  let ni := n.map Int.ofNat
  let g := List.zipWith (fun o x => o + x) b.org ni
  let inb := (List.zipWith (fun (x : Int) (m : Nat) => decide (0 ≤ x) && decide (x < (m : Int))) g b.sext).all id
  let so := wrap64 (dotI ((b.e : Int) :: b.sstr) g)
  let so := if inStore b.srcb && !inStore b.dstb then b.swizzle so else so
  let o := wrap64 (dotI ((b.e : Int) :: b.dstr) ni)
  let o := if inStore b.dstb then b.swizzle o else o
  let d : Word := BitVec.ofNat 64 (b.dstb + o)
  let ranks := (bitsSet b.mcast 8).map fun m => m + 1
  let dst := d :: ranks.map fun r => BitVec.ofNat 64 (d.toNat - bitsOf d.toNat 55 48 * 2 ^ 48 + r * 2 ^ 48)
  if inb then some { src := some (BitVec.ofNat 64 (b.srcb + so)), fill := [], dst := dst }
  else b.fillBytes.map fun f => { src := none, fill := f, dst := dst }

def BoxDesc.els (b : BoxDesc) : List BoxEl := (boxIdx b.box).filterMap b.el

/-! ### The engine's accesses -/

/-- The thread for which the engine accesses memory. -/
def State.bceWho (s : State) (op : BceOp) : Who :=
  { team := op.team, tid := op.tid, core := op.core, ctx := (s.grid (s.team op.team).grid).ctx, task := 0 }

/-- Bytes read by the engine (R239): COH and DEV lines at their homes, SCO and RO lines through the core's cluster. -/
def State.engRead (s : State) (core : Nat) (t : Target) (n : Nat) : List Byte × State :=
  match t with
  | .mem pa ty _ _ =>
    if ty == .coh || ty == .dev then s.homeRead pa n
    else
      let s := s.readPrep (clusterOf core) ty pa n
      ((upTo n).map fun i => s.clusterByte (clusterOf core) ty (pa + i), s)
  | .store t off => (s.peekStore t off n, s)
  | _ => ([], s)

/-- SCO copies of the lines that the engine writes leave the core's cluster, their dirty bytes first (R151). -/
def State.dropMine (s : State) (core pa n : Nat) : State :=
  (linesOf pa n).foldl (fun s l =>
    match s.scoLine (clusterOf core) l with
    | some x => (s.scoBack x).dropSco x.cl x.line
    | none => s) s

/-- Bytes written by the engine, at the homes (R151). -/
def State.engWrite (s : State) (core : Nat) (t : Target) (bs : List Byte) : State :=
  match t with
  | .mem pa .coh _ _ => s.homeWrite pa bs
  | .mem pa .sco _ _ => ((linesOf pa bs.length).foldl (fun s l => s.collect l) (s.dropMine core pa bs.length)).poke pa bs
  | .mem pa _ _ _ => s.homeWrite pa bs
  | .store t off => s.pokeStore t off bs
  | _ => s

/-- A reduction by the engine (R238): in U where RDU asks and R127 allows, otherwise at the home. -/
def State.engReduce (s : State) (core : Nat) (t : Target) (op : AOp) (u : Bool) (x : Nat) : State :=
  match t with
  | .mem pa .coh _ _ => if u then s.reduce (clusterOf core) op pa x else (s.atomicHome pa op x 0).2
  | .mem pa _ _ _ => (s.atomicHome pa op x 0).2
  | _ => s

/-- Engine error codes of causes (R240). -/
def engCode (c : Cause) : Nat :=
  match c with
  | .noaddr => 3 | .page => 4 | .prot => 5 | .vpool => 6 | .fabdeny | .peerrst => 7 | _ => 1

/-- TVAL of ENGERR (R240). -/
def engTval (desc : Word) (code : Nat) : Word := BitVec.ofNat 64 (desc.toNat / 128 * 128 + code)

/-- One target of an engine's access, checked (R239): an engine has no fault of alignment left. -/
def State.engTarget (s : State) (w : Who) (va : Word) (n : Nat) (k : AKind) : Except Cause Target :=
  match s.targets w va n 1 k with
  | .error c => .error c
  | .ok ((t, _) :: _) => .ok t
  | .ok [] => .error .noaddr

/-- An element with its targets. -/
structure BoxAcc where
  src : Option Target
  fill : List Byte
  dst : List Target
  deriving DecidableEq, Repr

def State.boxAcc (s : State) (w : Who) (n : Nat) (red : Bool) (x : BoxEl) : Except Cause BoxAcc :=
  let src : Except Cause (Option Target) := match x.src with
    | none => .ok none
    | some va => (s.engTarget w va n .load).map some
  match src with
  | .error c => .error c
  | .ok t =>
    let ds := x.dst.map fun va => s.engTarget w va n (if red then .atomic else .store)
    match ds.findSome? fun d => match d with | .error c => some c | .ok _ => none with
    | some c => .error c
    | none => .ok { src := t, fill := x.fill, dst := ds.filterMap fun d => d.toOption }

/-- The targets of all elements: those that pass, and the first cause. -/
def State.boxAccs (s : State) (w : Who) (n : Nat) (red : Bool) : List BoxEl → List BoxAcc × Option Cause
  | [] => ([], none)
  | x :: r =>
    let y := s.boxAccs w n red r
    match s.boxAcc w n red x with
    | .ok a => (a :: y.1, y.2)
    | .error c => (y.1, some c)

/-- Two places share a byte of `n` bytes each. -/
def Place.meets (p : Place) (q : Place) (n : Nat) : Bool :=
  match p, q with
  | .phys a, .phys b => overlap a n b n
  | .store t a, .store u b => t == u && overlap a n b n
  | .remote t a, .remote u b => t == u && overlap a n b n
  | _, _ => false

/-- Elements whose order or whose reading can be seen (R234, R239): two destinations, or a source and a destination of
another element, share a byte. -/
def boxClash (n : Nat) (l : List BoxAcc) : Bool :=
  let ps := (l.map fun a => a.dst.filterMap Target.place).flatten
  let ss := l.filterMap fun a => a.src.bind Target.place
  let two := imapFrom (fun i p => (i, p)) 0 ps
  two.any fun x => (two.any fun y => x.1 != y.1 && x.2.meets y.2 n) || ss.any fun q => x.2.meets q n

/-- The copies that the elements' pages need (R172, R239): as for a group's store. -/
def State.engCow (s : State) (ctx : Nat) : List BoxAcc → Except Pool (Bool × State)
  | [] => .ok (false, s)
  | a :: r =>
    let need := a.dst.filterMap fun t => match t with
      | .mem _ _ (some d) va => if s.needsCow ctx d va then some (d, va) else none
      | _ => none
    let go := need.foldl (fun x y => match x with
      | .error p => .error p
      | .ok s => s.cowStart ctx y.1 y.2) (Except.ok s : Except Pool State)
    match go with
    | .error p => .error p
    | .ok t => (t.engCow ctx r).map fun z => (z.1 || !need.isEmpty, z.2)

/-- The value of an element: what its source held when the operation began, or holds now, by a free choice where the two
differ (R239). -/
def State.elValue (s s0 : State) (core n : Nat) (got : Nat → Option (List Byte)) (i : Nat) (a : BoxAcc) : List Byte × State :=
  match a.src with
  | none => (a.fill, s)
  | some t =>
    match got i with
    | some bs => (bs, s)
    | none =>
      let old := (s0.engRead core t n).1
      let now := s.engRead core t n
      if old == now.1 then now
      else
        let d := now.2.draw1
        (if Config.freeChoice d.1 % 2 == 0 then old else now.1, d.2)

/-- One element goes to its destinations in this package. -/
def State.putEl (s : State) (core : Nat) (b : BoxDesc) (a : BoxAcc) (bs : List Byte) : State :=
  a.dst.foldl (fun s t => match b.aop with
    | some op => s.engReduce core t op b.rdu (ofBytes bs)
    | none => s.engWrite core t bs) s

/-- The operation is over: its tag is set, with the error if it failed (R240, R241); an operation that failed releases
nothing (R151). -/
def State.bceDone (s : State) (op : BceOp) (b : BoxDesc) (err : Option Nat) : State :=
  let s : State := { s with bce := s.bce.filter fun x => !(x.team == op.team && x.tag == op.tag) }
  let sco := decide (2 ≤ b.rsc) || (b.rsc == 0 && s.spans op.team)
  let s := if err.isNone && sco then s.scoRelease (clusterOf op.core) else s
  (s.setTag op.team op.tag (err.map fun c => (Cause.engerr, engTval op.desc c))).saveCheck op.team

def State.setBce (s : State) (op : BceOp) : State :=
  { s with bce := s.bce.map fun x => if x.team == op.team && x.tag == op.tag then op else x }

/-- The request of one element to another package (R238, R289): number, package and address; `none` reads it, and bytes are
written or, with a reduction, combined there. -/
def bceReq (n i q pa : Nat) (aop : Option AOp) (bytes : Option (List Byte)) : RemAsk :=
  let off := pa % 256
  let mask := (2 ^ n - 1) * 2 ^ off
  match bytes, aop with
  | none, _ => { peer := q, kind := 0, pa := pa - off, op := 0, parts := [(i, off, n, 0)], mask := mask, data := [], vas := [] }
  | some bs, some o => { peer := q, kind := 2, pa := pa, op := o.num, parts := [(i, 0, n, 0)], mask := 0, data := bs ++ toBytes n 0, vas := [] }
  | some bs, none => { peer := q, kind := 1, pa := pa - off, op := 0, parts := [(i, off, n, 0)], mask := mask, vas := []
                       data := List.replicate off 0 ++ bs ++ List.replicate (256 - off - n) 0 }

/-- Requests of a BCPY to other packages. -/
def State.bceSend (s : State) (op : BceOp) (l : List RemAsk) : State :=
  l.foldl (fun s a => s.remoteAsk 0 (.bce op.team op.tag) (s.grid (s.team op.team).grid).ctx a) s

def remoteT (t : Target) : Option (Nat × Nat) := match t with | .remote q pa _ => some (q, pa) | _ => none
def deviceT (t : Target) : Option Nat := match t with | .device pa => some pa | _ => none

/-- The acquire of a BCPY comes before its first read, and once (R151). -/
def State.bceAcquire (s : State) (op : BceOp) (b : BoxDesc) : State :=
  let sco := decide (2 ≤ b.asc) || (b.asc == 0 && s.spans op.team)
  if op.stage == 0 && sco then s.scoAcquire (clusterOf op.core) else s

/-- The engine meets an error (R240): each element that passes its checks is written in full or left unchanged, as a free
choice has it; one whose page needs a copy first is left unchanged (R172, R239). -/
def State.bceFail (s : State) (op : BceOp) (b : BoxDesc) (l : List BoxAcc) (code : Nat) : State :=
  let ctx := (s.grid (s.team op.team).grid).ctx
  let copies (t : Target) : Bool := match t with | .mem _ _ (some d) va => s.needsCow ctx d va | _ => false
  let near := l.filter fun a =>
    ((a.dst ++ a.src.toList).all fun t => (remoteT t).isNone && (deviceT t).isNone) && !a.dst.any copies
  let t := near.foldl (fun s a =>
    let d := s.draw1
    if Config.freeChoice d.1 % 2 == 0 then d.2
    else
      let v := d.2.elValue d.2 op.core b.e (fun _ => none) 0 a
      v.2.putEl op.core b a v.1) (s.bceAcquire op b)
  t.bceDone op b (some code)

/-- The elements' values, and the local writes; what is left for other packages. -/
def State.bceRun (s0 : State) (op : BceOp) (b : BoxDesc) (got : Nat → Option (List Byte)) :
    List (Nat × BoxAcc) → State → List RemAsk × State
  | [], s => ([], s)
  | (i, a) :: r, s =>
    let v := s.elValue s0 op.core b.e got i a
    let far := a.dst.filterMap remoteT
    let t := v.2.putEl op.core b a v.1
    let y := State.bceRun s0 op b got r t
    (far.map (fun q => bceReq b.e i q.1 q.2 b.aop (some v.1)) ++ y.1, y.2)

/-- The size of a team's ensemble (R25): that of the launch packet, the last one of a grid taking what is left. -/
def State.ensembleSize (s : State) (team : Nat) : Nat :=
  let tm := s.team team
  let p := (s.grid tm.grid).pkt
  match tm.ensemble with
  | none => 0
  | some (en, _) => min p.ensz (p.gridx * p.gridy * p.gridz - en * p.ensz)

/-- A BCPY goes on (R234 to R240): its errors, the copies that its pages need, its reads of other packages, its writes, the
answers to those that left the package, and its end. (DEDUCED, log entry 43.) -/
def State.bceStep (s : State) (op : BceOp) : Out :=
  let b := boxOf op.bytes
  let ctx := (s.grid (s.team op.team).grid).ctx
  let asked := s.remReqs.any fun r => r.use == .bce op.team op.tag
  let bad := op.got.filter fun r => r.2.1 != 0
  let badCode := if bad.any fun r => r.2.1 != 2 then 7 else 5
  if asked then .next s
  else
    match b.error (s.ensembleSize op.team) with
    | some c => .next (s.bceDone op b (some c))
    | none =>
      if op.stage == 2 then .next (s.bceDone op b (if bad.isEmpty then none else some badCode))
      else
        let w := s.bceWho op
        let els := b.els
        if els.any fun x => (x.src.toList ++ x.dst).any fun va => s.walkHeld w va b.e then .next s
        else
        let s := els.foldl (fun s x => (x.src.toList ++ x.dst).foldl (fun s va => s.prefetch w va b.e) s) s
        let r := s.boxAccs w b.e (b.red != 0) els
        match r.1.findSome? fun a => (a.src.toList ++ a.dst).findSome? deviceT with
        | some pa => .refused (.deviceRegister pa)
        | none =>
          let poison := !s.bad.isEmpty && r.1.any fun a => match a.src with
            | some (.mem pa _ _ _) => (linesOf pa b.e).any fun x => s.bad.contains x
            | _ => false
          if poison then .next s
          else match r.2, bad with
          | some c, _ => .next (s.bceFail op b r.1 (engCode c))
          | none, _ :: _ => .next (s.bceFail op b r.1 badCode)
          | none, [] =>
            match s.engCow ctx r.1 with
            | .error _ => .next (s.bceFail op b r.1 6)
            | .ok (true, t) => .next t
            | .ok (false, s) =>
              let s := s.bceAcquire op b
              let num := imapFrom (fun i a => (i, a)) 0 r.1
              let far := num.filterMap fun x => (x.2.src.bind remoteT).map fun q => bceReq b.e x.1 q.1 q.2 none none
              if op.stage == 0 && !far.isEmpty then .next ((s.setBce { op with stage := 1 }).bceSend op far)
              else
                let got (i : Nat) : Option (List Byte) := (op.got.find? fun g => g.1 == i).map fun g => toBytes b.e g.2.2
                let o := if boxClash b.e r.1 then freeOrder num.length s num else (num, s)
                let y := State.bceRun o.2 op b got o.1 o.2
                if y.1.isEmpty then .next (y.2.bceDone op b none)
                else .next ((y.2.setBce { op with stage := 2, got := [] }).bceSend op y.1)

end Sys2Proof.Machine
end

