-- ==== Sys2Proof/Machine/Coll.lean ====
section
/-!
DEFINITION. Collectives (R291 to R297, R336): the descriptor and the route plan, the issue of COLL, the processing of a
packet's hop, completion, and the reset of a member. The fabric engine keeps no cache: it reads and writes at the homes.
-/
namespace Sys2Proof.Machine

/-! ### The descriptor -/

def cGroup (bs : List Byte) : Nat := dNum bs 0 2
def cSeq (bs : List Byte) : Nat := dNum bs 2 2
def cOp (bs : List Byte) : Nat := dNum bs 4 1
def cType (bs : List Byte) : Nat := dNum bs 5 1
def cCtrl (bs : List Byte) : Nat := dNum bs 6 2
def cCount (bs : List Byte) : Nat := dNum bs 8 8
def cSrcb (bs : List Byte) : Nat := dNum bs 16 8
def cDstb (bs : List Byte) : Nat := dNum bs 24 8
def cPlan (bs : List Byte) : Nat := dNum bs 32 8
def cNplan (bs : List Byte) : Nat := dNum bs 40 2
def cChunk (bs : List Byte) : Nat := dNum bs 42 2
def cCtr (bs : List Byte) : Nat := dNum bs 44 2
def cCrec (bs : List Byte) : Nat := dNum bs 48 8

/-- Format and bytes of an element (R291). -/
def typeFmt (t : Nat) : Fmt := match t with | 0 => b64 | 1 => b32 | 2 => bf16 | _ => b16
def typeSize (t : Nat) : Nat := match t with | 0 => 8 | 1 => 4 | _ => 2

/-- DHASH (R291). -/
def dhashOf (bs : List Byte) : Nat := crc32c (bs.take 6 ++ (bs.drop 8).take 8 ++ (bs.drop 40).take 4)

def cTotal (bs : List Byte) : Nat := cCount bs * typeSize (cType bs)
def cChunks (bs : List Byte) : Nat := (cTotal bs + cChunk bs - 1) / cChunk bs

/-- An error code or a reserved field in the descriptor (R291, R296). -/
def descBad (bs : List Byte) (c : Ctx) : Bool :=
  let ctrl := cCtrl bs
  decide (3 < cOp bs) || decide (3 < cType bs) || bitsOf ctrl 7 6 != 0 || ctrl.testBit 11 || ctrl.testBit 15
    || decide (4 < bitsOf ctrl 10 8) || decide (4 < bitsOf ctrl 14 12)
    || cCount bs == 0 || decide (2 ^ 40 < cCount bs) || cPlan bs % 32 != 0 || cNplan bs == 0 || decide (4096 < cNplan bs)
    || decide (cChunk bs < 8) || decide (1024 < cChunk bs) || cChunk bs % typeSize (cType bs) != 0
    || !(decide (c.ctrLo ≤ cCtr bs) && decide (cCtr bs < c.ctrLo + c.ctrN)) || decide (4096 ≤ cCtr bs)
    || dNum bs 46 2 != 0 || dNum bs 56 72 != 0 || cCrec bs % 16 != 0

/-! ### The engine's accesses -/

/-- Targets in this package's memory of an access in the global window (R291, R296). -/
def State.feTargets (s : State) (w : Who) (va n : Nat) (k : AKind) : Except Cause (List (Target × Nat)) :=
  if va / 2 ^ 56 != 0 then .error .noaddr
  else
    match s.targets w (BitVec.ofNat 64 va) n 1 k with
    | .error c => .error c
    | .ok ts => if ts.all fun t => match t.1 with | .mem _ _ _ _ => true | _ => false then .ok ts else .error .prot

/-- An access of the engine meets an uncorrectable error, in the walk or, a read, in the bytes (R277). -/
def State.feHeld (s : State) (w : Who) (va n : Nat) (k : AKind) : Bool :=
  !s.bad.isEmpty && (s.walkHeld w (BitVec.ofNat 64 va) n ||
    match s.feTargets w va n k with
    | .ok ts => k == .load && ts.any fun t => match t.1 with | .mem pa _ _ _ => s.poisoned pa t.2 | _ => false
    | .error _ => false)

/-- A read of the engine: at the homes, where dirty bytes of an SCO line come first, since the issue is ordered behind the
issuing lane's stores (R151). -/
def State.feRead (s : State) (w : Who) (va n : Nat) : Except Cause (List Byte × State) :=
  let s := s.prefetch w (BitVec.ofNat 64 va) n
  (s.feTargets w va n .load).map fun ts => ts.foldl (fun y t => match t.1 with
    | .mem pa ty _ _ =>
      let u := if ty == .sco then (linesOf pa t.2).foldl (fun s l => s.scoClean l) y.2 else y.2
      let r := u.homeRead pa t.2
      (y.1 ++ r.1, r.2)
    | _ => y) (([] : List Byte), s)

/-- A write of the engine: the state, and whether it still waits for a copy of its page (R172). -/
def State.feWrite (s : State) (w : Who) (va : Nat) (bs : List Byte) (coh : Bool) : Except Cause (Bool × State) :=
  let s := s.prefetch w (BitVec.ofNat 64 va) bs.length
  match s.feTargets w va bs.length .store with
  | .error c => .error c
  | .ok ts =>
    if coh && ts.any fun t => match t.1 with | .mem _ ty _ _ => ty != .coh | _ => true then .error .prot
    else
      match s.engCow w.ctx [{ src := none, fill := [], dst := ts.map fun t => t.1 }] with
      | .error _ => .error .vpool
      | .ok (true, t) => .ok (true, t)
      | .ok (false, t) =>
        .ok (false, (ts.foldl (fun y t => match t.1 with
          | .mem pa _ _ _ => (y.1.drop t.2, y.2.homeWrite pa (y.1.take t.2))
          | _ => y) (bs, t)).2)

def State.collWho (s : State) (op : CollOp) : Who :=
  { team := op.team, tid := op.tid, core := op.core, ctx := (s.grid (s.team op.team).grid).ctx, task := 0 }

def State.modColl (s : State) (g : Nat) (f : CollGroup → CollGroup) : State := { s with collGroups := tmod g f s.collGroups }

/-- The COLL with a sequence number ends with an error: nothing further is written for it (R296). -/
def State.collFail (s : State) (g seq : Nat) (c : Cause) (tval : Word) : State :=
  s.modColl g fun x => { x with ops := tmod seq (fun op => if op.fail.isSome then op else { op with fail := some (c, tval) }) x.ops }

/-! ### Arriving and sending -/

/-- A packet that is refused, or that does not match, goes back to its source: no op entry, the status as its data. Where the
source is the package itself, its COLL ends so. -/
def State.collReturn (s : State) (src ctx group seq status : Nat) (desc : Word) : State :=
  if src == s.position then (if status == 4 then s.collFail group seq .collmism desc else s.collFail group seq .fabdeny 0)
  else s.fabSend src { type := 6, tc := 2, src := s.position, ctx := ctx, group := group, seq := seq, nbytes := 1, data := [BitVec.ofNat 8 status] }

/-- A collective packet passes the first line of R294: its source is a member of the group, and R286 allows it. -/
def State.collAdmitted (s : State) (k : FPkt) : Bool :=
  match tget k.group s.collGroups with
  | none => false
  | some g => g.members.contains k.src && s.admitsColl k.src k.ctx

/-- A refusal or a mismatch comes back to the package whose packet it was, and ends its COLL (R286, R294): it is the answer
to a packet of ours, and no packet that ingress tests. (DEDUCED, log entry 44.) -/
def State.collAnswer (s : State) (k : FPkt) : State :=
  match (tget k.group s.collGroups).bind fun g => tget k.seq g.ops with
  | none => s
  | some op => if k.data.head? == some 4 then s.collFail k.group k.seq .collmism op.desc else s.collFail k.group k.seq .fabdeny 0

/-- A collective packet arrives (R286, R293 to R295), from the fabric or, by the package's own number, from the package
itself: an answer to one of ours, refused, or staged. -/
def State.collArrive (s : State) (k : FPkt) : State :=
  if k.ops.isEmpty then s.collAnswer k
  else if s.collAdmitted k then { s with hops := s.hops ++ [k] }
  else s.collReturn k.src k.ctx k.group k.seq 1 0

/-- Staging pseudo-channels of a stack: 4 by default (R295). -/
def State.channels (s : State) (stack : Nat) : Nat := tgetD s.staging stack 4

/-- Bytes staged of a group's chunks. -/
def State.staged (s : State) (g : Nat) : Nat := (s.hops.filter fun k => k.group == g).foldl (fun n k => n + k.nbytes) 0

/-- A chunk that is to be staged finds room (R295): in the vault's staging bytes of its group, or in the HBM staging
pseudo-channels, which take what goes beyond the vault's bytes of each group. (DESIGN CHOICE, log entry 77.) -/
def State.stageRoom (s : State) (k : FPkt) : Bool :=
  let vault := match tget k.group s.collGroups with | some g => g.staging | none => 0
  let beyond := s.collGroups.foldl (fun n e => n + (s.staged e.1 - e.2.staging)) 0
  let room := (upTo 12).foldl (fun n i => n + s.channels i) 0 * Config.stagingChannel
  decide (s.staged k.group + k.nbytes ≤ vault) || decide (beyond + k.nbytes ≤ room)

/-- A collective packet of a peer must wait for staging (R283, R295): itself without room, or behind others that wait. -/
def State.collHolds (s : State) (k : FPkt) : Bool :=
  !k.ops.isEmpty && s.collAdmitted k && (!s.collWait.isEmpty || !s.stageRoom k)

/-- The flits of an accepted packet are free again (R283): of the pool, to be granted anew, or of the class's reserve, to be
returned. -/
def Peer.freeFlits (p : Peer) (plane : Nat) (pool : Bool) (tc len : Nat) : Peer :=
  if pool then { p with granted := tset plane (tgetD p.granted plane 0 - len) p.granted }
  else { p with freed := tset tc (tgetD p.freed tc 0 + len) p.freed }

/-- A collective packet of a peer lands: its flits are free, and it arrives. -/
def State.collLand (s : State) (x : CollHeld) : State :=
  (if x.flits == 0 then s else s.modPeer x.peer fun p => p.freeFlits x.plane x.pool x.pkt.tc x.flits).collArrive x.pkt

/-- A collective packet of a peer is taken: it waits for staging, its flits with it, or lands. -/
def State.collTake (s : State) (x : CollHeld) : State :=
  if s.collHolds x.pkt then { s with collWait := s.collWait ++ [x] } else s.collLand x

/-- Collective packets that waited for staging land, the oldest first, as far as room goes (R295). -/
def State.stageWaiting : Nat → State → State
  | 0, s => s
  | n + 1, s =>
    match s.collWait with
    | [] => s
    | x :: rest =>
      if s.collAdmitted x.pkt && !s.stageRoom x.pkt then s
      else State.stageWaiting n (({ s with collWait := rest } : State).collLand x)

/-- A chunk goes on: to the package itself, or over the fabric (R293). -/
def State.collSend (s : State) (op : CollOp) (q : Nat) (ops : List Nat) (off : Nat) (data : List Byte) (ovh : Bool) : State :=
  let k : FPkt := { type := 6, tc := 2, src := s.position, ctx := (s.collWho op).ctx, group := cGroup op.bytes, seq := cSeq op.bytes,
                    dhash := dhashOf op.bytes, ops := ops, offset := off, nbytes := data.length, ovh := ovh,
                    chunk := off / cChunk op.bytes, len := flitsOf (24 + data.length), data := data }
  if q == s.position then s.collArrive k else s.fabSend q k

/-! ### The route plan and the issue -/

/-- A route-plan entry: FIRST, SEND, NRECV, and its op list; `none` where a field is reserved or in error (R293). -/
def planEntry (bs : List Byte) : Option (Nat × Bool × Nat × List Nat) :=
  let b0 := dNum bs 0 1
  let send := b0.testBit 7
  let opn := dNum bs 2 1
  let ops := (upTo (if send then opn else 0)).map fun i => dNum bs (16 + 2 * i) 2
  if decide (8 < opn) || (send && opn == 0) || dNum bs 3 13 != 0 || ops.getLastD 0 % 128 != 0
      || ops.any (fun o => o.testBit 15 || o.testBit 11 || decide (3 < bitsOf o 14 12) || decide (5 < bitsOf o 10 8)) then none
  else some (b0 % 128, send, dNum bs 1 1, ops)

/-- Reads the plan entries that the chunks use: the error's code, or the entries. -/
def State.readPlan (s : State) (w : Who) (plan : Nat) : List Nat → Except Nat (List (Nat × Bool × Nat × List Nat) × State)
  | [] => .ok ([], s)
  | i :: r =>
    match s.feRead w (plan + 32 * i) 32 with
    | .error c => .error (engCode c)
    | .ok (bs, t) =>
      match planEntry bs with
      | none => .error 1
      | some e =>
        match t.readPlan w plan r with
        | .error c => .error c
        | .ok (l, u) => .ok (e :: l, u)

/-- The COLL never ends: one of its reads met an uncorrectable error (R277). -/
def State.collStuck (s : State) (op : CollOp) : State :=
  s.modColl (cGroup op.bytes) fun x => { x with ops := tmod (cSeq op.bytes) (fun o => { o with stuck := true }) x.ops }

/-- Originates the chunks in order (R293). (DEDUCED, log entry 44.) -/
def State.originate (s : State) (op : CollOp) (es : List (Nat × Bool × Nat × List Nat)) : List Nat → Except Nat State
  | [] => .ok s
  | c :: r =>
    match es[c % cNplan op.bytes]? with
    | some (first, true, _, ops) =>
      let off := c * cChunk op.bytes
      let n := min (cChunk op.bytes) (cTotal op.bytes - off)
      if s.feHeld (s.collWho op) (cSrcb op.bytes + off) n .load then .ok (s.collStuck op)
      else
      match s.feRead (s.collWho op) (cSrcb op.bytes + off) n with
      | .error e => .error (engCode e)
      | .ok (bs, t) => (t.collSend op first ops off bs false).originate op es r
    | _ => s.originate op es r

/-- The completion record (R296). -/
def collRecord (op : CollOp) (err : Option Cause) (tick : Nat) : List Byte :=
  toBytes 1 (if err.isNone then 1 else 2) ++ toBytes 1 (match err with | some c => c.code | none => 0)
    ++ toBytes 1 (if op.ovh then 1 else 0) ++ [0] ++ toBytes 4 op.ovcnt ++ toBytes 8 tick

/-- A COLL that takes no number of its group completes at once with ENGERR (R291, R296, R336): its record is written, behind
the copy of the record's page where that is needed, and its tag set. -/
def State.collEarly (s : State) (op : CollOp) : State :=
  let w := s.collWho op
  let bs := collRecord op (some .engerr) s.tick
  let s :=
    if cCrec op.bytes % 16 != 0 then s
    else
      match s.feWrite w (cCrec op.bytes) bs true with
      | .error _ => s
      | .ok (false, t) => t
      | .ok (true, t) =>
        let u := (t.cows.filter fun c => c.ctx == w.ctx && c.vpage == cCrec op.bytes / 65536).foldl State.cowFinish t
        match u.feWrite w (cCrec op.bytes) bs true with
        | .ok (_, v) => v
        | .error _ => u
  s.setTag op.team op.tag (some (.engerr, engTval op.desc 1))

/-- The SCO scope of a COLL's acquire or release (R121, R151). -/
def State.collScope (s : State) (op : CollOp) (scope : Nat) : Bool := decide (2 ≤ scope) || (scope == 0 && s.spans op.team)

/-- COLL is handed to the fabric engine (R292, R296, R336): its acquire comes before its first read (R151, R293).
(DEDUCED, log entry 44.) -/
def State.collStart (s : State) (op : CollOp) : State :=
  let bs := op.bytes
  let gid := cGroup bs
  let w := s.collWho op
  match tget gid s.collGroups with
  | none => s.collEarly op
  | some g =>
    if g.ctx != w.ctx || cSeq bs != g.next then s.collEarly op
    else
      let s := s.modColl gid fun x => { x with next := (x.next + 1) % 65536, ops := tset (cSeq bs) op x.ops }
      let fail (c : Nat) : State := s.collFail gid (cSeq bs) .engerr (engTval op.desc c)
      if descBad bs (s.ctx w.ctx) then fail 1
      else
        let s := if s.collScope op (bitsOf (cCtrl bs) 10 8) then s.scoAcquire (clusterOf op.core) else s
        let plan := upTo (min (cNplan bs) (cChunks bs))
        if plan.any fun i => s.feHeld w (cPlan bs + 32 * i) 32 .load then s.collStuck op
        else
        match s.readPlan w (cPlan bs) plan with
        | .error c => fail c
        | .ok (es, t) =>
          let op := { op with nrecv := es.map fun e => e.2.2.1 }
          let t := t.modColl gid fun x => { x with ops := tset (cSeq bs) op x.ops }
          match t.originate op es (upTo (cChunks bs)) with
          | .error c => t.collFail gid (cSeq bs) .engerr (engTval op.desc c)
          | .ok u => u

/-- COLL (R292, R336). -/
def execColl (a : Spec) (s : State) : Out :=
  issue (.coll a)
    (fun s =>
      let va := s.rd a s.me.lowE
      s.engineIssue (wordVal (.coll a)) va (fun v => bitsOf v 53 48) fun v s =>
        let g := s.me
        s.collStart { team := g.team, tag := bitsOf v 53 48, desc := va, bytes := toBytes 128 v, core := g.core,
                      tid := (g.lane g.lowE).th.tid }) s

/-! ### Arrivals and hops -/

/-- A sequence number lies behind the next expected one. -/
def seqPast (next seq : Nat) : Bool := decide ((next + 65535 - seq) % 65536 < 32768)

/-- Elements of a chunk. -/
def elements (n : Nat) (bs : List Byte) : List Nat := (upTo (bs.length / n)).map fun i => ofBytes ((bs.drop (n * i)).take n)

/-- A step of ADD, MIN or MAX on one element, the local operand first: the result, and whether it overflowed (R294). -/
def hopEl (f : Fmt) (act a b : Nat) : Nat × Bool :=
  match act with
  | 1 =>
    let r := (addRne f a b).1
    let fin (x : Nat) : Bool := !f.isNaN x && !f.isInf x
    (r, f.isInf r && fin a && fin b)
  | 2 => ((fminmax f false false a b).1, false)
  | _ => ((fminmax f false true a b).1, false)

/-- The chunk word and the body do not describe a chunk of the COLL exactly (R293, R294): the body is the data alone, and
zeros up to a whole flit. -/
def FPkt.chunkBad (k : FPkt) (bs : List Byte) : Bool :=
  k.resv != 0 || k.offset % cChunk bs != 0 || decide (cTotal bs ≤ k.offset) || k.nbytes != min (cChunk bs) (cTotal bs - k.offset)
    || decide (k.data.length < k.nbytes) || (k.data.drop k.nbytes).any (fun x => x != 0) || k.len != flitsOf (24 + k.nbytes)

/-- The hop of a packet whose COLL has issued (R294): `none` while its write waits for a copy of its page, or an access of it
meets an uncorrectable error (R277). -/
def State.collHop (s : State) (k : FPkt) (op : CollOp) : Option State :=
  let bs := op.bytes
  let bad (c : Nat) : Option State := some (s.collFail k.group k.seq .engerr (engTval op.desc c))
  match k.ops with
  | [] => some s
  | e :: rest =>
    let act := bitsOf e 10 8
    if k.dhash != dhashOf bs || bitsOf e 14 12 != cType bs then
      some ((s.collFail k.group k.seq .collmism op.desc).collReturn k.src k.ctx k.group k.seq 4 op.desc)
    else if decide (5 < act) || e.testBit 15 || e.testBit 11 || (rest.isEmpty && e % 128 != 0) || k.chunkBad bs then bad 1
    else
      let w := s.collWho op
      let n := typeSize (cType bs)
      let sent := k.data.take k.nbytes
      let store := act == 4 || (rest.isEmpty && act != 5)
      if s.feHeld w (cSrcb bs + k.offset) k.nbytes .load && (act == 1 || act == 2 || act == 3)
          || store && s.feHeld w (cDstb bs + k.offset) k.nbytes .store then none
      else
      let x : Except Cause (List Byte × Bool × State) :=
        if act == 1 || act == 2 || act == 3 then
          (s.feRead w (cSrcb bs + k.offset) k.nbytes).map fun r =>
            let ys := List.zipWith (fun a b => hopEl (typeFmt (cType bs)) act a b) (elements n r.1) (elements n sent)
            ((ys.map fun y => toBytes n y.1).flatten, k.ovh || ys.any fun y => y.2, r.2)
        else .ok (sent, k.ovh, s)
      match x with
      | .error c => bad (engCode c)
      | .ok (data, ovh, t) =>
        match (if store then t.feWrite w (cDstb bs + k.offset) data false else .ok (false, t)) with
        | .error c => bad (engCode c)
        | .ok (true, _) => none
        | .ok (false, u) =>
          let u := if e.testBit 7 || act == 5 then { u with decs := u.decs ++ [cCtr bs % 4096] } else u
          let u := if rest.isEmpty then u else u.collSend op (e % 128) rest k.offset data ovh
          let c := k.offset / cChunk bs
          let mark (o : CollOp) : CollOp :=
            { o with got := tset c (tgetD o.got c 0 + 1) o.got, ovh := o.ovh || ovh,
                     ovcnt := (if store && ovh then o.ovcnt + 1 else o.ovcnt) }
          some (u.modColl k.group fun g => { g with ops := tmod k.seq mark g.ops })

/-- The page whose copy a hop waits for is being copied, or its copy begins (R172). -/
def State.collCow (s : State) (k : FPkt) (op : CollOp) : State :=
  if s.feHeld (s.collWho op) (cDstb op.bytes + k.offset) k.nbytes .store then s
  else
  match s.feWrite (s.collWho op) (cDstb op.bytes + k.offset) (k.data.take k.nbytes) false with
  | .ok (true, t) => t
  | _ => s

/-- A staged packet is taken up (R294, R336): it waits for its COLL, or goes where that ended in an error. -/
def State.hopStep (s : State) (n : Nat) : State :=
  match s.hops[n]? with
  | none => s
  | some k =>
    let gone : State := { s with hops := s.hops.eraseIdx n }
    match tget k.group s.collGroups with
    | none => gone
    | some g =>
      match tget k.seq g.ops with
      | none => if seqPast g.next k.seq then gone else s
      | some op =>
        if op.fail.isSome then gone
        else
          match gone.collHop k op with
          | some t => t
          | none => s.collCow k op

/-! ### Completion -/

/-- Packets of a COLL that are not yet accepted at their next package (R296). -/
def State.collOut (s : State) (g seq : Nat) : Bool :=
  let mine (k : FPkt) : Bool := k.type == 6 && k.group == g && k.seq == seq && !k.ops.isEmpty
  s.hops.any mine || (s.collWait.any fun x => mine x.pkt) || s.peers.any fun p => p.2.wait.any mine || p.2.buf.any fun b => mine b.pkt

/-- The three conditions of R296 hold, or an error has ended the COLL. -/
def State.collReady (s : State) (op : CollOp) : Bool :=
  op.fail.isSome ||
  (!op.stuck && !s.collOut (cGroup op.bytes) (cSeq op.bytes) &&
    (upTo (cChunks op.bytes)).all fun c => decide (op.nrecv.getD (c % cNplan op.bytes) 0 ≤ tgetD op.got c 0))

/-- COLL_COMPLETE (R151, R296): the release at RSC, then the record is written and the tag set. A fault on CREC is an error
of its own, and a COLL that failed releases nothing. -/
def State.collFinish (s : State) (op : CollOp) : State :=
  let g := cGroup op.bytes
  let fin (s : State) (err : Option (Cause × Word)) : State :=
    (s.modColl g fun x => { x with ops := tdel (cSeq op.bytes) x.ops }).setTag op.team op.tag err
  let s := if op.fail.isNone && s.collScope op (bitsOf (cCtrl op.bytes) 14 12) then s.scoRelease (clusterOf op.core) else s
  if cCrec op.bytes % 16 != 0 then fin s op.fail
  else if s.feHeld (s.collWho op) (cCrec op.bytes) 16 .store then s
  else
    match s.feWrite (s.collWho op) (cCrec op.bytes) (collRecord op (op.fail.map fun f => f.1) s.tick) true with
    | .error c => fin s (some (op.fail.getD (.engerr, engTval op.desc (engCode c))))
    | .ok (true, t) => t
    | .ok (false, t) => fin t op.fail

/-- The COLL of a team on a tag. -/
def State.collOf (s : State) (team tag : Nat) : Option CollOp :=
  s.collGroups.findSome? fun g => (tvals g.2.ops).find? fun o => o.team == team && o.tag == tag

/-- A member is declared reset (R297): the COLLs of its groups end with PEERRST, their staged chunks go, and the next
number lies behind every COLL that a chunk has named, issued here or not. -/
def State.collReset (s : State) (q : Nat) : State :=
  let hit := (s.collGroups.filter fun g => g.2.members.contains q).map fun g => g.1
  let after (i next : Nat) : Nat := ((s.hops ++ s.collWait.map fun x => x.pkt).filter fun k => k.group == i).foldl (fun n k =>
    if seqPast n k.seq then n else (k.seq + 1) % 65536) next
  { s with
    collGroups := tmap (fun i g => if hit.contains i then
        { g with next := after i g.next
                 ops := tmap (fun _ (o : CollOp) => if o.fail.isSome then o else { o with fail := some (.peerrst, 0) }) g.ops } else g) s.collGroups
    hops := s.hops.filter fun k => !hit.contains k.group
    collWait := s.collWait.filter fun x => !hit.contains x.pkt.group }

end Sys2Proof.Machine
end

