-- ==== Sys2Proof/Machine/Control.lean ====
section
/-!
DEFINITION. Control flow and the life of threads: BR, CALL, RET, JMP, JMPL (R324, R326, R357, R382), BRG (R44), SPAWN
(R43), EXIT (R344), YIELD (R270), RESM (R269), WINB (R410), NOP, the software traps (R329, R400) and ERET (R265, R434).
-/
namespace Sys2Proof.Machine

/-- The address that a displacement of 20 bits names (R324). -/
def jumpTo (pc : Word) (disp : BitVec 20) : Word := pc + disp.signExtend 64 * 4

/-- Next addresses of the lanes of E under a condition (R324, R44). -/
def State.branchTargets (s : State) (cond : Nat) (disp : BitVec 20) : List (Nat × Word) :=
  s.me.E.map fun l => (l, if condHolds cond (s.me.lane l).th.nzcv then jumpTo s.me.pc disp else s.me.pc + 4)

/-- BR (R324). -/
def execBr (c : BitVec 4) (p : BitVec 20) (s : State) : Out :=
  issue (.br c p) (fun s => .branch (s.branchTargets c.toNat p) s) s

/-- CALL (R326): o15 receives the return address. -/
def execCall (p : BitVec 20) (s : State) : Out :=
  issue (.call p)
    (fun s =>
      let pc := s.me.pc
      .branch (s.me.E.map fun l => (l, jumpTo pc p)) (s.putDirect 0x6F#7 (s.me.E.map fun l => (l, pc + 4)))) s

/-- RET (R382): each lane goes to its own o15. -/
def execRet (s : State) : Out :=
  issue .ret (fun s => .branch (s.vals 0x6F#7) s) s

/-- JMP (R357). -/
def execJmp (a : Spec) (s : State) : Out :=
  issue (.jmp a) (fun s => .branch (s.vals a) s) s

/-- JMPL (R357): the targets are read before d is written. -/
def execJmpl (d a : Spec) (s : State) : Out :=
  issue (.jmpl d a)
    (fun s => .branch (s.vals a) (s.putDirect d (s.me.E.map fun l => (l, s.me.pc + 4)))) s

/-! ### BRG -/

/-- Lanes that BRG sends, with their targets and whether each goes to the bins of this core (R44): every ready lane; one
departs when its target lies off the pinned segment (R92). -/
def State.brgLanes (s : State) (cond : Nat) (disp : BitVec 20) : List (Nat × Word × Bool) :=
  let g := s.me
  let ts := s.branchTargets cond disp
  let seg := s.localSeg g
  let m := s.smap (s.team g.team).grid
  (g.lanesWhere fun _ x => x.occ && x.status == .ready).map fun l =>
    match ts.find? fun t => t.1 == l with
    | some (_, t) => (l, t, match seg with | some x => !s.departs g x g.pc false t | none => true)
    | none =>
      let t := (g.lane l).pcv
      (l, t, match seg with | some x => x.holds t || (s.segOf m t.toNat).isNone | none => true)

/-- The group may not use BRG: an open task, a parked frame of its own, or a lane that waits (R44, R197, R268). -/
def State.brgBarred (s : State) : Bool :=
  let g := s.me
  g.taskId != 0 || (s.myTeam.frames.any fun e => e.2.gid == s.cur) ||
    (upTo g.W).any fun l => (g.lane l).occ && (match (g.lane l).status with | .waitK _ | .waitB _ _ | .waitA => true | _ => false)

/-- The first record that stays on the core fits, or the wait for it is over (R44). -/
def State.brgFits (s : State) (ls : List (Nat × Word × Bool)) : Bool :=
  match ls.find? fun x => x.2.2 with
  | none => true
  | some (l, t, _) =>
    let u := s.takeIn s.me.core
    s.me.force || (u.nextIn s.me.core && u.arriveRoom s.me.core (s.homeRec s.me l t))

/-- BRG's effect (R44); its lanes that leave the pinned segment follow R93. Nothing interrupts it while it waits. -/
def State.brg (s : State) (word : Word) (cond : Nat) (disp : BitVec 20) : Res :=
  let g := s.me
  let hold (w : Wait) : Res := .wait (s.modMe fun g => { g with wait := w })
  if s.brgBarred then .trap .ill word s
  else if s.mmaInFlight s.cur then hold .brg
  else
    let ls := s.brgLanes cond disp
    let out := (ls.filter fun x => !x.2.2).map fun x => (x.1, x.2.1)
    let m := s.smap (s.team g.team).grid
    match (if out.isEmpty then none else s.departCheck g.wbase m word out) with
    | some (c, v) => .trap c v s
    | none =>
      if !out.isEmpty && !s.departFull g.wbase m out then hold .brg
      else if s.brgFits ls then
        .over ((s.modMe fun g =>
          { g with depart := some (ls, []), before := ls.map fun x => (x.1, g.lane x.1), wait := .none, force := false
                   latched := none }).runDepart (ls.length + 2))
      else hold (.room g.core (match g.wait with | .room _ k => k | _ => s.tick))

/-- BRG (R44, R325). -/
def execBrg (c : BitVec 4) (p : BitVec 20) (s : State) : Out :=
  issue (.brg c p) (fun s => s.brg (wordVal (.brg c p)) c.toNat p) s

/-! ### SPAWN and EXIT -/

/-- The lowest tid that a team has free (R43). -/
def Team.freeTid (t : Team) : Option Nat := (upTo t.cap).find? fun i => !t.live.contains i

/-- A new thread's record comes to its core (R43, R92): to this core's bins, or, where the entry lies off the pinned
segment, over the mesh to a replica, straight into the ring where its arrival buffer is full. `none` is BROVF. -/
def State.spawnRec (s : State) (tid : Nat) (t arg : Word) : Option State :=
  let g := s.me
  let th : Thread := { tid := tid, v := [(0, arg)] }
  let br := s.myGrid.bramble
  let m := s.smap s.myTeam.grid
  let home : Rec := { team := g.team, tgt := t, th := th, bramble := br, lv := g.R, lo := 16, seg := if br then s.staySeg g t else 0 }
  if !br then s.putRec g.core home
  else
    let off := match s.localSeg g with | some x => !x.holds t | none => true
    match s.entryAt m t.toNat with
    | none => s.putRec g.core home
    | some (i, e, lv, lo, least) =>
      let r : Rec := { team := g.team, tgt := t, th := th, bramble := true, seg := i, ent := e, lv := max 1 lv, lo := lo }
      if !off then s.putRec g.core r
      else
        match s.chooseReplica g.core tid least (s.replicas m i) with
        | none => none
        | some c =>
          (if s.arriveRoom c r then some (s.modCore c fun x => { x with transit := x.transit ++ [r] }) else s.toRing c r).map
            fun t => t.handOver g.core c

/-- The lanes of SPAWN one after the other (R43): d of each lane. -/
def spawnLanes (entry arg : Nat → Word) : List Nat → State → Option (List (Nat × Word) × State)
  | [], s => some ([], s)
  | l :: rest, s =>
    match s.myTeam.freeTid with
    | none => (spawnLanes entry arg rest s).map fun y => ((l, BitVec.allOnes 64) :: y.1, y.2)
    | some t =>
      match (s.modTeam s.me.team fun x => { x with live := x.live ++ [t] }).spawnRec t (entry l) (arg l) with
      | none => none
      | some u => (spawnLanes entry arg rest u).map fun y => ((l, BitVec.ofNat 64 t) :: y.1, y.2)

/-- An entry that SPAWN may not use: in a Bramble kernel one off the pinned segment that is not listed (R43). -/
def State.spawnBad (s : State) (t : Word) : Bool :=
  s.myGrid.bramble && (match s.localSeg s.me with | some x => !x.holds t | none => true) &&
    (match s.entryAt (s.smap s.myTeam.grid) t.toNat with
     | none => true
     | some e => (s.replicas (s.smap s.myTeam.grid) e.1).isEmpty)

/-- SPAWN's effect (R43). -/
def State.spawn (s : State) (word : Word) (d a b : Spec) : Res :=
  let g := s.me
  if g.taskId != 0 || g.sup then .trap .ill word s
  else
    match s.me.E.find? fun l => (s.rd a l).toNat % 4 != 0 with
    | some l => .trap .align (s.rd a l) s
    | none =>
      match s.me.E.find? fun l => s.spawnBad (s.rd a l) with
      | some l => .trap .brentry (s.rd a l) s
      | none =>
        match spawnLanes (fun l => s.rd a l) (fun l => s.rd b l) g.E s with
        | none => .jumped (s.brovf g.team g.core)
        | some (vals, t) => .done (t.putDirect d vals)

/-- SPAWN (R43, R392). -/
def execSpawn (d a b : Spec) (s : State) : Out :=
  issue (.spawn d a b) (fun s => s.spawn (wordVal (.spawn d a b)) d a b) s

/-- A lane exits: writes in flight to its registers complete into nothing (R344). -/
def Lane.exit (x : Lane) : Lane := { x with status := .exited, th := { x.th with pend := [], empties := [] } }

/-- The lanes of E exit (R344). -/
def State.exitLanes (s : State) : State :=
  let g := s.me
  let ls := g.E
  let tids := ls.map fun l => (g.lane l).th.tid
  let s := s.modMe fun g => (g.modLanes (fun i => ls.contains i) fun _ x => x.exit).leaveMasks ls
  (s.exitTids g.team tids).groupCheck s.cur

/-- EXIT (R268, R344). -/
def execExit (s : State) : Out :=
  issue .exit
    (fun s =>
      let g := s.me
      let held := s.myTeam.frames.any fun e => e.2.gid == s.cur
      if g.sup || g.taskId != 0 || (held && g.E != g.aliveLanes) then .trap .ill (wordVal .exit) s
      else .jumped s.exitLanes) s

/-! ### YIELD -/

/-- The group leaves at a YIELD (R270); where the request belongs to a deadline launch it ends, and the launch records
DEADLINE (R253). (DEDUCED, log entry 21.) -/
def State.yieldLeave (s : State) (deadline : Bool) : State :=
  if deadline then
    (s.modGrid s.myTeam.grid fun g => { g with fate := (if g.fate.isNone then some (3, 0) else g.fate) }).endGroup s.cur
  else s.saveGroup s.cur true

/-- No register of the group is empty and no MMA of it is in flight (R270). -/
def State.canYield (s : State) : Bool := s.me.allFull && !s.mmaInFlight s.cur

/-- YIELD's effect (R270, R413). A group that leaves here has passed the YIELD: behind a segment's last word it departs before
it issues again (R92). -/
def State.yieldRes (s : State) : Res :=
  match s.myTeam.preq with
  | none => .done s
  | some p =>
    if s.me.sup then .done s
    else if s.me.wait == .yield then (if s.canYield then .jumped (s.yieldLeave p.deadline) else .wait s)
    else if s.me.taskId != 0 then
      let t := s.abortTask s.cur Cause.preempt.code
      if t.canYield then .jumped (t.yieldLeave p.deadline) else .wait (t.modMe fun g => { g with wait := .yield })
    else if s.canYield then
      .jumped ((s.modMe fun g => g.modLanes (fun i => g.E.contains i) fun _ x => x.pass).yieldLeave p.deadline)
    else .wait (s.modMe fun g => { g with wait := .regs })

/-- YIELD (R270, R413). -/
def execYield (s : State) : Out := issue .yield (fun s => s.yieldRes) s

/-! ### RESM -/

/-- A parked frame is ready (R267): it stays so from when its tag was set. -/
def State.frameReady (s : State) (f : Frame) : Bool :=
  f.tagged ||
  match f.until_ with
  | .full => f.st.qEmpty.isEmpty && f.st.lanes.all fun x => !x.occ || x.th.empties.isEmpty
  | .reply _ => false
  | .pool p => s.poolHas p
  | .now => true

/-- The frame becomes the group's state (R269), its waiting statuses brought up to date; its tag is set, if FRAME_READY has
not set it (R267). (DEDUCED, log entry 39.) -/
def State.resume (s : State) (id : Nat) (f : Frame) : State :=
  let g : Group := { s.me with toGState := f.st, wait := .none, lockSt := [], remote := [], asks := [], fetched := [],
                               latched := none, marks := [], before := [] }
  let s := s.modTeam g.team fun t => { t with frames := tdel id t.frames }
  let s := if f.tagged then s else s.frameTag g.team
  (s.dropMonitors s.cur).setMe (s.renewLanes g)

/-- RESM (R269): resumes a ready frame, once the handler's own MMA has retired (R223), or says that it is not ready.
(DEDUCED, log entry 39.) -/
def execResm (d a : Spec) (s : State) : Out :=
  issue (.resm d a)
    (fun s =>
      let g := s.me
      let id := (s.rd a g.lowE).toNat
      match (tget id s.myTeam.frames).filter fun f => f.gid == s.cur with
      | none => .trap .ill (wordVal (.resm d a)) s
      | some f =>
        if g.E != g.aliveLanes then .trap .ill (wordVal (.resm d a)) s
        else if s.frameReady f then
          (if s.mmaInFlight s.cur then .wait (s.modMe fun g => { g with wait := .mma }) else .jumped (s.resume id f))
        else
          .done ((s.modMe fun h => h.writeFlags (g.E.map fun l => (l, (g.lane l).th.nzcv &&& 11))).putLong d
            (g.E.map fun l => (l, 0)))) s

/-! ### The rest -/

/-- WINB (R410): WBASE for the whole group. -/
def execWinb (m : BitVec 7) (s : State) : Out :=
  issue (.winb m)
    (fun s =>
      if s.me.R ≤ 16 * m.toNat then .trap .winov (wordVal (.winb m)) s
      else .done (s.modMe fun g => { g with wbase := 16 * m.toNat })) s

/-- NOP (R379). -/
def execNop (s : State) : Out := issue .nop (fun s => .done s) s

/-- TRAP (R400). -/
def execTrap (c : BitVec 7) (s : State) : Out := issue (.trap c) (fun s => .trap .trap (c.setWidth 64) s) s

/-- SVC (R400). -/
def execSvc (c : BitVec 7) (s : State) : Out := issue (.svc c) (fun s => .trap .svc (c.setWidth 64) s) s

/-- BKPT (R329). -/
def execBkpt (c : BitVec 7) (s : State) : Out := issue (.bkpt c) (fun s => .trap .bkpt (c.setWidth 64) s) s

/-- An MMA that a handler issued on the store that the supervisor holds has still to retire: it must not meet the store freed
(R222, R223). -/
def State.supMma (s : State) (g : Group) : Bool :=
  let c := s.core (s.tileCoreOf g)
  c.owner == .sup && !c.mmaQ.isEmpty

/-- ERET's effect (R223, R265, R434): it waits for the group's MMA, and for one of another handler on the store; from
in-place code into a segment that is not the core's own, the lanes depart (R92), and a segment without a replica raises
BRENTRY where step 5 of R93 comes to it, before anything has returned. -/
def State.eret (s : State) (word : Word) : Res :=
  let g := s.me
  let m := s.smap s.myTeam.grid
  if g.eMask != g.tlanes.toNat then .trap .ill word s
  else if s.mmaInFlight s.cur || s.supMma g then .wait (s.modMe fun g => { g with wait := .mma })
  else if g.kept.isSome then .jumped s.returnTrap
  else
    let ts := g.E.map fun l => (l, g.epc)
    let away := match s.localSeg g with | some x => s.departs g x g.pc false g.epc | none => false
    let bare := match s.segOf m g.epc.toNat with | some i => (s.replicas m i).isEmpty | none => false
    if away && bare && (s.departCheck g.wbase m word ts).isNone && s.departFull g.wbase m ts then .trap .brentry g.epc s
    else .branch ts s.returnTrap

/-- ERET (R265, R434): ILL unless E is TLANES. -/
def execEret (s : State) : Out := issue .eret (fun s => s.eret (wordVal .eret)) s

end Sys2Proof.Machine
end

