-- ==== Sys2Proof/Machine/Fp.lean ====
section
/-!
DEFINITION. Floating-point instructions: the family of rows 0x2_ and 0x3_ (R346 to R351), conversions (R337, R338), and
the special functions (R220, R341, R342), with the flags and the FPX trap of R208 and R209.
-/
namespace Sys2Proof.Machine

/-- FPCR of the group's team (R63). -/
def State.fpcr (s : State) : Nat := s.myTeam.fpcr.toNat
def State.fpRm (s : State) : Rm := rmOf (s.fpcr % 4)
def State.ftzF (s : State) : Bool := s.fpcr.testBit 2
def State.ftzD (s : State) : Bool := s.fpcr.testBit 3
/-- The trap enables TE, in the order of FPSR (R63). -/
def State.fpTe (s : State) : FpFlags := BitVec.ofNat 5 (s.fpcr / 16 % 32)
/-- FTZ of a format: binary64 and binary32 only (R206). -/
def State.ftz (s : State) (f : Fmt) : Bool := if f == b64 then s.ftzD else if f == b32 then s.ftzF else false

/-- The rounding code of CVT and FRND: 4 selects FPCR.RM (R78, R205). -/
def State.rmCode (s : State) (m : Spec) : Rm := if m.toNat == 4 then s.fpRm else rmOf m.toNat

/-- What a lane of a floating-point instruction yields: the word for d, lat, NZCV and flags. -/
structure FLane where
  lane : Nat
  val : Word
  nzcv : Nzcv
  flags : FpFlags
  deriving DecidableEq, Repr

/-- The OR of the flags of all lanes (R209). -/
def allFlags (r : List FLane) : FpFlags := r.foldl (fun x y => x ||| y.flags) 0

/-- The end of an instruction that follows FPCR: FPX with no effect where an enabled flag would be raised (R209), with
the flags as TVAL; otherwise FPSR, and `put`. -/
def fpEnd (r : List FLane) (put : State → State) (s : State) : Res :=
  let fl := allFlags r
  if fl &&& s.fpTe != 0 then .trap .fpx (fl.setWidth 64) s
  else .done (put (s.modMe fun g => g.orFpsr (r.map fun x => (x.lane, x.flags))))

/-- Short class: d and lat, NZCV when `w` is set (R57, R60). -/
def fpShort (d : Spec) (w : BitVec 1) (r : List FLane) (s : State) : Res :=
  fpEnd r (fun s => s.putShort d (r.map fun x => (x.lane, x.val)) (if w == 1 then r.map fun x => (x.lane, x.nzcv) else [])) s

/-- A result of a format, as its word and flags. -/
def FLane.of (f : Fmt) (l : Nat) (x : FRes) : FLane :=
  { lane := l, val := BitVec.ofNat 64 x.1, nzcv := fpNzcv f x.1, flags := x.2 }

/-- A source as a value of a format: the bits above it are ignored (R204). -/
def State.rdF (s : State) (f : Fmt) (a : Spec) (l : Nat) : Nat := (s.rd a l).toNat % 2 ^ f.width

/-- An operation of two sources, and of three with d (R347). -/
def fp2 (f : Fmt) (d a b : Spec) (w : BitVec 1) (op : State → Nat → Nat → FRes) (s : State) : Res :=
  fpShort d w (s.me.E.map fun l => FLane.of f l (op s (s.rdF f a l) (s.rdF f b l))) s
def fp3 (f : Fmt) (d a b : Spec) (w : BitVec 1) (op : State → Nat → Nat → Nat → FRes) (s : State) : Res :=
  fpShort d w (s.me.E.map fun l => FLane.of f l (op s (s.rdF f a l) (s.rdF f b l) (s.rdF f d l))) s
def fp1 (f : Fmt) (d a : Spec) (w : BitVec 1) (op : State → Nat → FRes) (s : State) : Res :=
  fpShort d w (s.me.E.map fun l => FLane.of f l (op s (s.rdF f a l))) s

/-- FABS, FNEG and FCPYS: the sign alone, no flag and no trap (R206). -/
def fpSign (f : Fmt) (d : Spec) (w : BitVec 1) (op : Nat → Nat) (s : State) : Res :=
  let r := s.me.E.map fun l => FLane.of f l (op l, 0)
  .done (s.putShort d (r.map fun x => (x.lane, x.val)) (if w == 1 then r.map fun x => (x.lane, x.nzcv) else []))
def Fmt.withSign (f : Fmt) (neg : Bool) (x : Nat) : Nat := x % 2 ^ (f.ew + f.fw) + f.signBit neg

/-- FCMP: NZCV whatever W holds; lat receives NZCV (R349). -/
def fpCmp (f : Fmt) (a b : Spec) (s : State) : Res :=
  fpShort 0x79#7 1 (s.me.E.map fun l =>
    let r := fcmp f (s.ftz f) (s.rdF f a l) (s.rdF f b l)
    { lane := l, val := r.1.setWidth 64, nzcv := r.1, flags := r.2 }) s

/-- FCLS: an integer result, and its flags (R350). -/
def fpCls (f : Fmt) (d a : Spec) (w : BitVec 1) (s : State) : Res :=
  let r := s.me.E.map fun l => (l, (BitVec.ofNat 64 (fcls f (s.ftz f) (s.rdF f a l)) : Word))
  .done (s.putShort d r (if w == 1 then r.map fun x => (x.1, logicNzcv x.2) else []))

/-- FADD.D (R347). -/
def semFaddD (d : Spec) (a : Spec) (b : Spec) (w : BitVec 1) : State → Res :=
  (fp2 b64 d a b w fun s x y => fadd b64 s.fpRm (s.ftz b64) false x y)
def execFaddD (d a b : Spec) (w f g : BitVec 1) (s : State) : Out := issue (.faddD d a b w f g) (semFaddD d a b w) s

/-- FSUB.D (R347). -/
def semFsubD (d : Spec) (a : Spec) (b : Spec) (w : BitVec 1) : State → Res :=
  (fp2 b64 d a b w fun s x y => fadd b64 s.fpRm (s.ftz b64) true x y)
def execFsubD (d a b : Spec) (w f g : BitVec 1) (s : State) : Out := issue (.fsubD d a b w f g) (semFsubD d a b w) s

/-- FMUL.D (R347). -/
def semFmulD (d : Spec) (a : Spec) (b : Spec) (w : BitVec 1) : State → Res :=
  (fp2 b64 d a b w fun s x y => fmul b64 s.fpRm (s.ftz b64) x y)
def execFmulD (d a b : Spec) (w f g : BitVec 1) (s : State) : Out := issue (.fmulD d a b w f g) (semFmulD d a b w) s

/-- FFMA.D: a × b + d, rounded once (R347). -/
def semFfmaD (d : Spec) (a : Spec) (b : Spec) (w : BitVec 1) : State → Res :=
  (fp3 b64 d a b w fun s x y z => ffma b64 s.fpRm (s.ftz b64) false false x y z)
def execFfmaD (d a b : Spec) (w f g : BitVec 1) (s : State) : Out := issue (.ffmaD d a b w f g) (semFfmaD d a b w) s

/-- FFMS.D: a × b − d (R347). -/
def semFfmsD (d : Spec) (a : Spec) (b : Spec) (w : BitVec 1) : State → Res :=
  (fp3 b64 d a b w fun s x y z => ffma b64 s.fpRm (s.ftz b64) false true x y z)
def execFfmsD (d a b : Spec) (w f g : BitVec 1) (s : State) : Out := issue (.ffmsD d a b w f g) (semFfmsD d a b w) s

/-- FFNM.D: −(a × b) + d (R347). -/
def semFfnmD (d : Spec) (a : Spec) (b : Spec) (w : BitVec 1) : State → Res :=
  (fp3 b64 d a b w fun s x y z => ffma b64 s.fpRm (s.ftz b64) true false x y z)
def execFfnmD (d a b : Spec) (w f g : BitVec 1) (s : State) : Out := issue (.ffnmD d a b w f g) (semFfnmD d a b w) s

/-- FMIN.D: minimumNumber (R207, R347). -/
def semFminD (d : Spec) (a : Spec) (b : Spec) (w : BitVec 1) : State → Res :=
  (fp2 b64 d a b w fun s x y => fminmax b64 (s.ftz b64) false x y)
def execFminD (d a b : Spec) (w f g : BitVec 1) (s : State) : Out := issue (.fminD d a b w f g) (semFminD d a b w) s

/-- FMAX.D: maximumNumber (R207, R347). -/
def semFmaxD (d : Spec) (a : Spec) (b : Spec) (w : BitVec 1) : State → Res :=
  (fp2 b64 d a b w fun s x y => fminmax b64 (s.ftz b64) true x y)
def execFmaxD (d a b : Spec) (w f g : BitVec 1) (s : State) : Out := issue (.fmaxD d a b w f g) (semFmaxD d a b w) s

/-- FDIV.D, correctly rounded (R347). -/
def semFdivD (d : Spec) (a : Spec) (b : Spec) (w : BitVec 1) : State → Res :=
  (fp2 b64 d a b w fun s x y => fdiv b64 s.fpRm (s.ftz b64) x y)
def execFdivD (d a b : Spec) (w f g : BitVec 1) (s : State) : Out := issue (.fdivD d a b w f g) (semFdivD d a b w) s

/-- FSQRT.D, correctly rounded (R347). -/
def semFsqrtD (d : Spec) (a : Spec) (w : BitVec 1) : State → Res :=
  (fp1 b64 d a w fun s x => fsqrt b64 s.fpRm (s.ftz b64) x)
def execFsqrtD (d a : Spec) (w f : BitVec 1) (s : State) : Out := issue (.fsqrtD d a w f) (semFsqrtD d a w) s

/-- FCMP.D (R349). -/
def semFcmpD (a : Spec) (b : Spec) : State → Res :=
  (fpCmp b64 a b)
def execFcmpD (a b : Spec) (f g : BitVec 1) (s : State) : Out := issue (.fcmpD a b f g) (semFcmpD a b) s

/-- FABS.D: the sign bit cleared (R347). -/
def semFabsD (d : Spec) (a : Spec) (w : BitVec 1) : State → Res :=
  (fun s => fpSign b64 d w (fun l => b64.withSign false (s.rdF b64 a l)) s)
def execFabsD (d a : Spec) (w f : BitVec 1) (s : State) : Out := issue (.fabsD d a w f) (semFabsD d a w) s

/-- FNEG.D: the sign bit inverted (R347). -/
def semFnegD (d : Spec) (a : Spec) (w : BitVec 1) : State → Res :=
  (fun s => fpSign b64 d w (fun l => b64.withSign (!b64.sign (s.rdF b64 a l)) (s.rdF b64 a l)) s)
def execFnegD (d a : Spec) (w f : BitVec 1) (s : State) : Out := issue (.fnegD d a w f) (semFnegD d a w) s

/-- FCPYS.D: a with the sign of b (R347). -/
def semFcpysD (d : Spec) (a : Spec) (b : Spec) (w : BitVec 1) : State → Res :=
  (fun s => fpSign b64 d w (fun l => b64.withSign (b64.sign (s.rdF b64 b l)) (s.rdF b64 a l)) s)
def execFcpysD (d a b : Spec) (w f g : BitVec 1) (s : State) : Out := issue (.fcpysD d a b w f g) (semFcpysD d a b w) s

/-- FRND.D: to an integral value in the mode of the code (R351). -/
def semFrndD (d : Spec) (a : Spec) (m : Spec) (w : BitVec 1) : State → Res :=
  (fp1 b64 d a w fun s x => frnd b64 (s.rmCode m) (s.ftz b64) x)
def execFrndD (d a m : Spec) (w f : BitVec 1) (s : State) : Out := issue (.frndD d a m w f) (semFrndD d a m w) s

/-- FCLS.D (R350). -/
def semFclsD (d : Spec) (a : Spec) (w : BitVec 1) : State → Res :=
  (fpCls b64 d a w)
def execFclsD (d a : Spec) (w f : BitVec 1) (s : State) : Out := issue (.fclsD d a w f) (semFclsD d a w) s

/-- FADD.F (R347). -/
def semFaddF (d : Spec) (a : Spec) (b : Spec) (w : BitVec 1) : State → Res :=
  (fp2 b32 d a b w fun s x y => fadd b32 s.fpRm (s.ftz b32) false x y)
def execFaddF (d a b : Spec) (w f g : BitVec 1) (s : State) : Out := issue (.faddF d a b w f g) (semFaddF d a b w) s

/-- FSUB.F (R347). -/
def semFsubF (d : Spec) (a : Spec) (b : Spec) (w : BitVec 1) : State → Res :=
  (fp2 b32 d a b w fun s x y => fadd b32 s.fpRm (s.ftz b32) true x y)
def execFsubF (d a b : Spec) (w f g : BitVec 1) (s : State) : Out := issue (.fsubF d a b w f g) (semFsubF d a b w) s

/-- FMUL.F (R347). -/
def semFmulF (d : Spec) (a : Spec) (b : Spec) (w : BitVec 1) : State → Res :=
  (fp2 b32 d a b w fun s x y => fmul b32 s.fpRm (s.ftz b32) x y)
def execFmulF (d a b : Spec) (w f g : BitVec 1) (s : State) : Out := issue (.fmulF d a b w f g) (semFmulF d a b w) s

/-- FFMA.F: a × b + d, rounded once (R347). -/
def semFfmaF (d : Spec) (a : Spec) (b : Spec) (w : BitVec 1) : State → Res :=
  (fp3 b32 d a b w fun s x y z => ffma b32 s.fpRm (s.ftz b32) false false x y z)
def execFfmaF (d a b : Spec) (w f g : BitVec 1) (s : State) : Out := issue (.ffmaF d a b w f g) (semFfmaF d a b w) s

/-- FFMS.F: a × b − d (R347). -/
def semFfmsF (d : Spec) (a : Spec) (b : Spec) (w : BitVec 1) : State → Res :=
  (fp3 b32 d a b w fun s x y z => ffma b32 s.fpRm (s.ftz b32) false true x y z)
def execFfmsF (d a b : Spec) (w f g : BitVec 1) (s : State) : Out := issue (.ffmsF d a b w f g) (semFfmsF d a b w) s

/-- FFNM.F: −(a × b) + d (R347). -/
def semFfnmF (d : Spec) (a : Spec) (b : Spec) (w : BitVec 1) : State → Res :=
  (fp3 b32 d a b w fun s x y z => ffma b32 s.fpRm (s.ftz b32) true false x y z)
def execFfnmF (d a b : Spec) (w f g : BitVec 1) (s : State) : Out := issue (.ffnmF d a b w f g) (semFfnmF d a b w) s

/-- FMIN.F: minimumNumber (R207, R347). -/
def semFminF (d : Spec) (a : Spec) (b : Spec) (w : BitVec 1) : State → Res :=
  (fp2 b32 d a b w fun s x y => fminmax b32 (s.ftz b32) false x y)
def execFminF (d a b : Spec) (w f g : BitVec 1) (s : State) : Out := issue (.fminF d a b w f g) (semFminF d a b w) s

/-- FMAX.F: maximumNumber (R207, R347). -/
def semFmaxF (d : Spec) (a : Spec) (b : Spec) (w : BitVec 1) : State → Res :=
  (fp2 b32 d a b w fun s x y => fminmax b32 (s.ftz b32) true x y)
def execFmaxF (d a b : Spec) (w f g : BitVec 1) (s : State) : Out := issue (.fmaxF d a b w f g) (semFmaxF d a b w) s

/-- FDIV.F, correctly rounded (R347). -/
def semFdivF (d : Spec) (a : Spec) (b : Spec) (w : BitVec 1) : State → Res :=
  (fp2 b32 d a b w fun s x y => fdiv b32 s.fpRm (s.ftz b32) x y)
def execFdivF (d a b : Spec) (w f g : BitVec 1) (s : State) : Out := issue (.fdivF d a b w f g) (semFdivF d a b w) s

/-- FSQRT.F, correctly rounded (R347). -/
def semFsqrtF (d : Spec) (a : Spec) (w : BitVec 1) : State → Res :=
  (fp1 b32 d a w fun s x => fsqrt b32 s.fpRm (s.ftz b32) x)
def execFsqrtF (d a : Spec) (w f : BitVec 1) (s : State) : Out := issue (.fsqrtF d a w f) (semFsqrtF d a w) s

/-- FCMP.F (R349). -/
def semFcmpF (a : Spec) (b : Spec) : State → Res :=
  (fpCmp b32 a b)
def execFcmpF (a b : Spec) (f g : BitVec 1) (s : State) : Out := issue (.fcmpF a b f g) (semFcmpF a b) s

/-- FABS.F: the sign bit cleared (R347). -/
def semFabsF (d : Spec) (a : Spec) (w : BitVec 1) : State → Res :=
  (fun s => fpSign b32 d w (fun l => b32.withSign false (s.rdF b32 a l)) s)
def execFabsF (d a : Spec) (w f : BitVec 1) (s : State) : Out := issue (.fabsF d a w f) (semFabsF d a w) s

/-- FNEG.F: the sign bit inverted (R347). -/
def semFnegF (d : Spec) (a : Spec) (w : BitVec 1) : State → Res :=
  (fun s => fpSign b32 d w (fun l => b32.withSign (!b32.sign (s.rdF b32 a l)) (s.rdF b32 a l)) s)
def execFnegF (d a : Spec) (w f : BitVec 1) (s : State) : Out := issue (.fnegF d a w f) (semFnegF d a w) s

/-- FCPYS.F: a with the sign of b (R347). -/
def semFcpysF (d : Spec) (a : Spec) (b : Spec) (w : BitVec 1) : State → Res :=
  (fun s => fpSign b32 d w (fun l => b32.withSign (b32.sign (s.rdF b32 b l)) (s.rdF b32 a l)) s)
def execFcpysF (d a b : Spec) (w f g : BitVec 1) (s : State) : Out := issue (.fcpysF d a b w f g) (semFcpysF d a b w) s

/-- FRND.F: to an integral value in the mode of the code (R351). -/
def semFrndF (d : Spec) (a : Spec) (m : Spec) (w : BitVec 1) : State → Res :=
  (fp1 b32 d a w fun s x => frnd b32 (s.rmCode m) (s.ftz b32) x)
def execFrndF (d a m : Spec) (w f : BitVec 1) (s : State) : Out := issue (.frndF d a m w f) (semFrndF d a m w) s

/-- FCLS.F (R350). -/
def semFclsF (d : Spec) (a : Spec) (w : BitVec 1) : State → Res :=
  (fpCls b32 d a w)
def execFclsF (d a : Spec) (w f : BitVec 1) (s : State) : Out := issue (.fclsF d a w f) (semFclsF d a w) s

/-! ### Conversions -/

/-- A conversion between binary formats (R338): the flush bits are those that the table of R338 names. -/
def cvtOp (src dst : Fmt) (d a m : Spec) (fin fout : State → Bool) (s : State) : Res :=
  fpShort d 0 (s.me.E.map fun l => FLane.of dst l (fcvt src dst (s.rmCode m) (fin s) (fout s) (s.rdF src a l))) s

/-- A conversion to an integer of `n` bits (R210); a 32-bit one is sign-extended. -/
def cvtInt (src : Fmt) (signed : Bool) (n : Nat) (d a m : Spec) (fin : State → Bool) (s : State) : Res :=
  fpShort d 0 (s.me.E.map fun l =>
    let r := ftoInt src (s.rmCode m) (fin s) signed n (s.rdF src a l)
    { lane := l, val := sExt r.1 n, nzcv := 0, flags := r.2 }) s

/-- A conversion from an integer (R210). -/
def cvtFrom (dst : Fmt) (d a m : Spec) (val : Word → Int) (s : State) : Res :=
  fpShort d 0 (s.me.E.map fun l => FLane.of dst l (intToF dst (s.rmCode m) (val (s.rd a l)))) s

def never (_ : State) : Bool := false

/-- CVT.D.F (R338). -/
def semCvtDF (d : Spec) (a : Spec) (m : Spec) : State → Res :=
  (cvtOp b32 b64 d a m State.ftzF never)
def execCvtDF (d a m : Spec) (s : State) : Out := issue (.cvtDF d a m) (semCvtDF d a m) s

/-- CVT.F.D (R338). -/
def semCvtFD (d : Spec) (a : Spec) (m : Spec) : State → Res :=
  (cvtOp b64 b32 d a m State.ftzD State.ftzF)
def execCvtFD (d a m : Spec) (s : State) : Out := issue (.cvtFD d a m) (semCvtFD d a m) s

/-- CVT.D.S64 (R338). -/
def semCvtDS64 (d : Spec) (a : Spec) (m : Spec) : State → Res :=
  (cvtFrom b64 d a m fun x => x.toInt)
def execCvtDS64 (d a m : Spec) (s : State) : Out := issue (.cvtDS64 d a m) (semCvtDS64 d a m) s

/-- CVT.S64.D (R338). -/
def semCvtS64D (d : Spec) (a : Spec) (m : Spec) : State → Res :=
  (cvtInt b64 true 64 d a m State.ftzD)
def execCvtS64D (d a m : Spec) (s : State) : Out := issue (.cvtS64D d a m) (semCvtS64D d a m) s

/-- CVT.D.Z64 (R338). -/
def semCvtDZ64 (d : Spec) (a : Spec) (m : Spec) : State → Res :=
  (cvtFrom b64 d a m fun x => x.toNat)
def execCvtDZ64 (d a m : Spec) (s : State) : Out := issue (.cvtDZ64 d a m) (semCvtDZ64 d a m) s

/-- CVT.Z64.D (R338). -/
def semCvtZ64D (d : Spec) (a : Spec) (m : Spec) : State → Res :=
  (cvtInt b64 false 64 d a m State.ftzD)
def execCvtZ64D (d a m : Spec) (s : State) : Out := issue (.cvtZ64D d a m) (semCvtZ64D d a m) s

/-- CVT.F.S32 (R338). -/
def semCvtFS32 (d : Spec) (a : Spec) (m : Spec) : State → Res :=
  (cvtFrom b32 d a m fun x => (x.setWidth 32).toInt)
def execCvtFS32 (d a m : Spec) (s : State) : Out := issue (.cvtFS32 d a m) (semCvtFS32 d a m) s

/-- CVT.S32.F (R338). -/
def semCvtS32F (d : Spec) (a : Spec) (m : Spec) : State → Res :=
  (cvtInt b32 true 32 d a m State.ftzF)
def execCvtS32F (d a m : Spec) (s : State) : Out := issue (.cvtS32F d a m) (semCvtS32F d a m) s

/-- CVT.B.F (R338). -/
def semCvtBF (d : Spec) (a : Spec) (m : Spec) : State → Res :=
  (cvtOp b32 bf16 d a m State.ftzF never)
def execCvtBF (d a m : Spec) (s : State) : Out := issue (.cvtBF d a m) (semCvtBF d a m) s

/-- CVT.F.B (R338). -/
def semCvtFB (d : Spec) (a : Spec) (m : Spec) : State → Res :=
  (cvtOp bf16 b32 d a m never never)
def execCvtFB (d a m : Spec) (s : State) : Out := issue (.cvtFB d a m) (semCvtFB d a m) s

/-- CVT.H.F (R338). -/
def semCvtHF (d : Spec) (a : Spec) (m : Spec) : State → Res :=
  (cvtOp b32 b16 d a m State.ftzF never)
def execCvtHF (d a m : Spec) (s : State) : Out := issue (.cvtHF d a m) (semCvtHF d a m) s

/-- CVT.F.H (R338). -/
def semCvtFH (d : Spec) (a : Spec) (m : Spec) : State → Res :=
  (cvtOp b16 b32 d a m never never)
def execCvtFH (d a m : Spec) (s : State) : Out := issue (.cvtFH d a m) (semCvtFH d a m) s

end Sys2Proof.Machine
end

