-- ==== Sys2Proof/Machine/Special.lean ====
section
/-!
DEFINITION. The special functions (R220, R341, R342). The manual bounds their results and does not fix them: each
delivered value is the FREE VALUE of Config.freeApprox where that lies within the bound of R220, and otherwise the value
that this file computes. The bound is tested against an approximation whose own error is far below the bound: exact
rational arithmetic with 192 or more fraction bits.
-/
namespace Sys2Proof.Machine

/-- An approximation: v × 2^e, and whether it is the exact result (R220: an exact result is returned exactly). -/
structure Apx where
  v : Int
  e : Int
  exact : Bool
  deriving DecidableEq, Repr

/-- ln 2 × 2^192 and π/2 × 2^224, rounded down. -/
def ln2Fix : Nat := 0xB17217F7D1CF79ABC9E3B39803F2F6AF40F343267298B62D
def halfPiFix : Nat := 0x1921FB54442D18469898CC51701B839A252049C1114CF98E804177D4C

def powerOf2 (m : Nat) : Bool := m == 2 ^ Nat.log2 m

/-- 1 ÷ x (FRCP, DRCA). -/
def apxRcp (f : Fmt) (x : Nat) : Apx :=
  let m := f.mag x
  let q : Int := (2 ^ 320 / m : Nat)
  { v := if f.sign x then -q else q, e := -320 - f.lsb x, exact := powerOf2 m }

/-- 1 ÷ √x for x > 0 (FRSQ, DRSA). -/
def apxRsq (f : Fmt) (x : Nat) : Apx :=
  let odd := f.lsb x % 2 != 0
  let m := if odd then f.mag x * 2 else f.mag x
  let e := if odd then f.lsb x - 1 else f.lsb x
  { v := (isqrt (2 ^ 640 / m) : Nat), e := -320 - e / 2, exact := powerOf2 m && Nat.log2 m % 2 == 0 }

/-- Terms of an exponential series at 2^192: the sum from term k on, each y/k of the one before. -/
def expTerms (y : Nat) : Nat → Nat → Nat → Nat
  | 0, _, _ => 0
  | n + 1, k, t => t + expTerms y n (k + 1) (t * y / 2 ^ 192 / (k + 1))

/-- 2^x for |x| below 2^9 (FEX2). -/
def apxEx2 (x : Nat) : Apx :=
  let fix := roundAt .rm (b32.sign x) (b32.mag x) (b32.lsb x) false (-192)
  let n : Int := if b32.sign x then -(fix.1 : Int) else fix.1
  let w := n / 2 ^ 192
  let fr := (n % 2 ^ 192).toNat
  { v := (expTerms (fr * ln2Fix / 2 ^ 192) 60 0 (2 ^ 192) : Nat), e := w - 192, exact := fr == 0 && !fix.2 }

/-- Bits of log2 of y / 2^256 in [1, 2), by repeated squaring. -/
def logBits : Nat → Nat → Nat → Nat
  | 0, _, r => r
  | n + 1, y, r =>
    let z := y * y / 2 ^ 256
    if z ≥ 2 ^ 257 then logBits n (z / 2) (2 * r + 1) else logBits n z (2 * r)

/-- log2 x for x > 0 (FLG2). -/
def apxLg2 (x : Nat) : Apx :=
  let m := b32.mag x
  let k := Nat.log2 m
  let fr := logBits 120 (m * 2 ^ 256 / 2 ^ k) 0
  { v := ((k : Int) + b32.lsb x) * 2 ^ 120 + fr, e := -120, exact := powerOf2 m }

/-- Terms of the series of sine (from x) or cosine (from 1) at 2^192, alternating. -/
def trigTerms (y2 : Nat) : Nat → Nat → Int → Int
  | 0, _, _ => 0
  | n + 1, k, t => t + trigTerms y2 n (k + 2) (-(t * (y2 : Int) / 2 ^ 192 / ((k + 1) * (k + 2) : Nat)))

/-- sin x (q = 0) or cos x (q = 1) for |x| ≤ 2^20, reduced by multiples of π/2. -/
def apxTrig (cos : Bool) (x : Nat) : Apx :=
  let fix := (roundAt .rz false (b32.mag x) (b32.lsb x) false (-224)).1
  let n := (fix + halfPiFix / 2) / halfPiFix
  let r : Int := (fix : Int) - (n : Int) * halfPiFix
  let y : Int := r / 2 ^ 32
  let y2 := (y * y / 2 ^ 192).toNat
  let sinr := trigTerms y2 30 1 y
  let cosr := trigTerms y2 30 0 (2 ^ 192)
  let q := (if cos then n + 1 else n) % 4
  let v : Int := match q with | 0 => sinr | 1 => cosr | 2 => -sinr | _ => -cosr
  { v := if !cos && b32.sign x then -v else v, e := -192, exact := false }

/-- |x × 2^ex − y × 2^ey| ≤ n × 2^q less four units of 2^ey, so that the bound holds of the exact value too, which lies
less than one unit from the approximation of a reciprocal or a root. -/
def within (x : Int) (ex : Int) (y : Int) (ey : Int) (n : Nat) (q : Int) : Bool :=
  let d := addExact x ex (-y) ey
  let m := addExact d.1.natAbs d.2 4 ey
  (addExact m.1 m.2 (-(n : Int)) q).1 ≤ 0

/-- One unit in the last place of a format at a nonzero value: its exponent (R220). -/
def ulpExp (f : Fmt) (a : Apx) : Int :=
  let top := a.e + (bitLen a.v.natAbs : Int) - 1
  let q := top - (f.fw : Int)
  let least := 1 - (f.bias : Int) - (f.fw : Int)
  if q < least then least else q

/-- The bounds of R220: so many ulp; ulp, or an absolute error of 2^−22; a relative error below 2^−28. -/
inductive Bound where
  | ulp (n : Nat)
  | ulpOr22 (n : Nat)
  | rel28
  deriving DecidableEq, Repr

def Bound.admits (b : Bound) (f : Fmt) (a : Apx) (c : Nat) : Bool :=
  !f.isNaN c && !f.isInf c &&
  match b with
  | .ulp n => within (f.sval c) (f.lsb c) a.v a.e n (ulpExp f a)
  | .ulpOr22 n => within (f.sval c) (f.lsb c) a.v a.e n (ulpExp f a) || within (f.sval c) (f.lsb c) a.v a.e 1 (-22)
  | .rel28 => within (f.sval c) (f.lsb c) a.v a.e a.v.natAbs (a.e - 28)

/-- The delivered value and its flags (R342): ±∞ with OF where the exact value overflows; UF for a subnormal or a zero
where the exact value is no zero; with `flush`, subnormals are delivered as zeros of their sign. (DESIGN CHOICE, log entry 5.) -/
def deliverSpecial (f : Fmt) (op x : Nat) (flush : Bool) (b : Bound) (a : Apx) : FRes :=
  let near := roundInt f .rne false a.v a.e none
  if f.isInf near.1 then (near.1, fOF)
  else
    let c := Config.freeApprox op x % 2 ^ f.width
    let r := if !a.exact && b.admits f a c then c else near.1
    if flush && f.isSub r then (f.zero (f.sign r), fUF)
    else (r, if f.isSub r || (f.isZero r && a.v != 0) then fUF else 0)

/-- A NaN operand: quieted, with IV where it is signalling (R342). -/
def specialNaN (f : Fmt) (x : Nat) : FRes := (f.quiet x, if f.isSNaN x then fIV else 0)

/-- FRCP.F and DRCA (R342); DRCA delivers subnormal results as zeros. -/
def rcpOf (f : Fmt) (op : Nat) (flush : Bool) (b : Bound) (x : Nat) : FRes :=
  if f.isNaN x then specialNaN f x
  else if f.isZero x then (f.inf (f.sign x), fDZ)
  else if f.isInf x then (f.zero (f.sign x), 0)
  else deliverSpecial f op x flush b (apxRcp f x)

/-- FRSQ.F and DRSA (R342). -/
def rsqOf (f : Fmt) (op : Nat) (flush : Bool) (b : Bound) (x : Nat) : FRes :=
  if f.isNaN x then specialNaN f x
  else if f.isZero x then (f.inf (f.sign x), fDZ)
  else if f.sign x then (f.defNaN, fIV)
  else if f.isInf x then (0, 0)
  else deliverSpecial f op x flush b (apxRsq f x)

/-- FEX2.F (R220, R342): beyond 2^9 in magnitude the result overflows, or lies below every subnormal. -/
def ex2Of (flush : Bool) (x : Nat) : FRes :=
  if b32.isNaN x then specialNaN b32 x
  else if b32.isInf x then (if b32.sign x then 0 else b32.inf false, 0)
  else if b32.expo x ≥ 127 + 9 then (if b32.sign x then (0, fUF) else (b32.inf false, fOF))
  else deliverSpecial b32 2 x flush (.ulp 2) (apxEx2 x)

/-- FLG2.F (R220, R342): the absolute bound holds for operands in [0.5, 2]. -/
def lg2Of (flush : Bool) (x : Nat) : FRes :=
  if b32.isNaN x then specialNaN b32 x
  else if b32.isZero x then (b32.inf true, fDZ)
  else if b32.sign x then (b32.defNaN, fIV)
  else if b32.isInf x then (b32.inf false, 0)
  else if x == 0x3F800000 then (0, 0)
  else
    let b := if 0x3F000000 ≤ x && x ≤ 0x40000000 then Bound.ulpOr22 2 else Bound.ulp 2
    deliverSpecial b32 3 x flush b (apxLg2 x)

/-- FSIN.F and FCOS.F (R220, R342): beyond 2^20 any value in [−1, 1]. -/
def trigOf (cos flush : Bool) (x : Nat) : FRes :=
  let op := if cos then 5 else 4
  if b32.isNaN x then specialNaN b32 x
  else if b32.isInf x then (b32.defNaN, fIV)
  else if b32.isZero x then (if cos then 0x3F800000 else x, 0)
  else if 0x49800000 < x % 2 ^ 31 then
    let c := Config.freeApprox op x % 2 ^ 32
    let r := if c % 2 ^ 31 ≤ 0x3F800000 then c else 0
    if flush && b32.isSub r then (b32.zero (b32.sign r), fUF)
    else (r, if b32.isSub r || b32.isZero r then fUF else 0)
  else deliverSpecial b32 op x flush (.ulp 2) (apxTrig cos x)

/-- The mould of R341: direct class, d alone; W writes NZCV. -/
def specialOp (f : Fmt) (d a : Spec) (w : BitVec 1) (op : State → Nat → FRes) (s : State) : Res :=
  let r := s.me.E.map fun l => FLane.of f l (op s (f.flush (s.ftz f) (s.rdF f a l)))
  fpEnd r (fun s =>
    (s.putDirect d (r.map fun x => (x.lane, x.val))).modMe fun g =>
      if w == 1 then g.writeFlags (r.map fun x => (x.lane, x.nzcv)) else g) s

/-- FRCP.F. -/
def semFrcpF (d : Spec) (a : Spec) (w : BitVec 1) : State → Res :=
  (specialOp b32 d a w fun s x => rcpOf b32 0 s.ftzF (.ulp 1) x)
def execFrcpF (d a : Spec) (w f : BitVec 1) (s : State) : Out := issue (.frcpF d a w f) (semFrcpF d a w) s

/-- FRSQ.F. -/
def semFrsqF (d : Spec) (a : Spec) (w : BitVec 1) : State → Res :=
  (specialOp b32 d a w fun s x => rsqOf b32 1 s.ftzF (.ulp 1) x)
def execFrsqF (d a : Spec) (w f : BitVec 1) (s : State) : Out := issue (.frsqF d a w f) (semFrsqF d a w) s

/-- FEX2.F. -/
def semFex2F (d : Spec) (a : Spec) (w : BitVec 1) : State → Res :=
  (specialOp b32 d a w fun s x => ex2Of s.ftzF x)
def execFex2F (d a : Spec) (w f : BitVec 1) (s : State) : Out := issue (.fex2F d a w f) (semFex2F d a w) s

/-- FLG2.F. -/
def semFlg2F (d : Spec) (a : Spec) (w : BitVec 1) : State → Res :=
  (specialOp b32 d a w fun s x => lg2Of s.ftzF x)
def execFlg2F (d a : Spec) (w f : BitVec 1) (s : State) : Out := issue (.flg2F d a w f) (semFlg2F d a w) s

/-- FSIN.F. -/
def semFsinF (d : Spec) (a : Spec) (w : BitVec 1) : State → Res :=
  (specialOp b32 d a w fun s x => trigOf false s.ftzF x)
def execFsinF (d a : Spec) (w f : BitVec 1) (s : State) : Out := issue (.fsinF d a w f) (semFsinF d a w) s

/-- FCOS.F. -/
def semFcosF (d : Spec) (a : Spec) (w : BitVec 1) : State → Res :=
  (specialOp b32 d a w fun s x => trigOf true s.ftzF x)
def execFcosF (d a : Spec) (w f : BitVec 1) (s : State) : Out := issue (.fcosF d a w f) (semFcosF d a w) s

/-- DRCA: a seed of 1 ÷ a, never subnormal (R342). -/
def semDrca (d : Spec) (a : Spec) (w : BitVec 1) : State → Res :=
  (specialOp b64 d a w fun _ x => rcpOf b64 6 true .rel28 x)
def execDrca (d a : Spec) (w f : BitVec 1) (s : State) : Out := issue (.drca d a w f) (semDrca d a w) s

/-- DRSA: a seed of 1 ÷ √a, never subnormal (R342). -/
def semDrsa (d : Spec) (a : Spec) (w : BitVec 1) : State → Res :=
  (specialOp b64 d a w fun _ x => rsqOf b64 7 true .rel28 x)
def execDrsa (d a : Spec) (w f : BitVec 1) (s : State) : Out := issue (.drsa d a w f) (semDrsa d a w) s

/-! ### Quantise and dequantise -/

/-- A header valid, or a NaN block (R212). -/
def dxbNaN (h : Nat) : Bool :=
  let e0 := h % 256
  let e1 := h / 256
  e0 == 255 || !(decide (e1 ≤ e0) && decide (e0 - e1 ≤ 31))

/-- m × 2^e as an integer times F × 2^(127 − E), rounded to nearest even (R215). -/
def dxbQ (x F E : Nat) : Nat × Bool :=
  roundAt .rne false (b32.mag x * F) (b32.lsb x + 127 - E) false 0

/-- The (c+1)-th largest of some magnitudes: binary32 patterns without sign order as numbers. -/
def nthLargest (c : Nat) (l : List Nat) : Nat := (l.mergeSort fun x y => decide (y ≤ x)).getD c 0

/-- The smallest e in 0 to 254 with t < 2^(e − 127); 254 if none exists (R215). -/
def dxbE0 (t : Nat) : Nat :=
  ((upTo 255).find? fun (e : Nat) => t < 0x7F800000 &&
    (addExact (b32.mag t) (b32.lsb t) (-1) (Int.ofNat e - 127)).1 < 0).getD 254

/-- An element's code and whether it is inexact (R215): `small` is the width of the magnitude. -/
def dxbCode (x F max e0 e1 selBit signBit : Nat) : Nat × Bool :=
  let m := x % 2 ^ 31
  let sg := if b32.sign x then signBit else 0
  let cap (E : Nat) : Nat × Bool := if b32.isInf m then (max + 1, true) else dxbQ m F E
  let q := cap e1
  if q.1 ≤ max then (selBit + sg + q.1, q.2)
  else
    let p := cap e0
    (sg + (if p.1 < max then p.1 else max), p.2 || decide (max < p.1))

/-- One block of QDX (R215): its header, codes, and flags. -/
def qdxBlock (x8 : Bool) (δ c : Nat) (xs : List Nat) : Nat × List Nat × FpFlags :=
  if xs.any b32.isNaN then (0x00FF, xs.map fun _ => 0, if xs.any b32.isSNaN then fIV else 0)
  else
    let e0 := dxbE0 (nthLargest c (xs.map fun x => x % 2 ^ 31))
    let e1 := e0 - δ
    let r := xs.map fun x =>
      if x8 then dxbCode x 64 63 e0 e1 128 64 else dxbCode x 4 3 e0 e1 8 4
    (e1 * 256 + e0, r.map fun y => y.1, if r.any fun y => y.2 then fNX else 0)

/-- QDX (R214, R215): blocks of 32 physical lanes, results in the lanes of E; it follows no trap enable (R209). -/
def qdxOp (x8 : Bool) (d a g : Spec) (c : BitVec 3) (s : State) : Res :=
  let blocks := (upTo (s.me.W / 32)).map fun k =>
    qdxBlock x8 g.toNat c.toNat ((upTo 32).map fun i => s.rdF b32 a (32 * k + i))
  let blk (l : Nat) : Nat × List Nat × FpFlags := blocks.getD (l / 32) (0, [], 0)
  let vals := s.me.E.map fun l => (l, (BitVec.ofNat 64 ((blk l).1 * 2 ^ 16 + (blk l).2.1.getD (l % 32) 0) : Word))
  .done ((s.modMe fun h => h.orFpsr (s.me.E.map fun l => (l, (blk l).2.2))).putShort d vals [])

/-- QDX.X8. -/
def semQdxX8 (d : Spec) (a : Spec) (g : Spec) (c : BitVec 3) : State → Res :=
  (qdxOp true d a g c)
def execQdxX8 (d a g : Spec) (c : BitVec 3) (s : State) : Out := issue (.qdxX8 d a g c) (semQdxX8 d a g c) s

/-- QDX.X4. -/
def semQdxX4 (d : Spec) (a : Spec) (g : Spec) (c : BitVec 3) : State → Res :=
  (qdxOp false d a g c)
def execQdxX4 (d a g : Spec) (c : BitVec 3) (s : State) : Out := issue (.qdxX4 d a g c) (semQdxX4 d a g c) s

/-- The value of a DXB element in binary32, exact (R212, R216). -/
def dqxValue (x8 : Bool) (el h : Nat) : Nat :=
  if dxbNaN h then b32.defNaN
  else
    let sel := if x8 then el.testBit 7 else el.testBit 3
    let neg := if x8 then el.testBit 6 else el.testBit 2
    let m := if x8 then el % 64 else el % 4
    let e : Int := (if sel then h / 256 else h % 256 : Nat)
    (roundF b32 .rne false neg m (e - 127 - (if x8 then 6 else 2)) false).1

def dqxOp (x8 : Bool) (d a b : Spec) (s : State) : Res :=
  shortOp d 0 (fun l =>
    ((BitVec.ofNat 64 (dqxValue x8 ((s.rd a l).toNat % (if x8 then 256 else 16)) (bitsOf (s.rd b l).toNat 31 16)) : Word), 0)) s

/-- DQX.X8 (R216, R340). -/
def semDqxX8 (d : Spec) (a : Spec) (b : Spec) : State → Res :=
  (dqxOp true d a b)
def execDqxX8 (d a b : Spec) (s : State) : Out := issue (.dqxX8 d a b) (semDqxX8 d a b) s

/-- DQX.X4 (R216, R340). -/
def semDqxX4 (d : Spec) (a : Spec) (b : Spec) : State → Res :=
  (dqxOp false d a b)
def execDqxX4 (d a b : Spec) (s : State) : Out := issue (.dqxX4 d a b) (semDqxX4 d a b) s

end Sys2Proof.Machine
end

