-- ==== Sys2Proof/Machine/Matrix.lean ====
section
/-!
DEFINITION. The matrix engine: tiles and their ownership (R221, R222), fragments (R225, R226), the sums of every shape
(R217, R218, R432), MMA and its retirement (R227, R228), MZRO, MFIL and MDRN (R229, R230), MSAV and MRST (R231, R232).
-/
namespace Sys2Proof.Machine

/-! ### Tiles -/

def zeroTile : List Word := List.replicate 256 0
/-- A tile's elements, (i, j) at 16 i + j; a tile that nothing has written since the claim is zero. -/
def Core.tile (c : Core) (n : Nat) : List Word := tgetD c.tiles n zeroTile

/-- The issuing group may use the accumulator store, or claims it: `none` is MOWN (R102, R222). -/
def State.claim (s : State) : Option State :=
  let g := s.me
  let c := s.tileCoreOf g
  if s.myGrid.bramble && g.core != s.myTeam.home then none
  else
    match (s.core c).owner, g.sup with
    | .free, sup => some (s.modCore c fun x => { x with owner := if sup then .sup else .team g.team, tiles := [] })
    | .team t, false => if t == g.team then some s else none
    | .sup, true => some s
    | _, _ => none

/-- An MMA on a tile, or on the pair that contains it, is still to retire (R229). -/
def State.tileBusy (s : State) (d : Nat) : Bool :=
  (s.core (s.tileCoreOf s.me)).mmaQ.any fun m => m.tile == d || (m.b2.isSome && m.tile + 1 == d)

/-! ### Fragments -/

/-- Elements in a register, and elements along k, of a shape (R225). -/
def shapeP (x : Nat) : Nat := match x with | 0 => 1 | 1 => 2 | 2 | 3 => 4 | 4 => 8 | _ => 16
def shapeK (x : Nat) : Nat := match x with | 0 => 2 | 1 => 4 | 2 | 3 => 16 | 4 => 32 | _ => 64

/-- Slots of a fragment (R225). -/
def shapeSlots (x : Nat) : Nat := 16 * (shapeK x / shapeP x)

/-- The words of a fragment by slot; a DXB fragment's 16 headers follow (R225, R226). Lanes in E or not supply. -/
def Group.frag (g : Group) (tix : Nat) (a : Spec) (x : Nat) : List Word :=
  let w := if x < 4 then g.W else 32
  let slots := (upTo (shapeSlots x)).map fun s => g.read tix (BitVec.ofNat 7 (a.toNat + s / w)) (s % w)
  if x < 4 then slots else slots ++ (upTo 16).map fun i => g.read tix (BitVec.ofNat 7 (a.toNat + 2)) i

/-- Element (i, k) of a fragment (R225). -/
def fragEl (x : Nat) (f : List Word) (i k : Nat) : Nat :=
  let p := shapeP x
  let b := 64 / p
  bitsOf (f.getD (i + 16 * (k / p)) 0).toNat (b * (k % p) + b - 1) (b * (k % p))

/-- The header of a row or column for a k-block (R226). -/
def fragHdr (f : List Word) (i kb : Nat) : Nat := bitsOf (f.getD (64 + i) 0).toNat (16 * kb + 15) (16 * kb)

/-! ### Sums -/

/-- FP64 and FP32: one fused operation per k, each rounded RNE (R217). -/
def mmaFma (f : Fmt) : List (Nat × Nat) → Nat → FRes
  | [], c => (c, 0)
  | (a, b) :: r, c =>
    let x := ffma f .rne false false false a b c
    let y := mmaFma f r x.1
    (y.1, x.2 ||| y.2)

/-- Values and exponents of the products of numbers that are no NaN and not infinite. -/
def prodExact (f : Fmt) (a b : Nat) : Int × Int := (f.sval a * f.sval b, f.lsb a + f.lsb b)

/-- BF16 and binary16: the products summed exactly, added to the accumulator with one rounding (R217, R432). A zero total
is negative only where every product and the accumulator are negative zeros. -/
def mmaSum (f : Fmt) (ps : List (Nat × Nat)) (c : Nat) : FRes :=
  let nan := b32.isNaN c || ps.any fun p => f.isNaN p.1 || f.isNaN p.2
  let snan := b32.isSNaN c || ps.any fun p => f.isSNaN p.1 || f.isSNaN p.2
  let good := ps.filter fun p => !f.isNaN p.1 && !f.isNaN p.2
  let bad := good.any fun p => (f.isInf p.1 && f.isZero p.2) || (f.isZero p.1 && f.isInf p.2)
  let infs := (good.filter fun p => f.isInf p.1 || f.isInf p.2).map fun p => f.sign p.1 != f.sign p.2
  let infs := if b32.isInf c then b32.sign c :: infs else infs
  let clash := infs.contains true && infs.contains false
  if nan || bad || clash then (b32.defNaN, if snan || bad || clash then fIV else 0)
  else
    match infs with
    | n :: _ => (b32.inf n, 0)
    | [] =>
      let t := sumExact ((b32.sval c, b32.lsb c) :: ps.map fun p => prodExact f p.1 p.2)
      let neg := b32.isZero c && b32.sign c && ps.all fun p => (f.isZero p.1 || f.isZero p.2) && f.sign p.1 != f.sign p.2
      roundInt b32 .rne false t.1 t.2 (some neg)

/-- A DXB element as select, signed magnitude (R212). -/
def dxbEl (x8 : Bool) (e : Nat) : Bool × Int :=
  let m : Int := (if x8 then e % 64 else e % 4 : Nat)
  if x8 then (e.testBit 7, if e.testBit 6 then -m else m) else (e.testBit 3, if e.testBit 2 then -m else m)

/-- One k-block (R218): c plus the exact scaled sum, one rounding; a sum beyond the binary32 range counts as infinite. -/
def dxbBlock (x8 : Bool) (ha hb : Nat) (ps : List (Nat × Nat)) (c : Nat) : FRes :=
  let sn := if b32.isSNaN c then fIV else 0
  if dxbNaN ha || dxbNaN hb || b32.isNaN c then (b32.defNaN, sn)
  else
    let ex (h : Nat) (sel : Bool) : Nat := if sel then h / 256 else h % 256
    let sum := ps.foldl (fun (t : Int) p =>
      let a := dxbEl x8 p.1
      let b := dxbEl x8 p.2
      t + a.2 * b.2 * (2 ^ (ex ha a.1 + ex hb b.1) : Nat)) 0
    let e : Int := -254 - (if x8 then 12 else 4)
    let r := roundInt b32 .rne false sum e none
    if b32.isInf r.1 then
      (if b32.isInf c && b32.sign c != b32.sign r.1 then (b32.defNaN, r.2 ||| fIV) else r)
    else if b32.isInf c then (c, 0)
    else
      let t := addExact (b32.sval c) (b32.lsb c) sum e
      roundInt b32 .rne false t.1 t.2 none

/-- The blocks of a DXB product in ascending order (R217). (DEDUCED, log entry 42.) -/
def mmaDxb (x8 : Bool) (a b : List Word) (i j : Nat) : List Nat → Nat → FRes
  | [], c => (c, 0)
  | kb :: r, c =>
    let x := if x8 then 4 else 5
    let y := dxbBlock x8 (fragHdr a i kb) (fragHdr b j kb) ((upTo 32).map fun k => (fragEl x a i (32 * kb + k), fragEl x b j (32 * kb + k))) c
    let z := mmaDxb x8 a b i j r y.1
    (z.1, y.2 ||| z.2)

/-- One element of a tile after an MMA (R217, R221). -/
def accumulate (x : Nat) (a b : List Word) (i j : Nat) (c : Word) : Word × FpFlags :=
  let ps := (upTo (shapeK x)).map fun k => (fragEl x a i k, fragEl x b j k)
  let low := c.toNat % 2 ^ 32
  let r := match x with
    | 0 => mmaFma b64 ps c.toNat
    | 1 => mmaFma b32 ps low
    | 2 => mmaSum bf16 ps low
    | 3 => mmaSum b16 ps low
    | 4 => mmaDxb true a b i j [0] low
    | _ => mmaDxb false a b i j [0, 1] low
  (BitVec.ofNat 64 r.1, r.2)

/-- A tile after an MMA, and the flags of its element computations. -/
def accumTile (x : Nat) (a b : List Word) (t : List Word) : List Word × FpFlags :=
  let r := imapFrom (fun n c => accumulate x a b (n / 16) (n % 16) c) 0 t
  (r.map fun e => e.1, r.foldl (fun f e => f ||| e.2) 0)

/-! ### MMA -/

/-- The array of a core is busy: with an MMA of its own, or slaved to a paired one of the pair's other core (R228). -/
def State.arrayBusy (s : State) (c : Nat) : Bool :=
  !(s.core c).mmaQ.isEmpty || (s.core (mateOf c)).mmaQ.any fun m => m.b2.isSome

/-- MMA issue is held on a core whose array is busy, by heat or by the power limit (R15, R306). (DEDUCED, log entry 42.) -/
def State.mmaHeld (s : State) : Bool :=
  let c := s.tileCoreOf s.me
  (s.hot || decide (s.limit < s.draw)) && (s.arrayBusy c || (s.myTeam.paired && s.arrayBusy (mateOf c)))

/-- The partner group of a paired team's group (R23). -/
def State.partner (s : State) : Option Group :=
  (s.groups.find? fun e => e.2.team == s.me.team && e.2.num == s.me.num + 1).map fun e => e.2

/-- The present group waits at its instruction. -/
def State.waitAt (s : State) (w : Wait) : Res := .wait (s.modMe fun g => { g with wait := w })

/-- A fragment is full in every lane of its group (R227). -/
def fragFull (h : Group) (a : Spec) (x : Nat) : Bool := (span a (fragRegs x h.W)).all fun r => fullIn h r (upTo h.W)

/-- An MMA joins the queue of its core's array, behind what the arrays that it uses have taken before it (R227, R228). -/
def State.pushMma (s : State) (m : Mma) : State :=
  let c := s.tileCoreOf s.me
  let other := (s.core (mateOf c)).mmaQ
  let n := if m.b2.isSome then other.length else (other.filter fun x => x.b2.isSome).length
  s.modCore c fun x => { x with mmaQ := x.mmaQ ++ [{ m with behind := n }] }

/-- MMA's effect at its issue (R227). One hold is counted for each MMA that is held, in the power-hold counter (R16).
(DESIGN CHOICE, log entry 42.) -/
def State.mma (s : State) (word : Word) (d a b : Spec) (x : Nat) : Res :=
  let g := s.me
  let paired := s.myTeam.paired
  if paired && (g.core % 2 == 1 || d.toNat % 2 == 1 || s.partner.isNone) then .trap .ill word s
  else
    match s.claim with
    | none => .trap .mown 0 s
    | some s =>
      let bad := match s.partner with
        | some h => paired && (span b (fragRegs x h.W)).any fun r => decide (h.R ≤ h.wbase + r.toNat)
        | none => false
      if bad then .trap .winov word s
      else if !(fragFull g a x && fragFull g b x) then s.waitAt .regs
      else if s.mmaHeld then
        (if g.wait == .mma then s else s.modCore g.core fun c => { c with holds := c.holds + 1 }).waitAt .mma
      else
        let tix := s.myTeam.tix
        let push (b2 : Option (List Word)) : Res :=
          .done (s.pushMma { gid := s.cur, team := g.team, tile := d.toNat, shape := x, a := g.frag tix a x, b := g.frag tix b x,
                             b2 := b2, lanes := g.eMask })
        match paired, s.partner with
        | true, some h => if h.loc == .onCore && fragFull h b x then push (some (h.frag tix b x)) else s.waitAt .regs
        | _, _ => push none

/-- MMA (R224, R227). -/
def execMma (d a b : Spec) (x : BitVec 3) (s : State) : Out :=
  issue (.mma d a b x) (fun s => s.mma (wordVal (.mma d a b x)) d a b x.toNat) s

/-- An MMA of the pair's other core has retired: one fewer stands before those that share an array with it (R228). -/
def Core.mmaDone (c : Core) (paired : Bool) : Core :=
  { c with mmaQ := c.mmaQ.map fun m => if paired || m.b2.isSome then { m with behind := m.behind - 1 } else m }

/-- The oldest MMA of a core retires (R227, R228), unless the pair's other core has one before it: it accumulates into its
tile or tiles, and its flags go to the FPSR of the lanes that issued it. -/
def State.retire (s : State) (core : Nat) : State :=
  match (s.core core).mmaQ with
  | [] => s
  | m :: rest =>
    if m.behind != 0 then s
    else
      let c := s.core core
      let r := accumTile m.shape m.a m.b (c.tile m.tile)
      let tiles := tset m.tile r.1 c.tiles
      let r2 := match m.b2 with
        | some b2 =>
          let y := accumTile m.shape m.a b2 (c.tile (m.tile + 1))
          (tset (m.tile + 1) y.1 tiles, y.2)
        | none => (tiles, 0)
      let s := s.setCore core { c with mmaQ := rest, tiles := r2.1 }
      let s := s.modCore (mateOf core) fun x => x.mmaDone m.b2.isSome
      s.modGrp m.gid fun g => g.orFpsr ((bitsSet m.lanes g.W).map fun l => (l, r.2 ||| r2.2))

/-! ### Tile instructions -/

def State.setTile (s : State) (n : Nat) (t : List Word) : State :=
  s.modCore (s.tileCoreOf s.me) fun c => { c with tiles := tset n t c.tiles }

/-- A tile instruction: it claims the store, and waits for the MMAs on its tile (R229). -/
def State.onTile (s : State) (d : Nat) (f : State → Res) : Res :=
  match s.claim with
  | none => .trap .mown 0 s
  | some s => if s.tileBusy d then s.waitAt .mma else f s

/-- MZRO (R229). -/
def execMzro (d : Spec) (s : State) : Out :=
  issue (.mzro d) (fun s => s.onTile d.toNat fun s => .done (s.setTile d.toNat zeroTile)) s

/-- MFIL (R229): every lane supplies. -/
def execMfil (d a : Spec) (s : State) : Out :=
  issue (.mfil d a)
    (fun s => s.onTile d.toNat fun s =>
      let W := s.me.W
      .done (s.setTile d.toNat ((upTo 256).map fun n =>
        let slot := n / 16 + 16 * (n % 16)
        s.rd (BitVec.ofNat 7 (a.toNat + slot / W)) (slot % W)))) s

/-- The format in which MDRN reads a tile, and the one that it writes (R230). -/
def mdrnFmt (c : Nat) : Fmt × Fmt :=
  match c with
  | 1 => (b64, b64) | 2 => (b32, b32) | 3 => (b32, bf16) | 4 => (b32, b16) | _ => (b64, b32)

/-- One element of MDRN (R230): scaled by its row and its column, then converted. (DEDUCED, log entry 51.) -/
def mdrnEl (c : Nat) (y : Word) (scale : Option (Word × Word)) : Word × FpFlags :=
  if c == 0 then (y, 0)
  else
    let f := mdrnFmt c
    let low (w : Word) : Nat := w.toNat % 2 ^ f.1.width
    let p := match scale with
      | none => (low y, 0)
      | some (r, k) =>
        let u := fmul f.1 .rne false (low y) (low r)
        let v := fmul f.1 .rne false u.1 (low k)
        (v.1, u.2 ||| v.2)
    let z := fcvt f.1 f.2 .rne false false p.1
    (BitVec.ofNat 64 z.1, p.2 ||| z.2)

/-- MDRN's effect (R230): one long-class result per register of the tile, in the lanes of E. (DEDUCED, log entry 51.) -/
def State.mdrn (s : State) (d a b : Spec) (c : Nat) : Res :=
  s.onTile d.toNat fun s =>
    let g := s.me
    let W := g.W
    let t := (s.core (s.tileCoreOf g)).tile d.toNat
    let b1 : Spec := b + 1
    let el (slot : Nat) : Word × FpFlags :=
      let i := slot % 16
      let j := slot / 16
      mdrnEl c (t.getD (16 * i + j) 0) (if b.toNat == 0x79 then none else some (s.rd b i, s.rd b1 j))
    let out := (upTo (tileRegs W)).map fun n => (BitVec.ofNat 7 (a.toNat + n), g.E.map fun l => (l, el (n * W + l)))
    let flags := out.foldl (fun f r => r.2.foldl (fun f x => f ||| x.2.2) f) (0 : FpFlags)
    .done ((out.foldl (fun s r => s.putLong r.1 (r.2.map fun x => (x.1, x.2.1))) s).modMe
      fun h => h.orFpsr (g.E.map fun l => (l, flags)))

/-- MDRN (R229, R230). -/
def execMdrn (d a b : Spec) (c : BitVec 3) (s : State) : Out :=
  issue (.mdrn d a b c) (fun s => s.mdrn d a b c.toNat) s

/-! ### MSAV and MRST -/

/-- A target further on. -/
def Target.shift (t : Target) (n : Nat) : Target :=
  match t with
  | .mem pa ty dom va => .mem (pa + n) ty dom (va + n)
  | .store t off => .store t (off + n)
  | .remote q pa d => .remote q (pa + n) d
  | .device pa => .device (pa + n)

/-- The pieces of 128 bytes of an access that is aligned to them: numbers and targets. -/
def imagePieces (ts : List (Target × Nat)) : List (Nat × Target) :=
  imapFrom (fun i t => (i, t)) 0 ((ts.map fun t => (upTo (t.2 / 128)).map fun i => t.1.shift (128 * i)).flatten)

/-- The image of 32 KiB is accessed by the lowest lane of E (R231, R232): checked and translated in full before any byte
moves; pieces in another package are requests whose responses it awaits. -/
def State.image (s : State) (va : Word) (acc : Nat → Acc) (fin : List (Nat × Nat) → State → State) : Res :=
  let g := s.me
  let w := s.who g g.lowE
  if g.wait == .remote then
    s.awaitRemote fun s =>
      let fails := g.remote.filter fun r => r.2.1 != 0
      let s := s.modMe fun g => { g with remote := [] }
      if fails.isEmpty then .done (fin (g.remote.map fun r => (r.1, r.2.2)) s)
      else .trap (remoteCause (fails.map fun r => r.2.1)) va s
  else
    if s.walkHeld w va 32768 then s.waitAt .bad
    else
    let s := s.prefetch w va 32768
    match s.targets w va 32768 128 (acc 0).kind with
    | .error c => .trap c va s
    | .ok ts =>
      let whole : Checked := ({ lane := g.lowE, va := va, n := 32768, acc := acc 0 }, ts)
      match deviceOf [whole] with
      | some pa => .refuse (.deviceRegister pa)
      | none =>
        match s.cowLanes g [whole] with
        | .error (p, v) => .trap .vpool v (s.modMe fun g => { g with noPool := some p })
        | .ok (some (c, v), t) => .wait (t.modMe fun g => { g with wait := .cow c v })
        | .ok (none, s) =>
          if s.badData [whole] then s.waitAt .bad
          else
            let ps := (imagePieces ts).map fun p => (p.1, (({ lane := g.lowE, va := va + BitVec.ofNat 64 (128 * p.1), n := 128, acc := acc p.1 }, [(p.2, 128)]) : Checked))
            let near := ps.filter fun p => !hasRemote [p.2]
            let far := ps.filter fun p => hasRemote [p.2]
            let r := near.foldl (fun y p => match y.2.perform g p.2 with
              | some z => (y.1 ++ [(p.1, z.1)], z.2)
              | none => y) (([] : List (Nat × Nat)), s)
            if far.isEmpty then .done (fin r.1 r.2)
            else
              .wait ((r.2.modMe fun g => { g with wait := .remote, remote := r.1.map fun v => (v.1, 0, v.2) }).sendRemote
                (far.map fun p => ({ p.2.1 with lane := p.1 }, p.2.2)))

/-- MSAV and MRST stop here: an open task (ILL), or a store, or a core, that the group may not use (MOWN) (R102, R232). -/
def State.imageBar (s : State) (word : Word) : Option (Cause × Word) :=
  let g := s.me
  if g.taskId != 0 then some (.ill, word)
  else if s.myGrid.bramble && g.core != s.myTeam.home then some (.mown, 0)
  else
    match (s.core (s.tileCoreOf g)).owner with
    | .team t => if t == g.team then none else some (.mown, 0)
    | .sup => if g.sup then none else some (.mown, 0)
    | .free => none

/-- 128 bytes of the tile image (R231): elements 16 n to 16 n + 15. -/
def imageBlock (c : Core) (n : Nat) : Nat :=
  let t := c.tile (n / 16)
  ofBytes ((upTo 16).map fun k => toBytes 8 (t.getD (16 * (n % 16) + k) 0).toNat).flatten

/-- MSAV (R231, R232): the image is stored and the store is free. -/
def execMsav (a : Spec) (s : State) : Out :=
  issue (.msav a)
    (fun s =>
      match s.imageBar (wordVal (.msav a)) with
      | some (c, v) => .trap c v s
      | none =>
        let core := s.tileCoreOf s.me
        if !(s.core core).mmaQ.isEmpty then s.waitAt .mma
        else
          s.image (s.rd a s.me.lowE) (fun n => .store (imageBlock (s.core core) n))
            fun _ s => s.modCore core fun c => { c with owner := .free, tiles := [] }) s

/-- The tiles that an image holds (R231). -/
def tilesOf (vals : List (Nat × Nat)) : Tab (List Word) :=
  (upTo 16).map fun t => (t, (upTo 256).map fun e =>
    BitVec.ofNat 64 (bitsOf ((vals.find? fun v => v.1 == 16 * t + e / 16).map (fun v => v.2) |>.getD 0) (64 * (e % 16) + 63) (64 * (e % 16))))

/-- MRST (R231, R232): every tile is loaded, and the store is the team's. -/
def execMrst (a : Spec) (s : State) : Out :=
  issue (.mrst a)
    (fun s =>
      match s.imageBar (wordVal (.mrst a)) with
      | some (c, v) => .trap c v s
      | none =>
        let core := s.tileCoreOf s.me
        let team := s.me.team
        if !(s.core core).mmaQ.isEmpty then s.waitAt .mma
        else
          s.image (s.rd a s.me.lowE) (fun _ => .load)
            fun vals s => s.modCore core fun c => { c with owner := .team team, tiles := tilesOf vals }) s

end Sys2Proof.Machine
end

