-- ==== Sys2Proof/Machine/Traps.lean ====
section
/-!
DEFINITION. What befalls groups and teams beside their instructions: the entries that waited (R264, R266), frames that
become ready (R267), event records and errors (R271, R277), wounds and revocations (R193, R194, R434), pre-emption, saves
and partition swaps (R270 to R275), and the ends of what the engines do (R227, R239, R294, R296).
-/
namespace Sys2Proof.Machine

/-! ### Entries that waited -/

/-- The trap that waits at a group is entered, if it can be and its destination is one that a test names. -/
def State.enterDue (s : State) (gid : Nat) (p : Dest → Bool) : State :=
  let g := s.grp gid
  match g.trapDue with
  | some d => if p ((s.team g.team).dest d.cause) && s.canEnter gid d.cause then s.enterTrap gid d else s
  | none => s

/-- TVEC_ENTRY (R264). -/
def execTvecEntry (gid : Nat) (s : State) : Out := .next (s.enterDue gid fun d => d == .tvec)

/-- CONTV_ENTRY (R262, R266): parking at a user vector, or the stall for service. -/
def execContvEntry (gid : Nat) (s : State) : Out := .next (s.enterDue gid fun d => d != .tvec)

/-- FRAME_READY (R267). -/
def execFrameReady (gid frame : Nat) (s : State) : Out :=
  let team := (s.grp gid).team
  match tget frame (s.team team).frames with
  | none => .next s
  | some f =>
    if f.gid == gid && !f.tagged && s.frameReady f then
      .next ((s.modTeam team fun t => { t with frames := tset frame { f with tagged := true } t.frames }).frameTag team)
    else .next s

/-! ### Event records -/

/-- SERVICE_REPLY (R271): the record leaves the queue; a group that stalled for it issues again, a frame is ready.
(DESIGN CHOICE, log entry 53.) -/
def execServiceReply (seq : Nat) (s : State) : Out :=
  if s.evq.any fun r => r.seq == seq then
    .next { s with
      evq := s.evq.filter (fun r => r.seq != seq)
      groups := tmap (fun _ g => (if g.wait == .page seq then { g with wait := .none, readyAt := s.tick } else g)) s.groups
      teams := tmap (fun _ t =>
        { t with frames := tmap (fun _ f => (if f.until_ == .reply seq then { f with until_ := .now } else f)) t.frames }) s.teams }
  else .next s

/-- The oldest record of a die that found no entry is stored as one is free (R277). -/
def State.unstop (s : State) (die : Nat) : State :=
  match takeFirst (fun (r : Nat × EvRec) => r.1 == die) s.stopped with
  | some (r, rest) => if s.canPost die r.2.kind then { s with stopped := rest }.post die r.2 else s
  | none => s

/-- FAULT_BUFFER_DRAIN (R277): the oldest record of the die goes to the queue, if it has room. -/
def execFaultBufferDrain (die : Nat) (s : State) : Out :=
  match s.fbufOf die with
  | r :: rest =>
    if s.evq.length < Config.eventQueueSize then .next (({ s with evq := s.evq ++ [r] }.setFbuf die rest).unstop die)
    else .next s
  | [] => .next (s.unstop die)

/-- UNCORRECTABLE_ERROR (R277): the line is bad, and a record of kind 2 is stored; where none can be, the die stops. -/
def execUncorrectableError (core pa : Nat) (s : State) : Out :=
  let s : State := { s with bad := if s.bad.contains (lineOf pa) then s.bad else s.bad ++ [lineOf pa] }
  .next (s.post (dieOf core) { kind := 2, core := core, val := BitVec.ofNat 64 pa })

/-- CORRECTED_ERROR (R277): a record of kind 1 carries the errors counted since the last one of its unit. -/
def execCorrectedError (core pa : Nat) (s : State) : Out :=
  let n := tgetD s.corrected core 0 + 1
  .next (if s.canPost (dieOf core) 1 then
      { s with corrected := tdel core s.corrected }.post (dieOf core)
        { kind := 1, core := core, val := BitVec.ofNat 64 pa, count := min n 65535 }
    else { s with corrected := tset core n s.corrected })

/-! ### Wounds and revocations -/

/-- The group may receive a wound or a revocation, but for an MMA in flight (R193, R434): on its core, in user mode, with no
trap of its own waiting, no BRG or departure in progress, and no instruction that has had a part of its effect. -/
def State.mayDeliver (s : State) (gid : Nat) : Bool :=
  let g := s.grp gid
  g.loc == .onCore && !g.sup && g.trapDue.isNone && g.depart.isNone &&
  match g.wait with
  | .remote | .room _ _ | .brg | .ldv | .lkmat | .fence | .again => false
  | .cow _ _ => g.taskId != 0
  | .lock => g.revokeDue && g.lockSt.any fun e => e.2.isNone
  | _ => true

/-- The group can receive a wound or a revocation now: no MMA of it is in flight either (R193, R223). -/
def State.canDeliver (s : State) (gid : Nat) : Bool := s.mayDeliver gid && !s.mmaInFlight gid

/-- WOUND_DELIVERY (R193, R194, R434): the group's loads in flight complete first (R371, R386); inside a task the task aborts;
outside one the group enters WNDV, or TVEC; with a revocation due, LKREVOKE follows, or takes its place. -/
def execWoundDelivery (gid : Nat) (s : State) : Out :=
  let g := s.grp gid
  if !s.canDeliver gid || !(g.woundDue || g.revokeDue) then .next s
  else
    let s := s.modGrp gid Group.settleLoads
    if g.revokeDue then
    let t := (s.withdraw gid).modGrp gid fun x => { x with woundDue := false, revokeDue := false, lockSt := [] }
    let t := if g.woundDue && g.taskId != 0 then t.abortTask gid Cause.wound.code else t
    .next (t.raiseAsync gid .lkrevoke g.taskId)
    else
    let t := s.modGrp gid fun x => { x with woundDue := false }
    if g.taskId != 0 then .next (t.abortTask gid Cause.wound.code) else .next (t.raiseAsync gid .wound 0)

/-- WOUND_DEADLINE_EXPIRY (R194): a deadline that has come is met, and over, or Quince revokes. -/
def execWoundDeadlineExpiry (team : Nat) (s : State) : Out :=
  .next (if !s.woundExpired team then s
    else if s.deadlineMet team then { s with wounds := s.wounds.filter fun w => w.team != team || !w.expired s.tick }
    else s.revoke team)

/-! ### Pre-emption -/

/-- Groups of a team that stand on their cores. -/
def State.onCores (s : State) (team : Nat) : List Nat :=
  (s.groups.filter fun e => e.2.team == team && e.2.loc == .onCore).map fun e => e.1

/-- A team is pre-empted (R270): REQ is set and LEFT loaded from YLIM; with YLIM zero every group is saved by force at once. -/
def State.preemptOne (s : State) (team : Nat) : State :=
  let tm := s.team team
  if (tget team s.teams).isNone || tm.saved || tm.preq.isSome then s
  else
    let ylim := (s.ctx (s.grid tm.grid).ctx).ylim.toNat
    let t := s.modTeam team fun x => { x with preq := some { until_ := s.tick + ylim, deadline := false } }
    let u := if ylim == 0 then
        (t.onCores team).foldl (fun s g => if s.canForce g && (s.grp g).loc == .onCore then s.forceSave g else s) t
      else t
    u.saveCheck team

/-- The CP pre-empts a team (R270), and with a team of a cooperative grid all of the grid's (R26). -/
def State.preempt (s : State) (team : Nat) : State :=
  let gr := s.grid (s.team team).grid
  if gr.cooperative then gr.teams.foldl State.preemptOne s else s.preemptOne team

/-- PREEMPT_REQUEST (R270). -/
def execPreemptRequest (team : Nat) (s : State) : Out := .next (s.preempt team)

/-- FORCED_SAVE (R273). -/
def execForcedSave (gid : Nat) (s : State) : Out :=
  let g := s.grp gid
  match (s.team g.team).preq with
  | some p =>
    if !p.deadline && decide (p.until_ ≤ s.tick) && g.loc == .onCore && s.canForce gid then .next (s.forceSave gid) else .next s
  | none => .next s

/-! ### Partition swaps -/

/-- Contexts of a partition, which its virtual hierarchy names: all their dies are bound to it (R243, R300). -/
def State.inPart (s : State) (c : Ctx) (part : Nat) : Bool :=
  let ds := bitsSet c.dies 4
  !ds.isEmpty && ds.all fun d => tget d s.binds == some part

/-- Teams whose contexts belong to a partition. -/
def State.partTeams (s : State) (part : Nat) : List Nat :=
  (s.teams.filter fun e => s.inPart (s.ctx (s.grid e.2.grid).ctx) part).map fun e => e.1

/-- A swap is deferred while an admitted deadline launch of the partition is unfinished (R252). -/
def State.swapBarred (s : State) (part : Nat) : Bool :=
  s.grids.any fun e => e.2.cls == 0 && e.2.pkt.flags.testBit 5 && s.inPart (s.ctx e.2.ctx) part

/-- Bindings that wait to end do so where no context of the die is resident any more (R301). -/
def State.settleUnbinds (s : State) : State :=
  let busy (d : Nat) : Bool := s.ctxs.any fun e => e.2.dies.testBit d && !e.2.swapped
  { s with binds := s.binds.filter (fun e => !(s.unbinding.contains e.1 && !busy e.1)), unbinding := s.unbinding.filter busy }

/-- PARTITION_SWAP (R275): once every team is saved. The save takes at most 80 µs. (DEDUCED, log entry 30.) -/
def execPartitionSwap (part : Nat) (s : State) : Out :=
  if (s.partTeams part).all (fun t => (s.team t).saved) && !s.swapBarred part then
    let d := s.draw1
    .next { d.2 with
      ctxs := tmap (fun _ c => (if s.inPart c part then { c with swapped := true } else c)) s.ctxs
      saveTime := tset part (Config.freeChoice d.1 % 81) s.saveTime }.settleUnbinds
  else .next s

/-- Restores the teams of a list that fit; those of a cooperative grid all together or not at all (R26, R274). -/
def State.restoreTeams (s : State) (ts : List Nat) : State :=
  let gs := (ts.map fun t => (s.team t).grid).eraseDups
  gs.foldl (fun s g =>
    let mine := ts.filter fun t => (s.team t).grid == g && (s.team t).saved
    if (s.grid g).cooperative then
      if !(s.grid g).teams.all fun t => (s.team t).saved then s else (mine.foldl (fun (so : Option State) t => so.bind fun s => s.restoreTeam t) (some s)).getD s
    else mine.foldl (fun s t => (s.restoreTeam t).getD s) s) s

/-- PARTITION_RESTORE (R274, R275). (DEDUCED, log entry 30.) -/
def execPartitionRestore (part : Nat) (s : State) : Out :=
  let t : State := { s with ctxs := tmap (fun _ c => if s.inPart c part then { c with swapped := false } else c) s.ctxs }
  .next (t.restoreTeams (t.partTeams part))

/-! ### Engines -/

/-- MMA_RETIRE (R227). -/
def execMmaRetire (core : Nat) (s : State) : Out := .next (s.retire core)

/-- BCE_COMPLETE (R234 to R240): the operation goes on, to its next wait or its end. -/
def execBceComplete (team tag : Nat) (s : State) : Out :=
  match s.bce.find? fun b => b.team == team && b.tag == tag with
  | some op => s.bceStep op
  | none => .next s

/-- COLLECTIVE_PACKET (R294, R295). -/
def execCollectivePacket (src ctx group seq dhash : Nat) (ops : List Nat) (offset nbytes : Nat) (ovh : Bool)
    (payload : List Byte) (s : State) : Out :=
  .next (s.collTake { peer := src, plane := 0, pool := false, flits := 0,
                      pkt := { type := 6, tc := 2, src := src, ctx := ctx, group := group, seq := seq, dhash := dhash, ops := ops,
                               offset := offset, nbytes := nbytes, ovh := ovh, len := flitsOf (24 + payload.length), data := payload } })

/-- COLLECTIVE_HOP (R294). -/
def execCollectiveHop (n : Nat) (s : State) : Out := .next (s.hopStep n)

/-- COLL_COMPLETE (R296). -/
def execCollComplete (team tag : Nat) (s : State) : Out :=
  match s.collOf team tag with
  | some op => .next (if s.collReady op then s.collFinish op else s)
  | none => .next s

end Sys2Proof.Machine
end

