-- ==== Sys2Proof/Machine/Cp.lean ====
section
/-!
DEFINITION. The command processor and the hardware queue scheduler (R243 to R260): contexts, user queues, launch packets
and their checks, hardware slots, deadlines and admission, the placing of teams, link share, counted launches, and the
end of a team.
-/
namespace Sys2Proof.Machine

/-! ### Contexts and queues -/

/-- The virtual hierarchy to which a context's partition is bound (R300): none once no die of it is. -/
def State.ctxVh (s : State) (c : Ctx) : Option Nat := (bitsSet c.dies 4).findSome? fun d => tget d s.binds

/-- Dies of a context's partition: those that are bound to its virtual hierarchy (R243, R300). -/
def State.ctxDies (s : State) (c : Ctx) : List Nat :=
  match s.ctxVh c with
  | none => []
  | some v => (bitsSet c.dies 4).filter fun d => tget d s.binds == some v

/-- CONTEXT_CREATE (R243, R300): the dies of a context share one binding; it takes the lowest number that no context of the
package holds. (DEDUCED, log entry 34.) -/
def execContextCreate (root domTab dies ctrLo ctrN qLo qN : Nat) (s : State) : Out :=
  let ds := bitsSet dies 4
  let vh := (ds.head?).bind fun d => tget d s.binds
  let n := tfree 0 s.ctxs
  if n < 4096 && s.recovery.isNone && decide (dies < 16) && !ds.isEmpty && vh.isSome
      && ds.all (fun d => tget d s.binds == vh && !s.unbinding.contains d)
      && decide (ctrLo + ctrN ≤ 4096) && decide (qLo + qN ≤ 16384) then
    .next (s.setCtx n { root := root, domTab := domTab, dies := dies, ctrLo := ctrLo, ctrN := ctrN, qLo := qLo, qN := qN })
  else .next s

/-- QUEUE_REGISTER (R244, R249): for a context that owns the number; a queue in use keeps its state. (DEDUCED, log entry 34.) -/
def execQueueRegister (ctx q addr : Nat) (s : State) : Out :=
  let c := s.ctx ctx
  let busy := match (s.queue q).state with | .mapped | .ready => true | _ => false
  if (tget ctx s.ctxs).isSome && decide (c.qLo ≤ q) && decide (q < c.qLo + c.qN) && addr % 64 == 0 && !busy then
    .next (s.setQueue q { ctx := ctx, addr := addr })
  else .next s

/-- Bytes that the CP reads at a context's address, from their home (R117, R244): none where the page is not COH memory of
the package, or they carry an uncorrectable error (R277). (DESIGN CHOICE, log entry 72.) -/
def State.cpRead (s : State) (ctx va n : Nat) : Option (List Byte) × State :=
  let s := s.walkPrep ctx va
  match s.walk ctx va with
  | .ok e =>
    if leafType e == .coh && structPage e va && !s.walkBad ctx va && !s.poisoned (leafPa e va) n then
      (let r := s.homeRead (leafPa e va) n; (some r.1, r.2))
    else (none, s)
  | .error _ => (none, s)

/-- A queue descriptor as read (R244). -/
structure QDesc where
  ring : Nat
  size : Nat
  cls : Nat
  quant : Nat
  widx : Nat
  ridx : Nat
  nres : Nat
  clean : Bool
  deriving DecidableEq, Repr

/-- A field of `n` bytes. -/
def fieldOf (bs : List Byte) (off n : Nat) : Nat := ofBytes ((bs.drop off).take n)

def parseDesc (bs : List Byte) : QDesc :=
  { ring := fieldOf bs 0 8, size := fieldOf bs 8 4, cls := fieldOf bs 12 1, quant := fieldOf bs 14 2, widx := fieldOf bs 16 8,
    ridx := fieldOf bs 24 8, nres := fieldOf bs 32 2, clean := fieldOf bs 13 1 == 0 && fieldOf bs 34 30 == 0 }

/-- A queue's descriptor, where it can be read. -/
def State.qdesc (s : State) (q : Nat) : Option QDesc × State :=
  let x := s.queue q
  let r := s.cpRead x.ctx x.addr 64
  (r.1.map parseDesc, r.2)

/-- The descriptor's fields and indices are valid (R244, R245). -/
def State.descValid (s : State) (q : Nat) (d : QDesc) : Bool :=
  let n := 256 * (s.ctxDies (s.ctx (s.queue q).ctx)).length
  d.clean && d.ring % 128 == 0 && (upTo 16).any (fun i => d.size == 2 ^ (i + 1)) && decide (d.cls < 3)
    && (if d.cls == 0 then decide (1 ≤ d.nres) && decide (d.nres ≤ n) else d.nres == 0)
    && decide (d.ridx ≤ d.widx) && decide (d.widx - d.ridx ≤ d.size)

/-- A record that no core reports: the manual states its CORE for kind 6 only, so that field is free (R271).
(DESIGN CHOICE, log entry 55.) -/
def State.postCp (s : State) (r : EvRec) : State :=
  let d := s.draw1
  d.2.post 4 { r with core := (Config.freeWord d.1).toNat % 65536 }

/-- The queue enters ERROR, and the CP interrupts the control cores (R245) with a record of kind 5 (R271).
(DESIGN CHOICE, log entry 55.) -/
def State.queueErr (s : State) (q : Nat) (val : Word) : State :=
  let s : State := { s with slots := s.slots.filter fun e => e.2 != q }
  let s : State := { s.modQueue q fun x => { x with state := .error, slot := none } with intrs := s.intrs ++ [.queueError q] }
  s.postCp { kind := 5, val := val, ctx := (s.queue q).ctx }

/-- A bad descriptor or index (R245): the manual states no VAL for its record, which is free (log entry 55). -/
def State.queueFail (s : State) (q : Nat) : State :=
  let d := s.draw1
  d.2.queueErr q (Config.freeWord d.1)

/-- QUEUE_WAKE (R249). -/
def execQueueWake (q : Nat) (s : State) : Out :=
  if (tget q s.queues).isSome && (s.queue q).state == .idle then
    match s.qdesc q with
    | (some d, t) =>
      if d.widx != d.ridx then .next (t.modQueue q fun x => { x with state := .ready, since := s.tick, cls := min d.cls 2 }) else .next t
    | (none, t) => .next (t.queueFail q)
  else .next s

/-- Microseconds as clocks (R13). -/
def usec (n : Nat) : Nat := 1050 * n

/-- The virtual hierarchy of a context's partition. -/
def State.partOf (s : State) (ctx : Nat) : Nat := (s.ctxVh (s.ctx ctx)).getD 0

/-- A queue's effective quantum in microseconds (R276). -/
def State.effQuant (s : State) (q : Nat) : Nat :=
  let x := s.queue q
  max x.quant (4 * tgetD s.saveTime (s.partOf x.ctx) 80)

/-- The queue has given up its slot, and teams of its are still to be saved (R276). -/
def State.saving (s : State) (q : Nat) : Bool :=
  (s.queue q).state != .mapped && s.grids.any fun g => g.2.queue == q && !g.2.pkt.flags.testBit 6 && g.2.teams.any fun t => !(s.team t).saved

/-- The status word of a hardware slot (R276): STATE is 2 while the teams of the queue that gives it up are saved, and 3
while the queue's teams are still to be restored. -/
def State.slotWord (s : State) (slot : Nat) : Nat :=
  match tget slot s.slots with
  | none => 0
  | some q =>
    let e := s.effQuant q
    let back := s.grids.any fun g => g.2.queue == q && g.2.teams.any fun t => (s.team t).saved
    let st := if s.saving q then 2 else if back then 3 else 1
    min e 65535 * 2 ^ 32 + (if (s.queue q).quant < e then 2 ^ 31 else 0) + st * 2 ^ 14 + q % 16384

/-! ### Hardware slots -/

/-- A grid runs without a slot: it was launched by a counter (R259). -/
def Grid.counted (g : Grid) : Bool := g.pkt.flags.testBit 6

/-- Slots whose queue has given them up are free once its teams are saved (R276). -/
def State.settleSlots (s : State) : State :=
  { s with slots := s.slots.filter fun e => (s.queue e.2).state == .mapped || s.saving e.2 }

/-- A mapped queue gives up its slot, and its running grids are pre-empted (R249, R250); the slot is free once they are saved
(R276). -/
def State.unmap (s : State) (q : Nat) : State :=
  let s := s.modQueue q fun x => { x with state := .ready, since := s.tick, slot := none }
  let ts := (s.grids.filter fun e => e.2.queue == q && !e.2.counted).map fun e => e.2.teams
  (ts.flatten.foldl (fun s t => s.preempt t) s).settleSlots

/-- Cores that a deadline queue may reserve (R251): of its partition, reserved by no other queue, with no team and no group on
them, a saved one among these, and with no segment pinned. (DEDUCED, log entry 35.) -/
def State.freeCores (s : State) (q : Nat) : List Nat :=
  let ds := s.ctxDies (s.ctx (s.queue q).ctx)
  let taken := ((s.queues.filter fun e => e.1 != q).map fun e => e.2.reserved).flatten
  let used := (s.teams.map fun e => if e.2.paired then [e.2.home, e.2.home + 1] else [e.2.home]).flatten
    ++ (s.groups.map fun e => e.2.core) ++ (s.cores.filter fun e => e.2.seg.isSome).map fun e => e.1
  ((ds.map fun d => (upTo 256).map fun i => 256 * d + i).flatten).filter fun c => !taken.contains c && !used.contains c

/-- A deadline queue reserves its cores, once so many are free (R251). (DEDUCED, log entry 35.) -/
def State.reserve (s : State) (q n : Nat) : Option State :=
  let free := s.freeCores q
  if (s.queue q).reserved.length == n then some s
  else if free.length < n then none
  else
    let o := freeOrder free.length s free
    some (o.2.modQueue q fun x => { x with reserved := o.1.take n })

/-- A READY queue takes a slot (R249, R250): its descriptor is checked, and a deadline queue reserves its cores, at once or
before its first packet is taken. (DEDUCED, log entry 35.) -/
def State.mapQueue (s : State) (q slot : Nat) : State :=
  match s.qdesc q with
  | (none, t) => t.queueFail q
  | (some d, t) =>
    if !t.descValid q d then t.queueFail q
    else
      let quant := if d.quant == 0 then 1000 else d.quant
      let t : State := { t.modQueue q fun x => { x with state := .mapped, slot := some slot, since := t.tick, cls := d.cls, quant := quant
                                                        reserved := if d.cls == 0 then x.reserved else [] }
        with slots := tset slot q (t.slots.filter fun e => e.2 != q) }
      if d.cls == 0 then (t.reserve q d.nres).getD t else t

/-- The READY queue of the highest class, and within it the one that has been READY longest (R250). -/
def State.bestReady (s : State) : Option (Nat × Queue) :=
  (s.queues.filter fun e => e.2.state == .ready).foldl (fun b e => match b with
    | none => some e
    | some x =>
      if e.2.cls < x.2.cls || (e.2.cls == x.2.cls && decide (e.2.since < x.2.since)) then some e else some x) none

/-- The queue that a deadline queue drives out: the background queue mapped most recently, or else the normal one. -/
def State.victim (s : State) : Option Nat :=
  let pick (cls : Nat) : Option (Nat × Queue) :=
    (s.queues.filter fun e => e.2.state == .mapped && e.2.cls == cls).foldl (fun b e => match b with
      | none => some e
      | some x => if x.2.since < e.2.since then some e else some x) none
  ((pick 2).or (pick 1)).map fun e => e.1

/-- The lowest of the 64 slots that is free. -/
def State.freeHwSlot (s : State) : Option Nat := (upTo 64).find? fun i => (tget i s.slots).isNone

/-- More READY queues of a class or a higher one wait than slots are being given up for them. -/
def State.wants (s : State) (cls : Nat) : Bool :=
  let going := s.slots.filter fun e => (s.queue e.2).state != .mapped
  let ready := s.queues.filter fun e => e.2.state == .ready && decide (e.2.cls ≤ cls) && !(going.any fun x => x.2 == e.1)
  decide (going.length < ready.length)

/-- SLOT_GRANT (R250): a free slot goes to the best READY queue; with none free, a deadline queue drives another one out. -/
def execSlotGrant (s : State) : Out :=
  match s.bestReady with
  | none => .next s
  | some (q, _) =>
    match s.freeHwSlot with
    | some i => .next (s.mapQueue q i)
    | none =>
      if !s.wants 0 then .next s
      else
        match s.victim with
        | none => .next s
        | some v =>
          let t := s.unmap v
          .next (match t.freeHwSlot with | some i => t.mapQueue q i | none => t)

/-- A queue's time on its slot is over, and another one of its class or a higher one waits (R250, R276). -/
def State.quantumDue (s : State) (q : Nat) : Bool :=
  let x := s.queue q
  x.state == .mapped && x.cls != 0 && decide (x.since + usec (s.effQuant q) ≤ s.tick) && s.freeHwSlot.isNone && s.wants x.cls

/-- QUANTUM_EXPIRY (R250, R276): a queue past its effective quantum gives way to a READY queue of its class or higher. -/
def execQuantumExpiry (q : Nat) (s : State) : Out :=
  .next (if s.quantumDue q then s.unmap q else s)

/-- QUEUE_UNMAP (R249). -/
def execQueueUnmap (q : Nat) (s : State) : Out :=
  if (s.queue q).state == .mapped && !(s.grids.any fun e => e.2.queue == q && !e.2.armed) then
    match s.qdesc q with
    | (some d, t) =>
      if d.widx == d.ridx then
        .next ({ t with slots := t.slots.filter fun e => e.2 != q }.modQueue q fun x => { x with state := .idle, slot := none })
      else .next t
    | (none, t) => .next (t.queueFail q)
  else .next s

/-! ### The launch packet -/

/-- A launch packet from its 128 bytes (R247). -/
def parsePacket (bs : List Byte) : Packet :=
  { entry := fieldOf bs 0 8, gridx := fieldOf bs 8 4, gridy := fieldOf bs 12 2, gridz := fieldOf bs 14 2, tinit := fieldOf bs 16 2,
    tcap := fieldOf bs 18 2, gw := fieldOf bs 20 1, regs := fieldOf bs 21 1, tags := fieldOf bs 22 1, lstore := fieldOf bs 24 4,
    priv := fieldOf bs 28 4, flags := fieldOf bs 32 2, ensz := fieldOf bs 34 1, bint := fieldOf bs 36 2, argp := fieldOf bs 40 8,
    segm := fieldOf bs 48 8, signal := fieldOf bs 56 8, deadline := fieldOf bs 64 8, wcet := fieldOf bs 72 4, ctr := fieldOf bs 80 2,
    cinit := fieldOf bs 84 4,
    clean := fieldOf bs 23 1 == 0 && fieldOf bs 35 1 == 0 && fieldOf bs 38 2 == 0 && fieldOf bs 76 4 == 0 && fieldOf bs 82 2 == 0
      && fieldOf bs 88 40 == 0 }

/-- Capacity C of a team (R22). -/
def Packet.cap (p : Packet) : Nat := min p.tcap 1024
/-- Teams of the grid. -/
def Packet.total (p : Packet) : Nat := p.gridx * p.gridy * p.gridz
/-- Groups that a team starts with (R254). -/
def Packet.groups (p : Packet) : Nat := (p.tinit + p.gw - 1) / p.gw

/-- A field outside its limits (R247, reason 1). -/
def State.packetBad (s : State) (p : Packet) (ctx cls : Nat) : Bool :=
  let f (i : Nat) : Bool := p.flags.testBit i
  let lscap := (s.ctxDies (s.ctx ctx)).foldl (fun m d => max m (s.lscap.getD d 0)) 0
  !p.clean || p.entry % 4 != 0 || decide (2 ^ 56 ≤ p.entry) || p.gridx == 0 || p.gridy == 0 || p.gridz == 0
    || p.tinit == 0 || decide (p.cap < p.tinit) || !(p.gw == 16 || p.gw == 32 || p.gw == 64)
    || p.regs == 0 || decide (16 < p.regs) || decide (64 < p.tags) || decide (lscap < p.lstore) || p.priv % 8 != 0
    || decide (128 ≤ p.flags) || (f 1 == (p.ensz == 0)) || (!f 3 && p.segm != 0)
    || (!f 5 && (p.deadline != 0 || p.wcet != 0)) || decide (4096 ≤ p.ctr) || (!f 6 && (p.ctr != 0 || p.cinit != 0))
    || (f 6 && (p.cinit == 0 || decide (2 ^ 31 ≤ p.cinit))) || (f 0 && f 3) || (f 5 && cls != 0)

/-- Code ranges of a segment map do not overlap (R90). -/
def rangesApart : List (Nat × Nat) → Bool
  | [] => true
  | (a, n) :: r => r.all (fun e => decide (a + n ≤ e.1) || decide (e.1 + e.2 ≤ a)) && rangesApart r

/-- No number twice. -/
def distinct : List Nat → Bool
  | [] => true
  | x :: r => !r.contains x && distinct r

/-- One segment descriptor passes the checks of R90 that look at it alone. (DEDUCED, log entry 56.) -/
def State.segOk (s : State) (m : SMap) (R : Nat) (i : Nat) : Bool :=
  let num (off n : Nat) : Nat := s.devNat m.ctx (m.desc i + off) n
  let len := s.segLen m i
  let nent := s.segNent m i
  let ents := (upTo nent).map fun e => s.segEnt m i e
  (s.devRead m.ctx (m.desc i) 64).isSome && s.segCode m i % 128 == 0 && decide (s.segCode m i < 2 ^ 56) && s.segEntt m i % 8 == 0
    && len % 4 == 0 && decide (4 ≤ len) && decide (len ≤ 65536)
    && decide (1 ≤ nent) && decide (nent ≤ 64) && num 22 10 == 0 && num 48 16 == 0
    && (upTo 8).all (fun j => bitsOf (num (32 + 2 * j) 2) 14 10 == 0)
    && (s.devRead m.ctx (s.segEntt m i) (8 * nent)).isSome
    && ents.all (fun e => bitsOf e 63 33 == 0 && bitsOf e 31 29 == 0 && !e.testBit 23 && bitsOf e 15 14 == 0
        && decide (bitsOf e 22 16 ≤ 96) && decide (bitsOf e 28 24 ≤ 16) && decide (bitsOf e 13 0 * 4 < len)
        && decide (bitsOf e 22 16 ≤ R))
    && distinct (ents.map fun e => bitsOf e 13 0) && !(s.replicas m i).isEmpty

/-- The segment map at an address passes R90; the alignments that R89 states are checked with the ranges.
(DEDUCED, log entry 56.) -/
def State.mapOk (s : State) (ctx base R entry : Nat) : Bool :=
  let num (off n : Nat) : Nat := s.devNat ctx (base + off) n
  let m : SMap := { ctx := ctx, base := base, nseg := num 0 2, npl := num 2 2, plst := num 8 8, ovfb := num 16 8, ovfsz := num 24 4 }
  if base % 64 != 0 || decide (2 ^ 56 ≤ base) || (s.devRead ctx base 64).isNone then false
  else if m.nseg == 0 || decide (1024 < m.nseg) || m.npl == 0 || decide (1024 < m.npl) then false
  else
    let place := s.placement m
    let slots := ((upTo m.nseg).map fun i => (s.replicas m i).map fun r => r.2).flatten
    num 4 4 == 0 && num 28 4 == 0 && num 32 32 == 0 && m.ovfsz % 65536 == 0 && m.ovfsz != 0
      && m.ovfb % 65536 == 0 && m.plst % 2 == 0
      && (s.devRead ctx m.plst (2 * m.npl)).isSome && (upTo m.nseg).all (fun i => s.segOk m R i)
      && rangesApart ((upTo m.nseg).map fun i => (s.segCode m i, s.segLen m i))
      && distinct place && distinct slots && slots.all (fun c => place.contains c) && (s.segOf m entry).isSome

/-- Admission of a deadline launch (R251), in clocks: for every deadline Dk among the admitted launches of the queue and
the new one, the work due by Dk fits. -/
def State.admitted (s : State) (q : Nat) (p : Packet) (nres : Nat) : Bool :=
  let old := (s.grids.filter fun e => e.2.queue == q && e.2.pkt.flags.testBit 5).map fun e =>
    (e.2.pkt.deadline, ((usec e.2.pkt.wcet : Nat) : Int) - e.2.used)
  let all := (p.deadline, ((usec p.wcet : Nat) : Int)) :: old
  let a := if (s.ctx (s.queue q).ctx).swapped then usec 80 else 0
  all.all fun k =>
    decide (((all.filter fun j => decide (j.1 ≤ k.1)).foldl (fun n j => n + j.2) 0) ≤ (nres : Int) * ((k.1 : Int) - s.tick - a))

/-! ### Placing teams -/

/-- A fraction is greater than another. -/
def fracGt (a b : Nat × Nat) : Bool := decide (b.1 * a.2 < a.1 * b.2)

/-- Bytes of the instruction store that a segment of the grid needs on a core of its placement, and those that no other
grid's segment takes (R91, R254). -/
def State.storeNeed (s : State) (gid core : Nat) : Nat × Nat × Nat :=
  let gr := s.grid gid
  let m := s.smap gid
  let need := if !gr.bramble then 0 else match s.segOf m gr.pkt.entry with | some i => s.segLen m i | none => 0
  let taken := match (s.core core).seg with | some x => if x.grid == gid then 0 else x.len | none => 0
  (need, Config.instrStore - taken, Config.instrStore)

/-- Needs of a team on one core (R254): need, free amount and capacity of slots, lane-registers, the pair's vault and the
instruction store. The reservation for the arrival spill grows at once, so that no team waits for it (R433).
(DESIGN CHOICE, log entry 73.) -/
def State.coreNeeds (s : State) (gid core n : Nat) : List (Nat × Nat × Nat) :=
  let p := (s.grid gid).pkt
  let used := (s.groupsOn core).length
  let cap := s.lscap.getD (dieOf core) 0
  [(n, Config.slots - used, Config.slots), (n * p.gw * (p.regs * 16), s.freeRegs core, Config.laneRegs),
   (p.lstore, cap - s.vaultUsed (pairOf core), cap), s.storeNeed gid core]

/-- A core's score (R254), where every need fits: the free fraction of its binding resource, the one with the largest
ratio of need to free amount; which of equal ones binds is a free choice.
(DESIGN CHOICE, log entry 36.) -/
def State.coreScore (s : State) (gid core n tie : Nat) : Option (Nat × Nat) :=
  let l := (s.coreNeeds gid core n).filter fun x => x.1 != 0
  if l.any fun x => decide (x.2.1 < x.1) then none
  else
    let top := l.filter fun x => l.all fun y => !fracGt (y.1, y.2.1) (x.1, x.2.1)
    match top with
    | [] => some (1, 1)
    | [x] => some x.2
    | xs => (xs[tie % xs.length]?).map fun x => x.2

/-- The score of a core, or of the pair that it leads (R254). -/
def State.siteScore (s : State) (gid core tie : Nat) : Option (Nat × Nat) :=
  let p := (s.grid gid).pkt
  if p.flags.testBit 0 then
    match s.coreScore gid core ((p.groups + 1) / 2) tie, s.coreScore gid (core + 1) (p.groups / 2) tie with
    | some a, some b => some (if fracGt a b then b else a)
    | _, _ => none
  else s.coreScore gid core p.groups tie

/-- The best site of a list in rising order of core: ties stay with the lowest (R254). -/
def State.bestSite (s : State) (gid tie : Nat) (cores : List Nat) : Option (Nat × (Nat × Nat)) :=
  cores.foldl (fun b c => match s.siteScore gid c tie with
    | none => b
    | some x => (match b with
      | none => some (c, x)
      | some y => if fracGt x y.2 then some (c, x) else some y)) none

/-- The next team of a grid is placed on a core (R22, R23, R25, R30, R123): its groups start at ENTRY, behind the writes that
its launch waited for (R145). -/
def State.placeOn (s : State) (gid core : Nat) : State :=
  let gr := s.grid gid
  let p := gr.pkt
  let t := s.nextTeam
  let paired := p.flags.testBit 0
  let tm : Team :=
    { grid := gid, tix := gr.next, home := core, cap := p.cap, live := upTo p.tinit, ts := s.nextTs, lsize := p.lstore,
      ntags := p.tags, paired := paired,
      ensemble := if p.flags.testBit 1 then some (gr.next / p.ensz, gr.next % p.ensz + 1) else none }
  let s := (({ s with nextTeam := t + 1, nextTs := s.nextTs + 1 }).setTeam t tm).scoAcquire (clusterOf core)
  let s := s.modGrid gid fun g => { g with next := g.next + 1, teams := g.teams ++ [t] }
  (upTo p.groups).foldl (fun s n =>
    let c := if paired then core + n % 2 else core
    let tids := (upTo p.gw).filter fun l => decide (n * p.gw + l < p.tinit)
    s.newGroup t c n (tids.map fun l => ({ tid := n * p.gw + l }, BitVec.ofNat 64 p.entry))) s

/-- The next team is placed on the best of some cores, with its score. -/
def State.placeNext (s : State) (gid : Nat) (cores : List Nat) : Option ((Nat × Nat) × Nat × State) :=
  let d := s.draw1
  (d.2.bestSite gid (Config.freeChoice d.1) cores).map fun b => (b.2, b.1, d.2.placeOn gid b.1)

/-- Teams one after the other. -/
def State.placeSeq : Nat → State → Nat → List Nat → Option State
  | 0, s, _, _ => some s
  | n + 1, s, gid, cores => (s.placeNext gid cores).bind fun x => State.placeSeq n x.2.2 gid cores

/-- The next ensemble is placed whole on one die, in rank order (R25, R255): of the dies that hold it, the one where its
first team scores best. An ensemble takes the next ENSZ teams, the last one what is left. (DESIGN CHOICE, log entries 36 and
74.) -/
def State.placeEnsemble (s : State) (gid : Nat) (cores : List Nat) : Option State :=
  let gr := s.grid gid
  let n := min gr.pkt.ensz (gr.pkt.total - gr.next)
  let tries := (upTo 4).filterMap fun d =>
    let cs := cores.filter fun c => dieOf c == d
    (s.placeNext gid cs).bind fun x => (s.placeSeq n gid cs).map fun t => (x.1, t)
  (tries.foldl (fun (b : Option ((Nat × Nat) × State)) x => match b with
    | none => some x
    | some y => if fracGt x.1 y.1 then some x else some y) none).map fun x => x.2

/-- One unit of placement: a team, or an ensemble. -/
def State.placeUnit (s : State) (gid : Nat) (cores : List Nat) : Option State :=
  if (s.grid gid).pkt.flags.testBit 1 then s.placeEnsemble gid cores else (s.placeNext gid cores).map fun x => x.2.2

/-- A cooperative grid is placed whole (R255). -/
def State.placeWhole : Nat → State → Nat → List Nat → Option State
  | 0, _, _, _ => none
  | n + 1, s, gid, cores =>
    if (s.grid gid).pkt.total ≤ (s.grid gid).next then some s
    else (s.placeUnit gid cores).bind fun t => State.placeWhole n t gid cores

/-- SEGMENT_LOAD (R91): every core with a valid slot loads its segment; `none` while another grid's is pinned there, or the
core is none on which the grid may run (R251). A core pins the segment of one grid. (DESIGN CHOICE, log entry 71.) -/
def State.loadSegs (s : State) (gid : Nat) : Option State :=
  let m := s.smap gid
  let l := ((upTo m.nseg).map fun i => (s.replicas m i).map fun r => (i, r.2)).flatten
  if l.any fun x => (s.core x.2).seg.isSome || !s.coreFor (s.grid gid) x.2 then none
  else some (l.foldl (fun s x => s.modCore x.2 fun c =>
    { c with seg := some (s.segLoad gid x.1) }) s)

/-- Cores on which the teams of a grid may go (R251, R254, R255), rising; of a paired grid the leaders. -/
def State.sites (s : State) (gid : Nat) : List Nat :=
  let gr := s.grid gid
  let all := ((s.ctxDies (s.ctx gr.ctx)).map fun d => (upTo 256).map fun i => 256 * d + i).flatten
  let cs := all.filter fun c => s.coreFor gr c && (!gr.pairedK || (c % 2 == 0 && s.coreFor gr (c + 1)))
  if gr.bramble then
    let m := s.smap gid
    let home : List Nat := match s.segOf m gr.pkt.entry with | some i => (s.replicas m i).map fun (r : Nat × Nat) => r.2 | none => []
    cs.filter fun c => home.contains c
  else cs

/-- The next placement of a grid: Bramble segments first, then one unit, or the whole of a cooperative grid with a
barrier counter (R255, R256). -/
def State.place (s : State) (gid : Nat) : Option State :=
  let gr := s.grid gid
  (if gr.bramble && gr.next == 0 then s.loadSegs gid else some s).bind fun s =>
    let cs := s.sites gid
    if gr.cooperative then
      let b := tfree 0 s.barriers
      if 1024 ≤ b then none
      else
        (s.placeWhole (gr.pkt.total + 1) gid cs).map fun t =>
          { t with barriers := tset b gid t.barriers }
    else s.placeUnit gid cs

/-- A team, or a cooperative grid, fits the partition when it is empty, whatever deadline queues reserve (R247, reason 4). -/
def State.fitsEmpty (s : State) (gr : Grid) : Bool :=
  let g := s.nextGrid
  let e : State := ({ s with groups := [], teams := [], cores := [], barriers := []
                             queues := tmap (fun _ x => { x with reserved := [] }) s.queues } : State).setGrid g { gr with cls := 1 }
  let one : Option State := (if gr.bramble then e.loadSegs g else some e).bind fun t => (t.placeNext g (t.sites g)).map fun x => x.2.2
  if gr.cooperative then (e.place g).isSome else one.isSome

/-- The lowest reason for which a packet is rejected (R247). -/
def State.rejects (s : State) (q : Nat) (d : QDesc) (p : Packet) (gr : Grid) : Option Nat :=
  let c := s.ctx gr.ctx
  let k := tgetD s.counters p.ctr {}
  if s.packetBad p gr.ctx gr.cls then some 1
  else if gr.bramble && !s.mapOk gr.ctx p.segm (p.regs * 16) p.entry then some 2
  else if p.flags.testBit 5 && !s.admitted q p d.nres then some 3
  else if !s.fitsEmpty gr then some 4
  else if p.flags.testBit 6 && (!(decide (c.ctrLo ≤ p.ctr) && decide (p.ctr < c.ctrLo + c.ctrN)) || k.armed.isSome
      || decide ((2 : Int) ^ 31 - 1 < k.val + p.cinit)) then some 5
  else none

/-- The physical address of a completion record, where there can be one (R113, R247). -/
def State.signalPa (s : State) (ctx va : Nat) : Option Nat :=
  if va % 16 != 0 || decide (2 ^ 56 ≤ va) then none
  else
    match s.walk ctx va with
    | .ok e =>
      let r := prange (leafPa e va)
      if leafW e && leafType e == .coh && !leafVer e && r.admits .coh && r != .package s.position && !s.walkBad ctx va then
        some (leafPa e va)
      else none
    | .error _ => none

/-- A counter that has reached zero launches its packet (R259). -/
def State.fire (s : State) (c : Nat) : State :=
  let k := tgetD s.counters c {}
  match k.armed with
  | some g =>
    if k.val ≤ 0 then
      { s with counters := tset c { k with armed := none } s.counters }.modGrid g fun x => { x with armed := false, admitted := true }
    else s
  | none => s

/-- Bytes of a grid's private arena (R111): a multiple of 64 KiB. -/
def Packet.arena (p : Packet) : Nat := (p.total * p.cap * p.priv + 65535) / 65536 * 65536

/-- A place for an arena in the virtual space (R111): aligned to 64 KiB, and behind every arena of the list that it meets. -/
def fitArena (size : Nat) (l : List (Nat × Nat)) : Nat → Nat → Nat
  | 0, x => x
  | n + 1, x =>
    if 2 ^ 56 < x + size then fitArena size l n 65536
    else
      match l.find? fun a => decide (a.1 < x + size) && decide (x < a.1 + a.2) with
      | some a => fitArena size l n (a.1 + a.2)
      | none => x

/-- The base of a new grid's private arena: clear of those of the context's other grids. (DESIGN CHOICE, log entry 7.) -/
def State.newArena (s : State) (ctx g : Nat) (p : Packet) : Word :=
  let l := (s.grids.filter fun e => e.2.ctx == ctx).map fun e => (e.2.arena.toNat, e.2.pkt.arena)
  BitVec.ofNat 64 (fitArena p.arena l (2 * l.length + 3) ((Config.arenaBase g).toNat % 2 ^ 56 / 65536 * 65536))

/-- A packet read whole is checked and launched, or attached to its counter (R245, R247, R259). -/
def State.takePacket (s : State) (q : Nat) (d : QDesc) (p : Packet) : State :=
  let x := s.queue q
  let s := s.walkPrep x.ctx p.signal
  match s.signalPa x.ctx p.signal with
  | none =>
    s.queueErr q (BitVec.ofNat 64 p.signal)
  | some pa =>
    let g := s.nextGrid
    let armed := p.flags.testBit 6
    let gr : Grid := { ctx := x.ctx, queue := q, cls := x.cls, pkt := p, sigPa := pa, arena := s.newArena x.ctx g p, armed := armed,
                       admitted := !armed, window := s.tick }
    match s.rejects q d p gr with
    | some r => s.storePa x.ctx pa (s.completion 2 r 0)
    | none =>
      let t := { s with nextGrid := g + 1 }.setGrid g gr
      if armed then
        let k := tgetD t.counters p.ctr {}
        { t with counters := tset p.ctr { val := k.val + p.cinit, armed := some g } t.counters }.fire p.ctr
      else t

/-- PACKET_TAKE (R245 to R247). -/
def execPacketTake (q : Nat) (s : State) : Out :=
  if (s.queue q).state != .mapped then .next s
  else
    match s.qdesc q with
    | (none, t) => .next (t.queueFail q)
    | (some d, t) =>
      if !t.descValid q d then .next (t.queueFail q)
      else if d.widx == d.ridx then .next t
      else
        match (if d.cls == 0 then t.reserve q d.nres else some t) with
        | none => .next t
        | some t =>
        let x := t.queue q
        match t.cpRead x.ctx (d.ring + 128 * (d.ridx % d.size)) 128 with
        | (none, u) => .next (u.queueFail q)
        | (some bs, u) => .next ((u.devWrite x.ctx (x.addr + 24) (toBytes 8 (d.ridx + 1))).takePacket q d (parsePacket bs))

/-- A grid may place teams now: its queue is mapped, or it needs no slot (R249, R259), its partition is resident, its
packet's turn has come (R246), and its link share allows it (R257). A packet still attached to its counter holds up none
behind it (R259, R429). (DEDUCED, log entry 68.) -/
def State.mayPlace (s : State) (gid : Nat) : Bool :=
  let gr := s.grid gid
  let c := s.ctx gr.ctx
  let st := (s.queue gr.queue).state
  (tget gid s.grids).isSome && !gr.armed && gr.fate.isNone && !c.swapped && (gr.counted || st == .mapped || st == .error)
    && (decide (0 < gr.next) || s.grids.all fun e => !(e.2.queue == gr.queue && decide (e.1 < gid) && !e.2.armed) || decide (0 < e.2.next))
    && !(gr.pkt.flags.testBit 4 && c.share != 0 && decide (c.share.toNat < (c.roll s.tick).sentLast))

/-- TEAM_PLACEMENT (R254, R255): teams that were saved come back first. -/
def execTeamPlacement (grid : Nat) (s : State) : Out :=
  let gr := s.grid grid
  if !s.mayPlace grid then .next s
  else
    let saved := gr.teams.filter fun t => (s.team t).saved
    if !saved.isEmpty then .next (s.restoreTeams saved)
    else if gr.pkt.total ≤ gr.next then .next s
    else .next ((s.place grid).getD s)

/-! ### Deadlines -/

/-- DEADLINE_PREQ (R253). -/
def execDeadlinePreq (grid : Nat) (s : State) : Out :=
  let gr := s.grid grid
  let ylim := (s.ctx gr.ctx).ylim.toNat
  if gr.pkt.flags.testBit 5 && decide (gr.pkt.deadline ≤ s.tick + usec ((ylim + 1049) / 1050 + 4)) then
    .next (gr.teams.foldl (fun s t => s.modTeam t fun x =>
      match x.preq with
      | some p => { x with preq := some { p with deadline := true } }
      | none => { x with preq := some { until_ := s.tick + ylim, deadline := true } }) s)
  else .next s

/-- A core's issue has stopped: by heat (R306), or by an uncorrectable error whose record finds no room on its die (R277). -/
def State.halted (s : State) (core : Nat) : Bool := s.stop || s.stopped.any fun e => e.1 == dieOf core && e.2.kind == 2

/-- A team is stopped (R253): it issues nothing more, but a store that is held for its page is still performed, unless its
core's issue has stopped. -/
def State.stopTeam (s : State) (t : Nat) : State :=
  (s.modTeam t fun x => { x with stopped := true }).modTeamGroups t fun g =>
    if s.halted g.core then { g with last := false }
    else match g.wait with | .cow _ _ => { g with last := true } | _ => g

/-- DEADLINE_FORCED (R253): two microseconds before the deadline every remaining team is stopped, and once its accesses in
flight are complete the launch ends. (DEDUCED, log entry 21.) -/
def execDeadlineForced (grid : Nat) (s : State) : Out :=
  let gr := s.grid grid
  if (tget grid s.grids).isSome && gr.pkt.flags.testBit 5 && decide (gr.pkt.deadline ≤ s.tick + usec 2) then
    let s := if gr.fate == some (4, 0) then s
      else
        let d := s.draw1
        let s := d.2.postCp { kind := 4, cause := 0x1D, val := Config.freeWord d.1, ctx := gr.ctx }
        let s : State := { s with counters := tmap (fun _ k => (if k.armed == some grid then { k with armed := none } else k)) s.counters }
        s.modGrid grid fun g => { g with fate := some (4, 0), armed := false }
    let s := gr.teams.foldl (fun s t => s.stopTeam t) s
    if gr.teams.any fun t => s.accessOpen t then .next s
    else .next ((gr.teams.foldl (fun s t => s.removeTeam t) s).gridCheck grid)
  else .next s

/-! ### The end of a team, counters, link share -/

/-- TEAM_END (R27, R345): its records are gone, its accesses and its engine operations are done. -/
def execTeamEnd (team : Nat) (s : State) : Out :=
  let tm := s.team team
  if tm.ending && !s.recsOf team && s.bce.all (fun b => b.team != team)
      && s.collGroups.all (fun g => (tvals g.2.ops).all fun o => o.team != team)
      && (s.core tm.tileCore).mmaQ.all (fun m => m.team != team) then .next (s.removeTeam team)
  else .next s

/-- COUNTER_DECREMENT (R259): one event, in order of arrival; the value saturates. -/
def execCounterDecrement (s : State) : Out :=
  match s.decs with
  | [] => .next s
  | c :: rest =>
    let k := tgetD s.counters c {}
    let v := if k.val ≤ -(2 : Int) ^ 31 then k.val else k.val - 1
    .next ({ s with decs := rest, counters := tset c { k with val := v } s.counters }.fire c)

/-- LINK_SHARE_WINDOW (R257): a window of 1 µs has ended. -/
def execLinkShareWindow (ctx : Nat) (s : State) : Out := .next (s.modCtx ctx fun c => c.roll s.tick)

end Sys2Proof.Machine
end

