-- ==== Sys2Proof/Machine/Csr.lean ====
section
/-!
DEFINITION. Control registers: every register of R62 to R64, read by CSRR (R332) and written by CSRW (R333).
-/
namespace Sys2Proof.Machine

/-- TAGS: bit i is set when tag i is ready (R63). -/
def Team.tagBits (t : Team) : Nat := maskOf ((upTo t.ntags).filter fun i => (t.tag i).ready)

/-- PREQ: LEFT and REQ (R63, R270). YLIM has no stated width and is kept at 64 bits; LEFT, of 32, shows what remains modulo
2^32. (DESIGN CHOICE, log entry 63.) -/
def State.preqWord (s : State) (t : Team) : Nat :=
  match t.preq with
  | none => 0
  | some p => (p.until_ - s.tick) % 2 ^ 32 * 2 ^ 32 + 1

/-- The value of a control register in a lane (R63, R64, R261). -/
def State.csr (s : State) (n l : Nat) : Word :=
  let g := s.me
  let t := s.myTeam
  let c := s.myCtx
  match n with
  | 0x00 => t.fpcr
  | 0x01 => (g.lane l).th.fpsr.setWidth 64
  | 0x02 => t.contv
  | 0x03 => t.contt
  | 0x04 => t.wndv
  | 0x05 => BitVec.ofNat 64 g.repi
  | 0x06 => BitVec.ofNat 64 t.tagBits
  | 0x07 => BitVec.ofNat 64 (s.preqWord t)
  | 0x08 => BitVec.ofNat 64 s.tick
  | 0x09 => BitVec.ofNat 64 t.ts
  | 0x0A => BitVec.ofNat 64 g.taskId
  | 0x0B => BitVec.ofNat 64 g.wbase
  | 0x0C => BitVec.ofNat 64 g.core
  | 0x0D => BitVec.ofNat 64 g.team
  | 0x0E => BitVec.ofNat 64 (s.lscap.getD (dieOf g.core) 0)
  | 0x40 => c.tvec
  | 0x41 => g.cause
  | 0x42 => g.epc
  | 0x43 => g.tval
  | 0x44 => g.tlanes
  | 0x45 => g.ttask.setWidth 64
  | 0x46 => c.ylim
  | 0x47 => c.lkmat0
  | 0x48 => c.lkmat1
  | 0x49 => if s.myGrid.bramble then BitVec.ofNat 64 s.myGrid.pkt.segm else 0
  | 0x4A => c.share.setWidth 64
  | 0x4B => BitVec.ofNat 64 s.myCtxNum
  | 0x4C => c.wdead.setWidth 64
  | _ => 0

/-- CSRR (R332): TAGS only on the home core of a Bramble team (R102). -/
def execCsrr (d : Spec) (n : BitVec 7) (s : State) : Out :=
  issue (.csrr d n)
    (fun s =>
      if n.toNat == 6 && s.myGrid.bramble && s.me.core != s.myTeam.home then .trap .ill (wordVal (.csrr d n)) s
      else .done (s.putDirect d (s.me.E.map fun l => (l, s.csr n.toNat l)))) s

/-- Bits of a register that a write changes; the others are reserved or read only (R6, R63, R181). -/
def csrMask (n : Nat) : Word :=
  match n with
  | 0x00 => 0x1FF
  | 0x03 => 0x7F
  | 0x41 => 0xFF
  | 0x47 => 0x7F7F7F00
  | 0x48 => 0x7F7F7F
  | _ => BitVec.allOnes 64

/-- A write of a register that no lane holds of its own (R333). -/
def State.setCsr (s : State) (n : Nat) (x : Word) : State :=
  let x := x &&& csrMask n
  let team := s.me.team
  let ctx := s.myCtxNum
  match n with
  | 0x00 => s.modTeam team fun t => { t with fpcr := x }
  | 0x02 => s.modTeam team fun t => { t with contv := x }
  | 0x03 => s.modTeam team fun t => { t with contt := x }
  | 0x04 => s.modTeam team fun t => { t with wndv := x }
  | 0x40 => s.modCtx ctx fun c => { c with tvec := x }
  | 0x41 => s.modMe fun g => { g with cause := x }
  | 0x42 => s.modMe fun g => { g with epc := x }
  | 0x43 => s.modMe fun g => { g with tval := x }
  | 0x44 => s.modMe fun g => { g with tlanes := x }
  | 0x45 => s.modMe fun g => { g with ttask := x.setWidth 32 }
  | 0x46 => s.modCtx ctx fun c => { c with ylim := x }
  | 0x4A => s.modCtx ctx fun c => { c with share := x.setWidth 32 }
  | 0x4C => s.modCtx ctx fun c => { c with wdead := x.setWidth 32 }
  | _ => s

/-- What stops a CSRW, with its TVAL (R64, R333). -/
def State.csrwCheck (s : State) (word : Word) (n : Nat) (x : Word) : Option (Cause × Word) :=
  match n with
  | 0x02 | 0x04 => if x.toNat % 4 != 0 || window x != 0 then some (.align, x) else none
  | 0x03 => if x.toNat.testBit 6 && decide (s.myTeam.ntags ≤ bitsOf x.toNat 5 0) then some (.ill, word) else none
  | _ => none

/-- A CSRW to LKMAT0 or LKMAT1 waits until every home slice holds the new value (R183). -/
def State.csrwLkmat (s : State) (n : Nat) (x : Word) : Res :=
  let c := s.myCtx
  if s.me.wait == .lkmat then (if c.lkNew.isSome then .wait s else .done s)
  else if c.lkNew.isSome then .wait (s.modMe fun g => { g with wait := .regs })
  else
    let y := x &&& csrMask n
    let new := if n == 0x47 then (y ||| 0x7F, c.lkmat1) else (c.lkmat0, y)
    .wait ((s.modCtx s.myCtxNum fun c => { c with lkNew := some new }).modMe fun g => { g with wait := .lkmat })

/-- CSRW's effect (R333). -/
def State.csrw (s : State) (word : Word) (a : Spec) (n : Nat) : Res :=
  if n == 1 then
    .done (s.modMe fun g => s.me.E.foldl (fun g l => g.modTh l fun t => { t with fpsr := (s.rd a l).setWidth 5 }) g)
  else
    let x := s.rd a s.me.lowE
    match s.csrwCheck word n x with
    | some (c, v) => .trap c v s
    | none => if n == 0x47 || n == 0x48 then s.csrwLkmat n x else .done (s.setCsr n x)

/-- CSRW (R62, R333). -/
def execCsrw (a : Spec) (n : BitVec 7) (s : State) : Out :=
  issue (.csrw a n) (fun s => s.csrw (wordVal (.csrw a n)) a n.toNat) s

end Sys2Proof.Machine
end

