-- ==== Sys2Proof/Machine/Damson.lean ====
section
/-!
DEFINITION. Translation and versioned memory between instructions: walks (R117, R119), invalidations (R118), the end of
a copy-on-write (R172), frame pools that hold a frame again (R173), reclaimed frames (R170, R176), the release of a lane
at WAITA (R407) and the completion of a write to LKMAT (R183).
-/
namespace Sys2Proof.Machine

/-- PAGE_WALK (R119): the walk's translation is cached; a walk that fails caches nothing, and the access that needs it
raises PAGE or PROT at its issue. -/
def execPageWalk (core ctx va : Nat) (s : State) : Out := .next (s.tlbFill core ctx (va % 2 ^ 56))

/-- A translation of the range is in use (R118): a request to another package went out under it and has not been answered,
an access has requests still to send under it, or a store of the context has passed its checks and waits for a copy
(R172, R399). -/
def State.usesOld (s : State) (ctx lo hi : Nat) : Bool :=
  let hit (vas : List (Nat × Nat)) : Bool := vas.any fun v => decide (v.1 < hi) && decide (lo < v.1 + v.2)
  (s.remReqs.any fun r => r.ctx == ctx && (match r.use with | .monitor | .control _ => false | _ => true) &&
    (r.vas.isEmpty || hit r.vas)) ||
  s.groups.any fun e => s.ctxOf e.2 == ctx &&
    ((e.2.asks.any fun a => hit a.vas) || (match e.2.wait with | .cow _ _ | .again => true | _ => false))

/-- TRANSLATION_INVALIDATION (R118): it completes once every access that used the old translation has been performed. -/
def execTranslationInvalidation (ctx lo hi : Nat) (s : State) : Out :=
  .next (if s.usesOld ctx lo hi then s else s.invalidate ctx lo hi)

/-- COPY_ON_WRITE_COMPLETE (R172). -/
def execCopyOnWriteComplete (ctx va : Nat) (s : State) : Out :=
  .next (match s.cowOf ctx (va / 65536) with
    | some c => s.cowFinish c
    | none => s)

/-- VPOOL_RESUME (R173, R262): the stalled group issues again once the pool that was empty holds a frame. -/
def execVpoolResume (gid : Nat) (s : State) : Out :=
  .next (match (s.grp gid).wait with
    | .pool p => if s.poolHas p then s.modGrp gid fun g => { g with wait := .none, noPool := none, readyAt := s.tick } else s
    | _ => s)

/-- Frames that Damson kept go to their ring once it has room, and those that a view could read once HOLDMIN has risen
(R165, R176). -/
def State.returnKept (s : State) : State :=
  let s := s.keptFrames.foldl (fun s f => s.poolGive f.1 f.2) { s with keptFrames := [] }
  let past (f : Pool × Nat × Nat) : Bool := decide (f.2.2 ≤ s.domHold f.1.ctx f.1.dom)
  (s.viewFrames.filter past).foldl (fun s f => (s.freshFrame f.2.1).poolGive f.1 f.2.1)
    { s with viewFrames := s.viewFrames.filter fun f => !past f }

/-- The chain frames of a page from one on, over at most `n` (R164). -/
def State.chainFrames (s : State) : Nat → Nat → List Nat
  | 0, _ => []
  | n + 1, f => f :: (if n == 0 then [] else s.chainFrames n (s.num (f + 16 * 4095 + 8) 8))

/-- The oldest record of a chain goes (R164, R170): the others move up, and a chain frame that holds none returns to
TPOOL. (DEDUCED, log entry 45.) -/
def State.dropChain (s : State) (p : Pool) (pe : Nat) : State :=
  let cnt := s.num (pe + 264) 4
  let frames := s.chainFrames ((cnt + 4094) / 4095) (s.num (pe + 256) 8)
  let at_ (i : Nat) : Nat := frames.getD (i / 4095) 0 + 16 * (i % 4095)
  let recs := (upTo (cnt - 1)).map fun i => s.vrec (at_ (i + 1))
  let s := (imapFrom (fun i r => (i, r)) 0 recs).foldl (fun s e => s.homeWrite (at_ e.1) e.2.bytes) s
  let s := s.homeWrite (at_ (cnt - 1)) (List.replicate 16 0)
  let s := s.homeWrite (pe + 264) (toBytes 4 (cnt - 1))
  if (cnt - 1) % 4095 == 0 then
    let s := s.poolGive p (frames.getLastD 0)
    if cnt == 1 then s.homeWrite (pe + 256) (toBytes 8 0)
    else s.homeWrite (frames.getD (frames.length - 2) 0 + 16 * 4095) (List.replicate 16 0)
  else s

/-- The oldest record of a page can go (R170, R176): every version that it serves lies below L and below HOLDMIN, no RETV
waits for a read, and no copy of the page is in progress. -/
def State.reclaimable (s : State) (ctx dom page : Nat) : Bool :=
  s.domOn ctx dom && decide (page < s.domPages ctx dom) &&
    !(s.groups.any fun e => e.2.wait == .ldv && s.ctxOf e.2 == ctx) &&
    (s.cowOf ctx (s.domBase ctx dom / 65536 + page)).isNone &&
    match (s.vrecs (s.domVrt ctx dom + 512 * page)).reverse with
    | _ :: newer :: _ => decide (newer.ver ≤ s.domOldest ctx dom) && decide (newer.ver ≤ s.domHold ctx dom)
    | _ => false

/-- A page of a domain whose oldest record can go (R170). -/
def State.reclaimIn (s : State) (ctx dom : Nat) : Option Nat :=
  if s.domOn ctx dom then (upTo (s.domPages ctx dom)).find? fun n => s.reclaimable ctx dom n else none

/-- FRAME_RECLAIM (R165, R170, R176): the oldest record of a page goes, and its frame returns to its ring, once every
version that it serves lies below L and below HOLDMIN. The newest record stays. (DEDUCED, log entry 45.) -/
def execFrameReclaim (ctx dom page : Nat) (s : State) : Out :=
  let s := s.returnKept
  if !s.reclaimable ctx dom page then .next s
  else
    let pe := s.domVrt ctx dom + 512 * page
    match (s.vrecs pe).reverse with
    | old :: _ =>
      let hbm : Pool := { ctx := ctx, dom := dom, tier2 := false }
      let tp : Pool := { ctx := ctx, dom := dom, tier2 := true }
      let s := s.freshFrame old.frame
      if s.num (pe + 264) 4 == 0 then
        .next ((s.homeWrite (pe + 16 * ((s.vslots pe).length - 1)) (List.replicate 16 0)).poolGive hbm old.frame)
      else .next ((s.dropChain tp pe).poolGive tp old.frame)
    | [] => .next s

/-- WAITA_RELEASE (R407, R408): d takes the value that the monitor saw, the lane goes on behind its WAITA, and its read is
an acquire at .sys. A monitor that a peer set here (group 0) sends the release back over the fabric (R20). -/
def execWaitaRelease (gid lane : Nat) (s : State) : Out :=
  if gid == 0 then .next s.peerRelease
  else
    .next (match s.monitors.find? fun m => m.gid == gid && m.lane == lane && m.peer.isNone with
      | none => s
      | some m =>
        match m.fired with
        | none => s
        | some x =>
          let g := s.grp gid
          let t := s.setGrp gid { ((g.writeKey lane m.key x).modLane lane fun l => l.release) with readyAt := s.tick }
          let t : State := { t with monitors := t.monitors.filter (· != m) }
          (t.dropAnchor g.team (g.lane lane).th.tid m.place).scoAcquire (clusterOf g.core))

/-- LKMAT_WRITE (R183): every home slice holds the new matrix, and the CSRW goes on. -/
def execLkmatWrite (ctx : Nat) (s : State) : Out :=
  .next (match (s.ctx ctx).lkNew with
    | none => s
    | some (a, b) => s.modCtx ctx fun c => { c with lkmat0 := a, lkmat1 := b, lkNew := none })

end Sys2Proof.Machine
end

