-- ==== Sys2Proof/Machine/Joden.lean ====
section
/-!
DEFINITION. What the Joden link brings (R278 to R297): packets received, credits and acknowledgements, resends, link
bring-up, keys, peer reset, requests and responses, and the registration of access entries and collective groups.
-/
namespace Sys2Proof.Machine

/-! ### Headers -/

/-- A packet's header and the link words of its flits (R281), and the acknowledgement that came with it. -/
structure Hdr where
  type : Nat
  tc : Nat
  rp : Bool
  kg : Nat
  src : Nat
  inc : Nat
  rsn : Nat
  opn : Nat
  ctx : Nat
  len : Nat
  top : Nat
  ack : Option Nat
  links : List Nat
  deriving DecidableEq, Repr

/-- The header in bits 127 to 0 (R281). The model's own convention for what comes beside it: the acknowledgement in returning
traffic is an RSN in bits 143 to 128, valid in bit 144, and flit i has its link word from bit 160 + 32 i on. (DESIGN CHOICE,
log entry 25.) -/
def parseHdr (h : Nat) : Hdr :=
  let len := bitsOf h 63 56
  { type := bitsOf h 3 0, tc := bitsOf h 6 4, rp := h.testBit 7, kg := bitsOf h 8 8, src := bitsOf h 15 9, inc := bitsOf h 23 16,
    rsn := bitsOf h 39 24, opn := bitsOf h 43 40, ctx := bitsOf h 55 44, len := len, top := bitsOf h 127 64,
    ack := if h.testBit 144 then some (bitsOf h 143 128) else none
    links := (upTo (min len 18)).map fun i => bitsOf h (191 + 32 * i) (160 + 32 * i) }

/-- A link word (R281): RP, FIRST, LAST, and its credits. -/
def linkRp (w : Nat) : Bool := w.testBit 0
def linkFirst (w : Nat) : Bool := w.testBit 1
def linkLast (w : Nat) : Bool := w.testBit 2
def linkGrant (w : Nat) : Nat := bitsOf w 10 3
def linkRack (w : Nat) : Nat := bitsOf w 17 11

/-- The pool flits granted, and the reserve flits freed, by all flits of a packet. -/
def Hdr.grant (h : Hdr) : Nat := h.links.foldl (fun n w => n + linkGrant w) 0
def Hdr.rack (h : Hdr) : Nat := h.links.foldl (fun n w => n + linkRack w) 0

/-- The packet that a header and its body make (R281, R293). (DESIGN CHOICE, log entry 25.) -/
def Hdr.packet (h : Hdr) (body : List Byte) : FPkt :=
  let num (off n : Nat) : Nat := ofBytes ((body.drop off).take n)
  let p : FPkt := { type := h.type, tc := h.tc, src := h.src, ctx := h.ctx, len := h.len, rtag := bitsOf h.top 63 47 }
  match h.type with
  | 0 => { p with addr := bitsOf h.top 46 0, mask := num 0 32, op := num 32 8, data := body.drop 40 }
  | 1 => { p with addr := bitsOf h.top 46 0, mask := num 0 32, data := body.drop 32 }
  | 2 => { p with addr := bitsOf h.top 46 0, op := num 0 8, data := body.drop 8 }
  | 6 =>
    let w := num 16 8
    { p with group := bitsOf h.top 15 0, seq := bitsOf h.top 31 16, dhash := bitsOf h.top 63 32, rtag := 0,
             ops := (upTo h.opn).map (fun i => num (2 * i) 2), offset := bitsOf w 39 0, nbytes := bitsOf w 50 40,
             ovh := w.testBit 51, resv := bitsOf w 63 52, data := body.drop 24 }
  | _ => { p with status := bitsOf h.top 7 0, data := body }

/-! ### Credits and acknowledgements -/

/-- Reserve flits returned (R283): the link word does not say of which class, so the classes that are short take them in
an order chosen freely. (DESIGN CHOICE, log entry 26.) -/
def State.rackBack (s : State) (q n : Nat) : State :=
  if n == 0 then s
  else
    let o := freeOrder 3 s [0, 1, 2]
    let r := o.1.foldl (fun (x : Nat × Tab Nat) c =>
      let have_ := tgetD x.2 c 18
      let k := min x.1 (18 - have_)
      (x.1 - k, tset c (have_ + k) x.2)) (n, (o.2.peer q).reserve)
    o.2.modPeer q fun p => { p with reserve := r.2 }

/-- Keys of a bank that no packet needs any more (R287): the old one, once no retry buffer holds a packet under it. -/
def Peer.trim (p : Peer) : Peer :=
  if p.unconfirmed then p else { p with tx := p.tx.filter fun e => e.1 == p.kg || p.buf.any fun b => b.bank == e.1 }

/-- Packets of a plane up to the acknowledged RSN leave the retry buffer (R282). -/
def Peer.acked (p : Peer) (plane rsn : Nat) : Peer :=
  let mine := p.buf.filter fun b => b.plane == plane
  match mine.findIdx? fun b => b.rsn == rsn with
  | none => p
  | some i =>
    let gone := (mine.take (i + 1)).map fun b => b.rsn
    { p with buf := p.buf.filter (fun b => !(b.plane == plane && gone.contains b.rsn)), retries := tset plane 0 p.retries }.trim

/-! ### Reception -/

/-- The packet is well formed, its bank is loaded, its INC is current, the peer not declared reset since (R288, R297), and its tag
passes (R282): the tag passes when the
packet is as it was sent, under the bank's key and the counter that this end expects. A packet of a peer declared reset counts
as one that fails. (DESIGN CHOICE, log entries 27 and 76.) -/
def Peer.accepts (p : Peer) (h : Hdr) (plane key ctr bodyLen : Nat) (intact : Bool) : Bool :=
  decide (h.type ≤ 7) && decide (h.tc ≤ 3) && decide (1 ≤ h.len) && decide (h.len ≤ 18) && decide (flitsOf bodyLen ≤ h.len)
    && decide (h.opn ≤ 8) && (h.opn == 0 || h.type == 6) && h.inc == p.inc && !p.reset && intact &&
  match tget h.kg p.rx with
  | some b => b.key == key && tgetD b.ctr plane 0 == ctr
  | none => false

/-- What an accepted packet does that is not collective (R286, R290); a link test does nothing (R279).
(DESIGN CHOICE, log entry 27.) -/
def State.receive (s : State) (q : Nat) (k : FPkt) : State :=
  match k.type with
  | 0 => s.remoteRequest q k.ctx 0 k.addr 256 k.rtag k.op k.data k.mask
  | 1 => s.remoteRequest q k.ctx 1 k.addr 256 k.rtag 0 k.data k.mask
  | 2 => s.remoteRequest q k.ctx 2 k.addr (aopOf k.op).size k.rtag k.op k.data 0
  | 6 | 7 => s
  | _ => if s.remReqs.any fun r => r.rtag == k.rtag && r.peer == q then s.remoteAnswer k.rtag (min k.status 2) k.data else s

/-- PACKET_RECEIVE (R282, R283): credits and the acknowledgement first; a packet that is not the next one is discarded, one
that fails a check is dropped and counted, any other is accepted and performed; a collective packet may wait for staging,
its flits with it (R295). -/
def execPacketReceive (src plane hdr : Nat) (body : List Byte) (key ctr : Nat) (intact : Bool) (s : State) : Out :=
  let q := src % 128
  let pl := plane % 128
  let h := parseHdr hdr
  if !(s.peer q).up || s.recovery.isSome then .next s
  else
    let s := s.modPeer q fun p => { p with pool := tset pl (tgetD p.pool pl 0 + h.grant) p.pool }
    let s := s.rackBack q h.rack
    let s := match h.ack with | some r => s.modPeer q fun p => p.acked pl r | none => s
    let s := s.flushWait q
    let p := s.peer q
    if tgetD p.rxRsn pl 0 != h.rsn then .next s
    else if !p.accepts h pl key ctr body.length intact then .next (s.modPeer q fun p => { p with errors := p.errors + 1 })
    else
      let b := tgetD p.rx h.kg { key := 0 }
      let warn := decide (2 ^ 47 < ctr + 1) && !b.warned
      let k := h.packet body
      let coll := h.type == 6
      let t := s.setPeer q { (if coll then p else p.freeFlits pl h.rp h.tc h.len) with
        rxRsn := tset pl ((h.rsn + 1) % 65536) p.rxRsn, rkg := h.kg
        rx := tset h.kg { b with ctr := tset pl (ctr + 1) b.ctr, warned := b.warned || warn } p.rx }
      let t := if warn then t.warnKey q 1 h.kg pl else t
      .next (if coll then t.collTake { peer := q, plane := pl, pool := h.rp, flits := h.len, pkt := k } else t.receive q k)

/-! ### Resends, bring-up, reset -/

/-- A peer is declared reset (R288, R297). -/
def State.declareReset (s : State) (q : Nat) : State := (s.peerReset q).collReset q

/-- RETRY_RESEND (R282, R288): the held packets of the plane go out again, as they were; the 64th time without an
acknowledgement declares the peer reset. -/
def execRetryResend (peer plane : Nat) (s : State) : Out :=
  let p := s.peer peer
  if !(p.buf.any fun b => b.plane == plane) then .next s
  else
    let n := tgetD p.retries plane 0 + 1
    let t := s.setPeer peer { p with retries := tset plane n p.retries }
    .next (if 64 ≤ n then t.declareReset peer else t)

/-- A bank with its counters at zero. -/
def Bank.restart (b : Bank) : Bank := { b with ctr := [], warned := false }

/-- LINK_BRING_UP (R282, R283, R287, R288): the incarnation is learnt, counters and RSNs start at zero, no pool credit is
held; a new incarnation declares the peer reset. Packets still held go out anew, ahead of those that wait.
(DESIGN CHOICE, log entry 28.) -/
def execLinkBringUp (peer inc : Nat) (s : State) : Out :=
  let q := peer % 128
  if q == s.position || s.recovery.isSome then .next s
  else
    let old := s.peer q
    let s := if old.up && old.inc != inc % 256 then s.declareReset q else s
    .next ((s.modPeer q fun p => { p with
      up := true, inc := inc % 256, reset := false, txRsn := [], rxRsn := [], retries := [], pool := [], reserve := [], granted := [], freed := [],
      wait := p.buf.map (fun b => b.pkt) ++ p.wait, buf := [],
      tx := tmap (fun _ b => b.restart) p.tx, rx := tmap (fun _ b => b.restart) p.rx }).flushWait q)

/-! ### Keys -/

/-- KEY_LOAD (R287): a key goes into the idle bank of a direction, 0 sending and 1 receiving; a sending bank whose packets
are still held is not idle yet. (DESIGN CHOICE, log entry 28.) -/
def execKeyLoad (peer dir key : Nat) (s : State) : Out :=
  let q := peer % 128
  let p := s.peer q
  if s.recovery.isSome then .next s
  else if dir == 0 then
    if p.buf.any fun b => b.bank == 1 - p.kg then .next s
    else .next (s.setPeer q { p with tx := tset (1 - p.kg) { key := key } p.tx, unconfirmed := true })
  else .next (s.setPeer q { p with rx := tset (1 - p.rkg) { key := key } p.rx })

/-- KEY_CONFIRM (R287): every new packet goes under the new bank. -/
def execKeyConfirm (peer : Nat) (s : State) : Out :=
  let q := peer % 128
  let p := s.peer q
  if p.unconfirmed && s.recovery.isNone then .next ((s.setPeer q { p with kg := 1 - p.kg, unconfirmed := false }.trim).flushWait q) else .next s

/-! ### Requests and responses -/

/-- REMOTE_REQUEST (R286, R289). -/
def execRemoteRequest (src ctx kind addr len rtag op : Nat) (payload : List Byte) (mask : Nat) (s : State) : Out :=
  .next (if kind < 3 && s.recovery.isNone then s.remoteRequest (src % 128) ctx kind addr len rtag op payload mask else s)

/-- REMOTE_RESPONSE (R290): status 0 OK, 1 FABDENY, 2 TGTERR, 3 that the peer was reset. -/
def execRemoteResponse (rtag status : Nat) (payload : List Byte) (s : State) : Out :=
  .next (s.remoteAnswer rtag (if status ≤ 3 then status else 2) payload)

/-! ### Registration -/

/-- ACCESS_TABLE_WRITE (R285): an entry whose fields are as the table states. (DEDUCED, log entry 29.) -/
def execAccessTableWrite (idx base limit word2 : Nat) (s : State) : Out :=
  let e : Access := { base := base, limit := limit, src := bitsOf word2 6 0, valid := word2.testBit 7, rights := bitsOf word2 15 8,
                      sctx := bitsOf word2 31 16 }
  let good := base % 4096 == 0 && limit % 4096 == 0 && decide (base < limit) && decide (limit < 2 ^ 64) && decide (e.rights < 16)
    && decide (e.sctx < 4096) && decide (word2 < 2 ^ 32)
  if idx < 4096 && (good || !e.valid) && s.recovery.isNone then .next { s with access := tset idx e s.access } else .next s

/-- COLLECTIVE_GROUP_REGISTER (R291): 2 to 128 members, this package among them; up to 1,024 groups. (DEDUCED, log entry 29.) -/
def execCollectiveGroupRegister (group ctx : Nat) (members : List Nat) (staging : Nat) (s : State) : Out :=
  let old := tget group s.collGroups
  let busy := match old with | some g => !g.ops.isEmpty | none => false
  if s.recovery.isNone && group < 65536 && (tget ctx s.ctxs).isSome && decide (2 ≤ members.length) && distinct members
      && members.all (fun m => decide (m < 128)) && members.contains s.position && !busy
      && (old.isSome || decide (s.collGroups.length < 1024)) then
    .next { s with collGroups := tset group { ctx := ctx, members := members, staging := staging } s.collGroups }
  else .next s

end Sys2Proof.Machine
end

