-- ==== Sys2Proof/Machine/Lanes.lean ====
section
/-!
DEFINITION. Instructions across lanes: SHFL (R391), BCST (R323), VOTE (R404), MTCH (R378), RED (R381), SCAN (R389), with
the sum orders of R219, and XRD (R412).
-/
namespace Sys2Proof.Machine

/-- A shuffle: each lane reads a of its source lane as it stands (R391). -/
def shflOp (form : Nat) (d a b : Spec) (s : State) : Res :=
  shortOp d 0 (fun l => plain (s.rd a (shflLane form s.me.W l ((s.rd b l).toNat % 64)))) s

/-- SHFL.IDX. -/
def semShflIdx (d : Spec) (a : Spec) (b : Spec) : State → Res :=
  (shflOp 0 d a b)
def execShflIdx (d a b : Spec) (f g : BitVec 1) (s : State) : Out := issue (.shflIdx d a b f g) (semShflIdx d a b) s
/-- SHFL.XOR. -/
def semShflXor (d : Spec) (a : Spec) (b : Spec) : State → Res :=
  (shflOp 1 d a b)
def execShflXor (d a b : Spec) (f g : BitVec 1) (s : State) : Out := issue (.shflXor d a b f g) (semShflXor d a b) s
/-- SHFL.UP. -/
def semShflUp (d : Spec) (a : Spec) (b : Spec) : State → Res :=
  (shflOp 2 d a b)
def execShflUp (d a b : Spec) (f g : BitVec 1) (s : State) : Out := issue (.shflUp d a b f g) (semShflUp d a b) s
/-- SHFL.DN. -/
def semShflDn (d : Spec) (a : Spec) (b : Spec) : State → Res :=
  (shflOp 3 d a b)
def execShflDn (d a b : Spec) (f g : BitVec 1) (s : State) : Out := issue (.shflDn d a b f g) (semShflDn d a b) s

/-- BCST: every lane receives a of the lane that b of the lowest lane of E names (R323). -/
def semBcst (d : Spec) (a : Spec) (b : Spec) : State → Res :=
  (fun s =>
      let y := s.rd a ((s.rd b s.me.lowE).toNat % 64 % s.me.W)
      shortOp d 0 (fun _ => plain y) s)
def execBcst (d a b : Spec) (f g : BitVec 1) (s : State) : Out := issue (.bcst d a b f g) (semBcst d a b) s

/-- VOTE: the mask of the lanes of E whose a is nonzero (R404). -/
def semVote (d : Spec) (a : Spec) : State → Res :=
  (fun s =>
      let m : Word := BitVec.ofNat 64 (maskOf (s.me.E.filter fun l => s.rd a l != 0))
      shortOp d 0 (fun _ => plain m) s)
def execVote (d a : Spec) (f : BitVec 1) (s : State) : Out := issue (.vote d a f) (semVote d a) s

/-- MTCH: the mask of the lanes of E whose a equals the lane's own (R378). -/
def semMtch (d : Spec) (a : Spec) : State → Res :=
  (fun s => shortOp d 0 (fun l =>
      plain (BitVec.ofNat 64 (maskOf (s.me.E.filter fun m => s.rd a m == s.rd a l)))) s)
def execMtch (d a : Spec) (f : BitVec 1) (s : State) : Out := issue (.mtch d a f) (semMtch d a) s

/-! ### Reductions and scans -/

/-- What each physical lane contributes: b in the lanes of E, an identity elsewhere (R219, R381). -/
def State.contrib (s : State) (b : Spec) (ident : Word) : List Word :=
  let E := s.me.E
  (upTo s.me.W).map fun l => if E.contains l then s.rd b l else ident

/-- An integer reduction. -/
def redInt (d b : Spec) (ident : Word) (op : Word → Word → Word) (s : State) : Res :=
  let y := (s.contrib b ident).foldl op ident
  shortOp d 0 (fun _ => plain y) s

/-- One level of the pairwise tree: neighbours added, the lower lane on the left (R219). -/
def pairLevel (add : Nat → Nat → FRes) : List FRes → List FRes
  | x :: y :: r => ((add x.1 y.1).1, x.2 ||| y.2 ||| (add x.1 y.1).2) :: pairLevel add r
  | l => l

/-- The tree of RED.FADD over at most 64 lanes: its sum, and the flags of every addition. -/
def treeSum (add : Nat → Nat → FRes) (l : List Nat) : FRes :=
  ((upTo 6).foldl (fun y _ => pairLevel add y) (l.map fun x => (x, 0))).headD (0, 0)

/-- One level of the Kogge–Stone scan at distance `k` (R219). -/
def scanLevel (add : Nat → Nat → FRes) (k : Nat) (y : List Nat × FpFlags) : List Nat × FpFlags :=
  let r := imapFrom (fun i x => if k ≤ i then add (y.1.getD (i - k) 0) x else (x, 0)) 0 y.1
  (r.map fun x => x.1, r.foldl (fun f x => f ||| x.2) y.2)

def scanSum (add : Nat → Nat → FRes) (l : List Nat) : List Nat × FpFlags :=
  [1, 2, 4, 8, 16, 32].foldl (fun y k => if k < l.length then scanLevel add k y else y) (l, 0)

/-- A floating-point reduction: one value and one set of flags for every lane of E (R381). -/
def redF (f : Fmt) (d b : Spec) (s : State) : Res :=
  let l := (s.contrib b (BitVec.ofNat 64 (f.zero true))).map fun x => x.toNat % 2 ^ f.width
  let r := treeSum (fadd f s.fpRm (s.ftz f) false) l
  fpShort d 0 (s.me.E.map fun i => FLane.of f i r) s

/-- RED.ADD. -/
def semRedAdd (d : Spec) (b : Spec) : State → Res :=
  (redInt d b 0 fun x y => x + y)
def execRedAdd (d b : Spec) (g : BitVec 1) (s : State) : Out := issue (.redAdd d b g) (semRedAdd d b) s
/-- RED.MIN. -/
def semRedMin (d : Spec) (b : Spec) : State → Res :=
  (redInt d b 0x7FFFFFFFFFFFFFFF#64 minS)
def execRedMin (d b : Spec) (g : BitVec 1) (s : State) : Out := issue (.redMin d b g) (semRedMin d b) s
/-- RED.MAX. -/
def semRedMax (d : Spec) (b : Spec) : State → Res :=
  (redInt d b 0x8000000000000000#64 maxS)
def execRedMax (d b : Spec) (g : BitVec 1) (s : State) : Out := issue (.redMax d b g) (semRedMax d b) s
/-- RED.FADD.D. -/
def semRedFaddD (d : Spec) (b : Spec) : State → Res :=
  (redF b64 d b)
def execRedFaddD (d b : Spec) (g : BitVec 1) (s : State) : Out := issue (.redFaddD d b g) (semRedFaddD d b) s
/-- RED.FADD.F. -/
def semRedFaddF (d : Spec) (b : Spec) : State → Res :=
  (redF b32 d b)
def execRedFaddF (d b : Spec) (g : BitVec 1) (s : State) : Out := issue (.redFaddF d b g) (semRedFaddF d b) s

/-- SCAN.ADD: inclusive sums over the physical lanes (R389). -/
def semScanAdd (d : Spec) (b : Spec) : State → Res :=
  (fun s =>
      let c := s.contrib b 0
      shortOp d 0 (fun l => plain ((c.take (l + 1)).foldl (fun x y => x + y) 0)) s)
def execScanAdd (d b : Spec) (g : BitVec 1) (s : State) : Out := issue (.scanAdd d b g) (semScanAdd d b) s

/-- SCAN.FADD.D: inclusive sums in the Kogge–Stone order (R219, R389). -/
def semScanFaddD (d : Spec) (b : Spec) : State → Res :=
  (fun s =>
      let l := (s.contrib b (BitVec.ofNat 64 (b64.zero true))).map fun x => x.toNat
      let r := scanSum (fadd b64 s.fpRm s.ftzD false) l
      fpShort d 0 (s.me.E.map fun i => FLane.of b64 i (r.1.getD i 0, r.2)) s)
def execScanFaddD (d b : Spec) (g : BitVec 1) (s : State) : Out := issue (.scanFaddD d b g) (semScanFaddD d b) s

/-! ### XRD -/

/-- Where the remap table places a live tid on the issuing core: group and lane (R45). -/
def State.remap (s : State) (tid : Nat) : Option (Group × Nat) :=
  let g := s.me
  if !(s.team g.team).live.contains tid then none
  else
    (s.groups.filter fun e => e.2.team == g.team && e.2.core == g.core && e.2.loc == .onCore).findSome? fun e =>
      (e.2.aliveLanes.find? fun l => (e.2.lane l).th.tid == tid).map fun l => (e.2, l)

/-- The register of another thread that XRD names, if it exists (R412). -/
def xrdKey (h : Group) (a : Spec) : Option RKey :=
  if a.toNat < 0x60 && decide (h.R ≤ h.wbase + a.toNat) then none else some (h.key a)

/-- What XRD finds for a tid: nothing (V = 1), an empty register to wait for, or a value. -/
inductive XRead where
  | absent
  | empty
  | value (x : Word)
  deriving DecidableEq, Repr

def State.xread (s : State) (a : Spec) (t : Word) : XRead :=
  match s.remap t.toNat with
  | none => .absent
  | some (h, l) =>
    match xrdKey h a with
    | none => .absent
    | some k => if h.fullKey l k then .value (h.readKey l k) else .empty

/-- XRD: another thread's register (R412), for which it waits while it is empty; V says that it is not on this core. -/
def semXrd (d : Spec) (a : Spec) (b : Spec) : State → Res :=
  (fun s =>
      let r := s.me.E.map fun l => (l, s.xread a (s.rd b l))
      if r.any fun x => x.2 == .empty then .wait (s.modMe fun g => { g with wait := .xrd })
      else
        let vals := r.filterMap fun x => match x.2 with | .value y => some (x.1, y) | _ => none
        let isQ := match s.me.key d with | .q _ => true | _ => false
        -- a q register takes the value of the lowest lane of E (R56)
        let vals := if isQ && (r.head?.map fun x => x.2) == some .absent then [] else vals
        let fl := r.map fun x =>
          (x.1, ((s.me.lane x.1).th.nzcv &&& 14) ||| (if x.2 == .absent then (1 : Nzcv) else 0))
        .done ((s.modMe fun h => h.writeFlags fl).putLong d vals))
def execXrd (d a b : Spec) (g : BitVec 1) (s : State) : Out := issue (.xrd d a b g) (semXrd d a b) s

end Sys2Proof.Machine
end

