-- ==== Sys2Proof/Machine/Locks.lean ====
section
/-!
DEFINITION. The lock instructions (R189 to R192, R362, R403), the guarded tasks' instructions (R195 to R202, R402) and
the domain instructions (R168 to R171, R405).
-/
namespace Sys2Proof.Machine

/-! ### Locks -/

/-- The descriptors that the lanes of E name. -/
def State.descs (s : State) (a : Spec) : List (Nat × Nat) := s.me.E.map fun l => (l, (s.rd a l).toNat)

/-- The mode whose parent requirement a request must meet (R182, R186): for an escalation, the join. -/
def askedMode (held m : Nat) : Nat := if held == 0 || covers held m then m else join held m

/-- A request lacks what R182 asks of the parent, or names for LUPG a resource that the team does not hold (R191).
(DEDUCED, log entry 40.) -/
def State.lockHier (s : State) (lupg : Bool) (m d : Nat) : Bool :=
  let h := s.heldMode s.myCtxNum d s.me.team
  (lupg && h == 0) || !s.parentOk s.myCtxNum d s.me.team (askedMode h m)

/-- In a task, the mode before the group's first request on a resource is noted (R201). -/
def State.lockLog (s : State) (ds : List Nat) : State :=
  let g := s.me
  { s with tasks := tmod g.taskId (fun k => ds.foldl (fun (k : Task) d =>
      if k.locks.any fun e => e.1 == d then k
      else { k with locks := k.locks ++ [(d, s.heldMode k.ctx d g.team, 0)] }) k) s.tasks }

/-- The status of a descriptor's request. -/
def Group.lockStatus (g : Group) (d : Nat) : Nat := ((g.lockSt.find? fun e => e.1 == d).bind fun e => e.2).getD 0

/-- Every request has its status: d is written; a grant acquires at .pkg (R158, R190). -/
def State.lockDone (s : State) (d : Spec) (ds : List (Nat × Nat)) : Res :=
  let st (x : Nat) : Nat := s.me.lockStatus x
  let t := if ds.any fun x => st x.2 == 0 then s.acquire 3 else s
  .done ((t.putDirect d (ds.map fun x => (x.1, BitVec.ofNat 64 (st x.2)))).modMe fun g => { g with lockSt := [] })

/-- The requests of one instruction, all sent at once (R190). -/
def State.lockSend (s : State) (ds : List Nat) (m : Nat) (lupg try_ : Bool) : State :=
  let g := s.me
  let ctx := s.myCtxNum
  let s := (s.lockLog ds).modMe fun g => { g with lockSt := ds.map fun d => (d, none), wait := .lock }
  ds.foldl (fun s d =>
    let r := s.lockRequest ctx d g.team s.cur m lupg try_
    match r.1 with
    | some st => r.2.lockAnswer s.cur d st
    | none => r.2) s

/-- LOCK, LCKT and LUPG (R190, R191, R362). (DEDUCED, log entry 40.) -/
def lockSem (word : Word) (d a : Spec) (m : Nat) (lupg try_ : Bool) (s : State) : Res :=
  if s.me.sup then .trap .ill word s
  else
    let ds := s.descs a
    match ds.find? fun x => !descOk x.2 with
    | some x => .trap .ill (BitVec.ofNat 64 x.2) s
    | none =>
      if s.me.wait == .lock then
        (if s.me.lockSt.all fun e => e.2.isSome then s.lockDone d ds else .wait s)
      else
        match ds.find? fun x => s.lockHier lupg m x.2 with
        | some x => .trap .lkhier (BitVec.ofNat 64 x.2) s
        | none =>
          let t := s.lockSend (ds.map fun x => x.2).eraseDups m lupg try_
          if t.me.lockSt.all fun e => e.2.isSome then t.lockDone d ds else .wait t

/-- LOCK (R190). -/
def execLock (d a : Spec) (m : BitVec 3) (s : State) : Out :=
  issue (.lock d a m) (lockSem (wordVal (.lock d a m)) d a m.toNat false false) s

/-- LCKT (R190). -/
def execLckt (d a : Spec) (m : BitVec 3) (s : State) : Out :=
  issue (.lckt d a m) (lockSem (wordVal (.lckt d a m)) d a m.toNat false true) s

/-- LUPG (R191). -/
def execLupg (d a : Spec) (m : BitVec 3) (s : State) : Out :=
  issue (.lupg d a m) (lockSem (wordVal (.lupg d a m)) d a m.toNat true false) s

/-- The modes that a team holds, by descriptor. -/
def State.teamModes (s : State) (ctx team : Nat) : List (Nat × Nat) :=
  (s.holds.filter fun h => h.ctx == ctx && h.team == team).map fun h => (h.desc, h.mode)

/-- The mode that a list gives a descriptor. -/
def modeIn (l : List (Nat × Nat)) (d : Nat) : Nat := ((l.find? fun e => e.1 == d).map fun e => e.2).getD 0

/-- ULCK of one resource (R192): lowered to `m` where the held mode covers it, released where it is the mode held. -/
def ulckOne (m : Nat) (l : List (Nat × Nat)) (d : Nat) : List (Nat × Nat) :=
  let h := modeIn l d
  if h == 0 || !covers h m then l
  else if h == m then l.filter fun e => e.1 != d
  else l.map fun e => if e.1 == d then (d, m) else e

/-- The modes after the ULCKs that a task has recorded (R403). -/
def ulckAll (us : List (Option Nat × Nat)) (l : List (Nat × Nat)) : List (Nat × Nat) :=
  us.foldl (fun l u => match u.1 with | none => [] | some d => ulckOne u.2 l d) l

/-- A change of a parent would leave a child without the mode that R182 asks for. -/
def orphans (before after : List (Nat × Nat)) (d : Nat) : Bool :=
  modeIn before d != modeIn after d &&
  after.any fun e => dParent e.1 == some d && !parentMode e.2 (modeIn after d)

/-- The team's modes become those of a list (R188, R192): each release wakes its waiters (R184). -/
def State.setModes (s : State) (ctx team : Nat) (after : List (Nat × Nat)) : State :=
  (s.teamModes ctx team).foldl (fun s e =>
    if modeIn after e.1 == e.2 then s else s.releaseTo ctx e.1 team (modeIn after e.1)) s

/-- ULCK (R192, R403). -/
def ulckSem (word : Word) (d a : Spec) (m : Nat) (s : State) : Res :=
  if s.me.sup then .trap .ill word s
  else
    let g := s.me
    let ctx := s.myCtxNum
    let ds := if m == 0 then [] else s.descs a
    match ds.find? fun x => !descOk x.2 with
    | some x => .trap .ill (BitVec.ofNat 64 x.2) s
    | none =>
      let before := ulckAll (s.task g.taskId).unlocks (s.teamModes ctx g.team)
      let ops : List (Option Nat × Nat) :=
        if m == 0 then [(none, 0)] else (ds.map fun x => x.2).eraseDups.map fun x => (some x, m)
      let after := ulckAll ops before
      match ds.find? fun x => orphans before after x.2 with
      | some x => .trap .lkhier (BitVec.ofNat 64 x.2) s
      | none =>
        let t := if g.taskId != 0 then
            { s with tasks := tmod g.taskId (fun k => { k with unlocks := k.unlocks ++ ops }) s.tasks }
          else (s.release 3).setModes ctx g.team after
        .done (t.putDirect d (g.E.map fun l => (l, if m == 0 then 0 else BitVec.ofNat 64 (modeIn after (s.rd a l).toNat))))

def execUlck (d a : Spec) (m : BitVec 3) (s : State) : Out :=
  issue (.ulck d a m) (ulckSem (wordVal (.ulck d a m)) d a m.toNat) s

/-! ### Guarded tasks -/

/-- E holds every occupied lane of the group that has not exited (R196). -/
def Group.wholeE (g : Group) : Bool := g.E == g.aliveLanes

/-- An id that no live task has (R196). -/
def State.freeTask (s : State) : Nat :=
  (((upTo (s.tasks.length + 2)).map fun i => (s.nextTask + i) % 2 ^ 32).find? fun n =>
    n != 0 && (tget n s.tasks).isNone).getD 0

/-- TSKB (R196, R402). -/
def tskbSem (word : Word) (d a : Spec) (s : State) : Res :=
  let g := s.me
  if g.sup || !g.wholeE || g.taskId != 0 then .trap .ill word s
  else
    let x := s.rd a g.lowE
    if x.toNat % 4 != 0 then .trap .align x s
    else if window x != 0 then .trap .noaddr x s
    else if Config.liveTasks ≤ s.tasks.length then .done (s.putDirect d (g.E.map fun l => (l, 0)))
    else
      let id := s.freeTask
      let s := { s with tasks := tset id { gid := s.cur, ctx := s.myCtxNum, abort := x } s.tasks, nextTask := id + 1 }
      .done ((s.putDirect d (g.E.map fun l => (l, BitVec.ofNat 64 id))).modMe fun g => { g with taskId := id })

def execTskb (d a : Spec) (s : State) : Out := issue (.tskb d a) (tskbSem (wordVal (.tskb d a)) d a) s

/-- Bytes put into a line at an offset. -/
def patch (l : List Byte) (off : Nat) (bs : List Byte) : List Byte := l.take off ++ bs ++ l.drop (off + bs.length)

/-- A line's bytes after a task's stores and deltas to it: the masked bytes replaced, each delta one operation (R199, R200). -/
def SpecLine.merge (x : SpecLine) (old : List Byte) : List Byte :=
  x.deltas.foldl (fun l e => patch l e.1 (toBytes e.2.1.size (e.2.1.new (ofBytes ((l.drop e.1).take e.2.1.size)) e.2.2 0)))
    (x.bytes.foldl (fun l c => l.set c.1 c.2) old)

/-- One line of a commit (R200, step 4), at one instant: the masked bytes are written at the home, and each delta is one
operation; the cluster's own SCO copy goes back first, and under a delta every copy (R127). (DEDUCED, log entry 41.) -/
def State.commitLine (s : State) (cl : Nat) (x : SpecLine) : State :=
  let base := x.line * 128
  let s := match s.scoLine cl x.line with
    | some y => (s.scoBack y).dropSco cl x.line
    | none => s
  let s := if x.deltas.isEmpty then s else s.scoRecall x.line
  let s := s.recall x.line
  s.poke base (x.merge (s.peek base 128))

/-- The virtual address of a task's line on a versioned page. -/
def SpecLine.va (x : SpecLine) (vpage : Nat) : Nat := vpage * 65536 + x.line * 128 % 65536

/-- The lines of a task whose pages need a copy before the commit (R174). -/
def State.commitCopies (s : State) (k : Task) : List (Nat × Nat) :=
  k.lines.filterMap fun x => match x.ver with
    | some (d, p) => if s.needsCow k.ctx d (x.va p) then some (d, x.va p) else none
    | none => none

/-- The commit instant (R200, steps 4 and 5): the writes, then the recorded ULCKs (R403). (DEDUCED, log entry 41.) -/
def State.commitTask (s : State) (id : Nat) : State :=
  let k := s.task id
  let g := s.grp k.gid
  let s : State := { s with anchors := s.anchors.map fun a => if a.task == id then { a with task := 0 } else a }
  let s := k.lines.foldl (fun s x => s.commitLine (clusterOf g.core) x) s
  let s := s.setModes k.ctx g.team (ulckAll k.unlocks (s.teamModes k.ctx g.team))
  ({ s with tasks := tdel id s.tasks }).modGrp k.gid fun g => { g with taskId := 0 }

/-- TSKE (R200, R402): it waits for the task's accesses and for the copies that its pages need; a pool found empty raises
VPOOL, which aborts the task (R174, R202). -/
def tskeSem (word : Word) (s : State) : Res :=
  let g := s.me
  if g.sup || !g.wholeE || g.taskId == 0 then .trap .ill word s
  else if s.readsOut then .wait (s.modMe fun g => { g with wait := .regs })
  else
    let k := s.task g.taskId
    let s := s.release 3
    match s.commitCopies k with
    | [] => .done (s.commitTask g.taskId)
    | (d, va) :: _ =>
      match s.cowStart k.ctx d va with
      | .error p => .trap .vpool (BitVec.ofNat 64 va) (s.modMe fun g => { g with noPool := some p })
      | .ok t => .wait (t.modMe fun g => { g with wait := .cow k.ctx (va / 65536) })

def execTske (s : State) : Out := issue .tske (tskeSem (wordVal .tske)) s

/-- TSKA (R402): the task aborts with cause 0. -/
def execTska (s : State) : Out :=
  issue .tska
    (fun s =>
      if s.me.sup || s.me.taskId == 0 then .trap .ill (wordVal .tska) s
      else .jumped (s.abortTask s.cur 0)) s

/-! ### Version domains -/

/-- The frames of a domain's newest records (R163). -/
def State.newestFrames (s : State) (ctx d : Nat) : List Nat :=
  ((upTo (s.domPages ctx d)).map fun i => s.vrec (s.domVrt ctx d + 512 * i)).filterMap fun r =>
    if r.state == 0 then none else some r.frame

/-- The publication closes the domain (R169, step 3): cached copies of its newest frames are recalled, partials
collected, dirty SCO copies of every cluster written back; no cluster keeps a copy from before (R155). -/
def State.closeDomain (s : State) (ctx d : Nat) : State :=
  if s.coh.dir.isEmpty && s.sco.isEmpty then s
  else
    let fs := s.newestFrames ctx d
    let hit (line : Nat) : Bool := fs.contains (line / 512 * 65536)
    let s := ((tkeys s.coh.dir).filter hit).foldl (fun s l => s.recall l) s
    ((s.sco.filter fun x => hit x.line).map fun x => x.line).eraseDups.foldl (fun s l => s.scoRecall l) s

/-- A domain instruction (R168): ILL in a task; PROT for a number above 255 or a disabled domain. -/
def domSem (word : Word) (a : Spec) (f : State → Nat → Res) (s : State) : Res :=
  if s.me.taskId != 0 then .trap .ill word s
  else
    let d := (s.rd a s.me.lowE).toNat
    if 255 < d || !s.domOn s.myCtxNum d then .trap .prot (BitVec.ofNat 64 d) s else f s d

/-- A number in d of every lane of E. -/
def State.putAll (s : State) (d : Spec) (n : Nat) : State := s.putDirect d (s.me.E.map fun l => (l, BitVec.ofNat 64 n))

/-- PUBL (R169). -/
def execPubl (d a : Spec) (s : State) : Out :=
  issue (.publ d a)
    (domSem (wordVal (.publ d a)) a fun s n =>
      let ctx := s.myCtxNum
      let o := s.domOpen ctx n
      if o == 0xFFFFFFFF then .trap .vfut (BitVec.ofNat 64 (n + 0xFFFFFFFF * 2 ^ 32)) s
      else
        let t := ((s.release 4).closeDomain ctx n).homeWrite (s.domAddr ctx n) (toBytes 4 (o + 1))
        .done (t.putAll d o)) s

/-- A write in flight belongs to an LDV of a version of the domain below `v` (R170). -/
def Pend.ldvBelow (p : Pend) (ctx d v : Nat) : Bool :=
  match p.ldv with
  | some (c, e, w) => c == ctx && e == d && decide (w < v)
  | none => false

/-- An LDV that resolved a version below `v` has not completed (R170). -/
def State.ldvOut (s : State) (ctx d v : Nat) : Bool :=
  let p (x : Pend) : Bool := x.ldvBelow ctx d v
  let st (g : GState) : Bool := g.qPend.any p || g.lanes.any fun l => l.th.pend.any p
  (s.groups.any fun e => st e.2.toGState) ||
  (s.teams.any fun e => (e.2.frames.any fun f => st f.2.st) || e.2.image.any fun r => r.2.2.th.pend.any p) ||
  s.cores.any fun e => e.2.allRecs.any fun r => r.th.pend.any p

/-- RETV (R170). -/
def execRetv (d a b : Spec) (s : State) : Out :=
  issue (.retv d a b)
    (domSem (wordVal (.retv d a b)) a fun s n =>
      let ctx := s.myCtxNum
      let v := (s.rd b s.me.lowE).toNat % 2 ^ 32
      if s.domOpen ctx n < v then .trap .vfut (BitVec.ofNat 64 (n + v * 2 ^ 32)) s
      else
        let raise := decide (s.domOldest ctx n < v)
        let t := if raise then s.homeWrite (s.domAddr ctx n + 4) (toBytes 4 v) else s
        if (raise || s.me.wait == .ldv) && t.ldvOut ctx n v then .wait (t.modMe fun g => { g with wait := .ldv })
        else .done (t.putAll d (t.domOldest ctx n))) s

/-- VQRY (R171, R405). -/
def execVqry (d a : Spec) (s : State) : Out :=
  issue (.vqry d a)
    (domSem (wordVal (.vqry d a)) a fun s n =>
      let o := s.domOpen s.myCtxNum n
      .done ((s.acquire 4).putAll d ((o + 2 ^ 32 - 1) % 2 ^ 32))) s

end Sys2Proof.Machine
end

