-- ==== Sys2Proof/Machine/MemFam.lean ====
section
/-!
DEFINITION. Loads (R363 to R371), stores (R393 to R399), atomics (R309 to R316), LDV (R166, R167), PTOG (R112), PREF
(R380), FLSH and INVL (R355, R356).
-/
namespace Sys2Proof.Machine

/-- The address of an I10 access of `n` bytes (R364). -/
def State.addr10 (s : State) (a : Spec) (i : BitVec 10) (n l : Nat) : Word := s.rd a l + imm10 i * BitVec.ofNat 64 n
/-- The address of an indexed access (R367). -/
def State.addrX (s : State) (a b : Spec) (n l : Nat) : Word := s.rd a l + s.rd b l * BitVec.ofNat 64 n

/-- A load into d, which is empty until its values arrive (R58, R364). -/
def loadOp (align : Bool) (d : Spec) (n : Nat) (va : State → Nat → Word) (ext : Nat → Word) (s : State) : Res :=
  memOp align id (s.laneAccs fun l => { lane := l, va := va s l, n := n, acc := .load })
    (fun vals s => s.putLoad d (vals.map fun x => (x.1, ext x.2))) s

/-- A store of the low `n` bytes of d (R394). -/
def storeOp (align : Bool) (d : Spec) (n : Nat) (va : State → Nat → Word) (s : State) : Res :=
  memOp align id (s.laneAccs fun l => { lane := l, va := va s l, n := n, acc := .store (s.rd d l).toNat }) (fun _ s => s) s

/-- Extensions (R85). -/
def sx (n : Nat) (x : Nat) : Word := sExt x n
def zx (x : Nat) : Word := BitVec.ofNat 64 x

/-- LD.S8 (R363, R364). -/
def semLdS8 (d : Spec) (a : Spec) (i : BitVec 10) : State → Res :=
  (loadOp false d 1 (fun s => s.addr10 a i 1) (sx 8))
def execLdS8 (d a : Spec) (i : BitVec 10) (s : State) : Out := issue (.ldS8 d a i) (semLdS8 d a i) s

/-- LD.Z8 (R363, R364). -/
def semLdZ8 (d : Spec) (a : Spec) (i : BitVec 10) : State → Res :=
  (loadOp false d 1 (fun s => s.addr10 a i 1) zx)
def execLdZ8 (d a : Spec) (i : BitVec 10) (s : State) : Out := issue (.ldZ8 d a i) (semLdZ8 d a i) s

/-- LD.S16 (R363, R364). -/
def semLdS16 (d : Spec) (a : Spec) (i : BitVec 10) : State → Res :=
  (loadOp false d 2 (fun s => s.addr10 a i 2) (sx 16))
def execLdS16 (d a : Spec) (i : BitVec 10) (s : State) : Out := issue (.ldS16 d a i) (semLdS16 d a i) s

/-- LD.Z16 (R363, R364). -/
def semLdZ16 (d : Spec) (a : Spec) (i : BitVec 10) : State → Res :=
  (loadOp false d 2 (fun s => s.addr10 a i 2) zx)
def execLdZ16 (d a : Spec) (i : BitVec 10) (s : State) : Out := issue (.ldZ16 d a i) (semLdZ16 d a i) s

/-- LD.S32 (R363, R364). -/
def semLdS32 (d : Spec) (a : Spec) (i : BitVec 10) : State → Res :=
  (loadOp false d 4 (fun s => s.addr10 a i 4) (sx 32))
def execLdS32 (d a : Spec) (i : BitVec 10) (s : State) : Out := issue (.ldS32 d a i) (semLdS32 d a i) s

/-- LD.Z32 (R363, R364). -/
def semLdZ32 (d : Spec) (a : Spec) (i : BitVec 10) : State → Res :=
  (loadOp false d 4 (fun s => s.addr10 a i 4) zx)
def execLdZ32 (d a : Spec) (i : BitVec 10) (s : State) : Out := issue (.ldZ32 d a i) (semLdZ32 d a i) s

/-- LD.64 (R363, R364). -/
def semLd64 (d : Spec) (a : Spec) (i : BitVec 10) : State → Res :=
  (loadOp false d 8 (fun s => s.addr10 a i 8) zx)
def execLd64 (d a : Spec) (i : BitVec 10) (s : State) : Out := issue (.ld64 d a i) (semLd64 d a i) s

/-- ST.8 (R393, R394). -/
def semSt8 (d : Spec) (a : Spec) (i : BitVec 10) : State → Res :=
  (storeOp false d 1 (fun s => s.addr10 a i 1))
def execSt8 (d a : Spec) (i : BitVec 10) (s : State) : Out := issue (.st8 d a i) (semSt8 d a i) s

/-- ST.16 (R393, R394). -/
def semSt16 (d : Spec) (a : Spec) (i : BitVec 10) : State → Res :=
  (storeOp false d 2 (fun s => s.addr10 a i 2))
def execSt16 (d a : Spec) (i : BitVec 10) (s : State) : Out := issue (.st16 d a i) (semSt16 d a i) s

/-- ST.32 (R393, R394). -/
def semSt32 (d : Spec) (a : Spec) (i : BitVec 10) : State → Res :=
  (storeOp false d 4 (fun s => s.addr10 a i 4))
def execSt32 (d a : Spec) (i : BitVec 10) (s : State) : Out := issue (.st32 d a i) (semSt32 d a i) s

/-- ST.64 (R393, R394). -/
def semSt64 (d : Spec) (a : Spec) (i : BitVec 10) : State → Res :=
  (storeOp false d 8 (fun s => s.addr10 a i 8))
def execSt64 (d a : Spec) (i : BitVec 10) (s : State) : Out := issue (.st64 d a i) (semSt64 d a i) s

/-- LDX.64 (R367). -/
def semLdx64 (d : Spec) (a : Spec) (b : Spec) : State → Res :=
  (loadOp false d 8 (fun s => s.addrX a b 8) zx)
def execLdx64 (d a b : Spec) (f g : BitVec 1) (s : State) : Out := issue (.ldx64 d a b f g) (semLdx64 d a b) s

/-- LDX.S32 (R367). -/
def semLdxS32 (d : Spec) (a : Spec) (b : Spec) : State → Res :=
  (loadOp false d 4 (fun s => s.addrX a b 4) (sx 32))
def execLdxS32 (d a b : Spec) (f g : BitVec 1) (s : State) : Out := issue (.ldxS32 d a b f g) (semLdxS32 d a b) s

/-- STX.64 (R396). -/
def semStx64 (d : Spec) (a : Spec) (b : Spec) : State → Res :=
  (storeOp false d 8 (fun s => s.addrX a b 8))
def execStx64 (d a b : Spec) (f g : BitVec 1) (s : State) : Out := issue (.stx64 d a b f g) (semStx64 d a b) s

/-- STX.32 (R396). -/
def semStx32 (d : Spec) (a : Spec) (b : Spec) : State → Res :=
  (storeOp false d 4 (fun s => s.addrX a b 4))
def execStx32 (d a b : Spec) (f g : BitVec 1) (s : State) : Out := issue (.stx32 d a b f g) (semStx32 d a b) s

/-- LDQ: 16 bytes as one access, into d and d + 1 (R368). -/
def semLdq (d : Spec) (a : Spec) : State → Res :=
  (fun s => memOp true id (s.laneAccs fun l => { lane := l, va := s.rd a l, n := 16, acc := .load })
      (fun vals s => (s.putLoad d (vals.map fun x => (x.1, zx x.2))).putLoad (d + 1)
        (vals.map fun x => (x.1, zx (x.2 / 2 ^ 64)))) s)
def execLdq (d a : Spec) (f : BitVec 1) (s : State) : Out := issue (.ldq d a f) (semLdq d a) s

/-- STQ: d and d + 1 as one access of 16 bytes (R397). -/
def semStq (d : Spec) (a : Spec) : State → Res :=
  (fun s => memOp true id (s.laneAccs fun l =>
      { lane := l, va := s.rd a l, n := 16, acc := .store ((s.rd d l).toNat + (s.rd (d + 1) l).toNat * 2 ^ 64) })
      (fun _ s => s) s)
def execStq (d a : Spec) (f : BitVec 1) (s : State) : Out := issue (.stq d a f) (semStq d a) s

/-- LDA: an 8-byte atomic read, an acquire at its scope (R369). -/
def semLda (d : Spec) (a : Spec) (x : BitVec 3) : State → Res :=
  (fun s => memOp true id (s.laneAccs fun l => { lane := l, va := s.rd a l, n := 8, acc := .load })
      (fun vals s => (s.acquire x.toNat).putLoad d (vals.map fun y => (y.1, zx y.2)) .lda) s)
def execLda (d a : Spec) (x : BitVec 3) (s : State) : Out := issue (.lda d a x) (semLda d a x) s

/-- STR: an 8-byte atomic write, a release at its scope outside a task (R398). -/
def semStr (d : Spec) (a : Spec) (x : BitVec 3) : State → Res :=
  (fun s => memOp true (fun s => if s.me.taskId == 0 then s.release x.toNat else s)
      (s.laneAccs fun l => { lane := l, va := s.rd a l, n := 8, acc := .store (s.rd d l).toNat }) (fun _ s => s) s)
def execStr (d a : Spec) (x : BitVec 3) (s : State) : Out := issue (.str d a x) (semStr d a x) s

/-- The size of an LDV access and its extension (R167). -/
def ldvSize (x : Nat) : Nat := match x with | 0 => 8 | 1 | 2 => 4 | 3 | 4 => 2 | _ => 1
def ldvExt (x : Nat) : Nat → Word :=
  match x with | 1 => sx 32 | 3 => sx 16 | 5 => sx 8 | _ => zx

/-- The context, domain and version that an LDV of a lane resolved, for RETV to wait for (R170). -/
def State.ldvOf (s : State) (l : Nat) (va v : Word) : Option (Nat × Nat × Nat) :=
  let ctx := s.myCtxNum
  match s.globalOf (s.who s.me l) va 1 with
  | .ok (some a) => (match s.leafFor s.me.core ctx a with
    | .ok e => if leafVer e then some (ctx, leafDom e, v.toNat % 2 ^ 32) else none
    | .error _ => none)
  | _ => none

/-- LDV: a load of a named version (R166, R167, R370). -/
def semLdv (d : Spec) (a : Spec) (b : Spec) (x : BitVec 3) : State → Res :=
  (fun s =>
      let n := ldvSize x.toNat
      memOp true id
        (s.laneAccs fun l => { lane := l, va := s.rd a l, n := n, acc := .load, ver := some ((s.rd b l).toNat % 2 ^ 32) })
        (fun vals s => s.modMe fun g =>
          g.pendAll (g.key d) (vals.map fun y => (y.1, ldvExt x.toNat y.2)) fun l =>
            { by_ := .load, ldv := s.ldvOf l (s.rd a l) (s.rd b l) }) s)
def execLdv (d a b : Spec) (x : BitVec 3) (s : State) : Out := issue (.ldv d a b x) (semLdv d a b x) s

/-- PTOG: the global address behind a generic pointer (R112). -/
def semPtog (d : Spec) (a : Spec) : State → Res :=
  (fun s =>
      let r := s.me.E.map fun l => (l, s.ptog (s.who s.me l) (s.rd a l))
      match r.find? fun x => (match x.2 with | .error _ => true | .ok _ => false) with
      | some (l, _) => .trap .noaddr (s.rd a l) s
      | none => .done (s.putDirect d (r.map fun x => (x.1, match x.2 with | .ok y => y | .error _ => 0))))
def execPtog (d a : Spec) (f : BitVec 1) (s : State) : Out := issue (.ptog d a f) (semPtog d a) s

/-- One lane of a PREF (R380): a line brought in; nothing where the address would raise a cause, or where it lies in
local store, on a DEV page, in another package, or on a line in U. -/
def State.prefLane (s : State) (hint l : Nat) (va : Word) : State :=
  let w := s.who s.me l
  let s := s.prefetch w va 1
  match (if s.walkHeld w va 1 then .error .page else s.targets w va 1 1 .load) with
  | .ok [(.mem pa ty dom _, _)] =>
    let line := lineOf pa
    let cl := clusterOf w.core
    let inU := match (s.dirOf line).st with | .U _ => true | _ => false
    if ty == .dev || inU || s.bad.contains line then s
    else
      let h := if w.task != 0 then 1 else hint
      match ty with
      | .coh =>
        if h == 3 && dom.isNone then (match s.lineSt cl line with
          | some .M | some .E => s
          | _ => s.request line cl .rdX)
        else if h == 2 then s.llcFetch line
        else s.ensureRead cl line
      | .sco => if h == 2 then s.llcFetch line else s.scoFetch cl line
      | .ro => if h == 2 then s.llcFetch line else s.roFetch cl line
      | .dev => s
  | _ => s

/-- PREF (R380): it never traps, and orders nothing. -/
def semPref (a : Spec) (h : BitVec 3) : State → Res :=
  (fun s => .done ((s.vals a).foldl (fun s x => s.prefLane h.toNat x.1 x.2) s))
def execPref (a : Spec) (h : BitVec 3) (s : State) : Out := issue (.pref a h) (semPref a h) s

/-- FLSH: dirty SCO lines of the cluster written back, at the scopes of R356. -/
def semFlsh (x : BitVec 3) : State → Res :=
  (fun s => .done (s.release x.toNat))
def execFlsh (x : BitVec 3) (s : State) : Out := issue (.flsh x) (semFlsh x) s

/-- INVL: dirty SCO lines written back, then every SCO line invalidated, at the scopes of R356. -/
def semInvl (x : BitVec 3) : State → Res :=
  (fun s => .done (s.acquire x.toNat))
def execInvl (x : BitVec 3) (s : State) : Out := issue (.invl x) (semInvl x) s

/-! ### Atomics -/

/-- An atomic (R311): with `ar` a full fence at its scope before and after; relaxed with d = z it is a reduction form
where R127 admits it. -/
def atomicOp (op : AOp) (ar : Bool) (d a b : Spec) (x : BitVec 3) (s : State) : Res :=
  let red := !ar && d.toNat == 0x79 && op.reduces
  let fence (s : State) : State := if ar then s.acquire x.toNat else s
  memOp true fence
    (s.laneAccs fun l =>
      { lane := l, va := s.rd a l, n := op.size,
        acc := .atomic op ((s.rd b l).toNat % 2 ^ (8 * op.size)) ((s.rd d l).toNat % 2 ^ (8 * op.size)) red })
    (fun vals s => (fence s).putLong d (vals.map fun y => (y.1, op.ret y.2))) s

/-- AADD (R309, R310). -/
def execAadd (d a b : Spec) (x : BitVec 3) (s : State) : Out :=
  issue (.aadd d a b x) (atomicOp .add false d a b x) s

/-- AADD.AR (R309, R310). -/
def execAaddAr (d a b : Spec) (x : BitVec 3) (s : State) : Out :=
  issue (.aaddAr d a b x) (atomicOp .add true d a b x) s

/-- AADD.W (R309, R310). -/
def execAaddW (d a b : Spec) (x : BitVec 3) (s : State) : Out :=
  issue (.aaddW d a b x) (atomicOp .addW false d a b x) s

/-- AADD.W.AR (R309, R310). -/
def execAaddWAr (d a b : Spec) (x : BitVec 3) (s : State) : Out :=
  issue (.aaddWAr d a b x) (atomicOp .addW true d a b x) s

/-- AMIN.S (R309, R310). -/
def execAminS (d a b : Spec) (x : BitVec 3) (s : State) : Out :=
  issue (.aminS d a b x) (atomicOp .minS false d a b x) s

/-- AMIN.S.AR (R309, R310). -/
def execAminSAr (d a b : Spec) (x : BitVec 3) (s : State) : Out :=
  issue (.aminSAr d a b x) (atomicOp .minS true d a b x) s

/-- AMAX.S (R309, R310). -/
def execAmaxS (d a b : Spec) (x : BitVec 3) (s : State) : Out :=
  issue (.amaxS d a b x) (atomicOp .maxS false d a b x) s

/-- AMAX.S.AR (R309, R310). -/
def execAmaxSAr (d a b : Spec) (x : BitVec 3) (s : State) : Out :=
  issue (.amaxSAr d a b x) (atomicOp .maxS true d a b x) s

/-- AMIN.Z (R309, R310). -/
def execAminZ (d a b : Spec) (x : BitVec 3) (s : State) : Out :=
  issue (.aminZ d a b x) (atomicOp .minZ false d a b x) s

/-- AMIN.Z.AR (R309, R310). -/
def execAminZAr (d a b : Spec) (x : BitVec 3) (s : State) : Out :=
  issue (.aminZAr d a b x) (atomicOp .minZ true d a b x) s

/-- AMAX.Z (R309, R310). -/
def execAmaxZ (d a b : Spec) (x : BitVec 3) (s : State) : Out :=
  issue (.amaxZ d a b x) (atomicOp .maxZ false d a b x) s

/-- AMAX.Z.AR (R309, R310). -/
def execAmaxZAr (d a b : Spec) (x : BitVec 3) (s : State) : Out :=
  issue (.amaxZAr d a b x) (atomicOp .maxZ true d a b x) s

/-- AAND (R309, R310). -/
def execAand (d a b : Spec) (x : BitVec 3) (s : State) : Out :=
  issue (.aand d a b x) (atomicOp .and false d a b x) s

/-- AAND.AR (R309, R310). -/
def execAandAr (d a b : Spec) (x : BitVec 3) (s : State) : Out :=
  issue (.aandAr d a b x) (atomicOp .and true d a b x) s

/-- AOR (R309, R310). -/
def execAor (d a b : Spec) (x : BitVec 3) (s : State) : Out :=
  issue (.aor d a b x) (atomicOp .or false d a b x) s

/-- AOR.AR (R309, R310). -/
def execAorAr (d a b : Spec) (x : BitVec 3) (s : State) : Out :=
  issue (.aorAr d a b x) (atomicOp .or true d a b x) s

/-- AXOR (R309, R310). -/
def execAxor (d a b : Spec) (x : BitVec 3) (s : State) : Out :=
  issue (.axor d a b x) (atomicOp .xor false d a b x) s

/-- AXOR.AR (R309, R310). -/
def execAxorAr (d a b : Spec) (x : BitVec 3) (s : State) : Out :=
  issue (.axorAr d a b x) (atomicOp .xor true d a b x) s

/-- AXCH (R309, R310). -/
def execAxch (d a b : Spec) (x : BitVec 3) (s : State) : Out :=
  issue (.axch d a b x) (atomicOp .xch false d a b x) s

/-- AXCH.AR (R309, R310). -/
def execAxchAr (d a b : Spec) (x : BitVec 3) (s : State) : Out :=
  issue (.axchAr d a b x) (atomicOp .xch true d a b x) s

/-- ACAS (R309, R310). -/
def execAcas (d a b : Spec) (x : BitVec 3) (s : State) : Out :=
  issue (.acas d a b x) (atomicOp .cas false d a b x) s

/-- ACAS.AR (R309, R310). -/
def execAcasAr (d a b : Spec) (x : BitVec 3) (s : State) : Out :=
  issue (.acasAr d a b x) (atomicOp .cas true d a b x) s

/-- ACAS.W (R309, R310). -/
def execAcasW (d a b : Spec) (x : BitVec 3) (s : State) : Out :=
  issue (.acasW d a b x) (atomicOp .casW false d a b x) s

/-- ACAS.W.AR (R309, R310). -/
def execAcasWAr (d a b : Spec) (x : BitVec 3) (s : State) : Out :=
  issue (.acasWAr d a b x) (atomicOp .casW true d a b x) s

/-- AFADD.F (R309, R310). -/
def execAfaddF (d a b : Spec) (x : BitVec 3) (s : State) : Out :=
  issue (.afaddF d a b x) (atomicOp .faddF false d a b x) s

/-- AFADD.F.AR (R309, R310). -/
def execAfaddFAr (d a b : Spec) (x : BitVec 3) (s : State) : Out :=
  issue (.afaddFAr d a b x) (atomicOp .faddF true d a b x) s

/-- AFADD.D (R309, R310). -/
def execAfaddD (d a b : Spec) (x : BitVec 3) (s : State) : Out :=
  issue (.afaddD d a b x) (atomicOp .faddD false d a b x) s

/-- AFADD.D.AR (R309, R310). -/
def execAfaddDAr (d a b : Spec) (x : BitVec 3) (s : State) : Out :=
  issue (.afaddDAr d a b x) (atomicOp .faddD true d a b x) s

/-- AINC (R309, R310). -/
def execAinc (d a b : Spec) (x : BitVec 3) (s : State) : Out :=
  issue (.ainc d a b x) (atomicOp .inc false d a b x) s

/-- AINC.AR (R309, R310). -/
def execAincAr (d a b : Spec) (x : BitVec 3) (s : State) : Out :=
  issue (.aincAr d a b x) (atomicOp .inc true d a b x) s

/-- ADEC (R309, R310). -/
def execAdec (d a b : Spec) (x : BitVec 3) (s : State) : Out :=
  issue (.adec d a b x) (atomicOp .dec false d a b x) s

/-- ADEC.AR (R309, R310). -/
def execAdecAr (d a b : Spec) (x : BitVec 3) (s : State) : Out :=
  issue (.adecAr d a b x) (atomicOp .dec true d a b x) s

end Sys2Proof.Machine
end

