-- ==== Sys2Proof/Machine/Ray.lean ====
section
/-!
DEFINITION. The ray instructions RBOX and RTRI (R383 to R386): binary32, RNE, subnormals kept, no flag.
-/
namespace Sys2Proof.Machine

def rSub (x y : Nat) : Nat := (fadd b32 .rne false true x y).1
def rMul (x y : Nat) : Nat := (fmul b32 .rne false x y).1
def rDiv (x y : Nat) : Nat := (fdiv b32 .rne false x y).1
def rMin (x y : Nat) : Nat := (fminmax b32 false false x y).1
def rMax (x y : Nat) : Nat := (fminmax b32 false true x y).1
/-- x ≤ y, and x < y; false if either is a NaN (R384, R385). -/
def rLe (x y : Nat) : Bool := !b32.isNaN x && !b32.isNaN y && !b32.lt y x
def rLt (x y : Nat) : Bool := !b32.isNaN x && !b32.isNaN y && b32.lt x y

/-- The exact sum of signed products, rounded once (R385): a NaN operand, 0 × ∞ or ∞ − ∞ gives the default NaN; a sum
of zeros of one sign keeps it. Terms are (negated, x, y). -/
def sumProducts (l : List (Bool × Nat × Nat)) : Nat :=
  let neg (t : Bool × Nat × Nat) : Bool := (t.1 != b32.sign t.2.1) != b32.sign t.2.2
  let infT (t : Bool × Nat × Nat) : Bool := b32.isInf t.2.1 || b32.isInf t.2.2
  let zeroT (t : Bool × Nat × Nat) : Bool := b32.isZero t.2.1 || b32.isZero t.2.2
  if l.any fun t => b32.isNaN t.2.1 || b32.isNaN t.2.2 || (infT t && zeroT t) then b32.defNaN
  else if l.any infT then
    (if (l.any fun t => infT t && neg t) && (l.any fun t => infT t && !neg t) then b32.defNaN
     else b32.inf (l.any fun t => infT t && neg t))
  else
    let term (t : Bool × Nat × Nat) : Int × Int :=
      let m : Int := (b32.mag t.2.1 * b32.mag t.2.2 : Nat)
      (if neg t then -m else m, b32.lsb t.2.1 + b32.lsb t.2.2)
    let x := sumExact (l.map term)
    (roundInt b32 .rne false x.1 x.2 (if l.all fun t => zeroT t && neg t then some true else some false)).1

/-- A vector of three components. -/
abbrev Vec3 := Nat × Nat × Nat
def Vec3.sub (x y : Vec3) : Vec3 := (rSub x.1 y.1, rSub x.2.1 y.2.1, rSub x.2.2 y.2.2)
def Vec3.cross (x y : Vec3) : Vec3 :=
  let c (a b p q : Nat) : Nat := sumProducts [(false, a, q), (true, b, p)]
  (c x.2.1 x.2.2 y.2.1 y.2.2, c x.2.2 x.1 y.2.2 y.1, c x.1 x.2.1 y.1 y.2.1)
def Vec3.dot (x y : Vec3) : Nat := sumProducts [(false, x.1, y.1), (false, x.2.1, y.2.1), (false, x.2.2, y.2.2)]

/-- A lane's ray (R383). -/
structure RayRegs where
  o : Vec3
  rd : Vec3
  tmin : Nat
  tmax : Nat
  cullB : Bool
  cullF : Bool
  vmask : Nat
  deriving DecidableEq, Repr

def State.ray (s : State) (l : Nat) : RayRegs :=
  let r (n : Nat) : Nat := (s.me.readKey l (.o n)).toNat
  let lo (x : Nat) : Nat := x % 2 ^ 32
  let hi (x : Nat) : Nat := x / 2 ^ 32
  { o := (lo (r 8), hi (r 8), lo (r 9)), rd := (hi (r 9), lo (r 10), hi (r 10)), tmin := lo (r 11), tmax := hi (r 11),
    cullB := (r 12).testBit 0, cullF := (r 12).testBit 1, vmask := r 13 % 256 }

/-- A 32-bit field of a record. -/
def field32 (bs : List Byte) (off : Nat) : Nat := ofBytes ((bs.drop off).take 4)

/-- One child box against a ray: tn where it is hit (R384). -/
def boxHit (r : RayRegs) (bs : List Byte) (i : Nat) : Option Nat :=
  let f (k : Nat) : Nat := field32 bs (24 * i + 4 * k)
  let mins := [f 0, f 1, f 2]
  let maxs := [f 3, f 4, f 5]
  let pairs := mins.zip maxs
  if pairs.any fun p => b32.isNaN p.1 || b32.isNaN p.2 || rLt p.2 p.1 then none
  else
    let axes := pairs.zip [(r.o.1, r.rd.1), (r.o.2.1, r.rd.2.1), (r.o.2.2, r.rd.2.2)]
    let t := axes.map fun p =>
      let t0 := rMul (rSub p.1.1 p.2.1) p.2.2
      let t1 := rMul (rSub p.1.2 p.2.1) p.2.2
      (rMin t0 t1, rMax t0 t1)
    let tn := t.foldl (fun x p => rMax x p.1) r.tmin
    let tf := t.foldl (fun x p => rMin x p.2) r.tmax
    if rLe tn tf then some tn else none

/-- Inserts a hit child by its tn, ties to the lower index, which stands first (R384). -/
def insertHit (x : Nat × Nat) : List (Nat × Nat) → List (Nat × Nat)
  | [] => [x]
  | y :: r => if rLt x.2 y.2 then x :: y :: r else y :: insertHit x r

/-- The RBOX result (R384). -/
def boxResult (r : RayRegs) (bs : List Byte) : Word :=
  let hits := (upTo 4).filterMap fun i => (boxHit r bs i).map fun t => (i, t)
  let order := hits.foldl (fun l x => insertHit x l) []
  let near := match order with | [] => 0x7F800000 | (_, t) :: _ => t
  let ord := (imapFrom (fun j (x : Nat × Nat) => x.1 * 4 ^ j) 0 order).sum
  BitVec.ofNat 64 (near * 2 ^ 32 + hits.length * 2 ^ 12 + ord * 2 ^ 4 + maskOf (hits.map fun x => x.1))

/-- The RTRI result (R385). -/
def triResult (r : RayRegs) (bs : List Byte) : Word :=
  let v (k : Nat) : Vec3 := (field32 bs (12 * k), field32 bs (12 * k + 4), field32 bs (12 * k + 8))
  let one := 0x3F800000
  let dir : Vec3 := (rDiv one r.rd.1, rDiv one r.rd.2.1, rDiv one r.rd.2.2)
  let e1 := (v 1).sub (v 0)
  let e2 := (v 2).sub (v 0)
  let sv := Vec3.sub r.o (v 0)
  let p := dir.cross e2
  let q := Vec3.cross sv e1
  let det := Vec3.dot e1 p
  let u := rDiv (Vec3.dot sv p) det
  let w := rDiv (dir.dot q) det
  let t := rDiv (Vec3.dot e2 q) det
  let sum := addExact (b32.sval u) (b32.lsb u) (b32.sval w) (b32.lsb w)
  let inside := rLe 0 u && rLe 0 w && !b32.isInf u && !b32.isInf w && decide ((addExact sum.1 sum.2 (-1) 0).1 ≤ 0)
    && rLe r.tmin t && rLe t r.tmax
  let miss := Nat.land (field32 bs 36 % 256) r.vmask == 0 || b32.isZero det || b32.isNaN det
    || (!b32.sign det && r.cullF) || (b32.sign det && r.cullB) || !inside
  if miss then 0x7F800000
  else
    let h (x : Nat) : Nat := (fcvt b32 b16 .rne false false x).1
    BitVec.ofNat 64 (h w * 2 ^ 48 + h u * 2 ^ 32 + t)

/-- A record's targets in its lane: PROT on a DEV page or in another package (R386). -/
def State.recordAt (s : State) (l : Nat) (va : Word) (n al : Nat) : Except Cause (List (Target × Nat)) :=
  match s.targets (s.who s.me l) va n al .load with
  | .error c => .error c
  | .ok ts =>
    if ts.any fun t => match t.1 with | .mem _ ty _ _ => ty == .dev | .store _ _ => false | _ => true then .error .prot
    else .ok ts

/-- Records of all lanes, checked in ascending order (R386). -/
def State.recordsAt (s : State) (n al : Nat) : List (Nat × Word) → Except (Cause × Word) (List (Nat × List (Target × Nat)))
  | [] => .ok []
  | (l, va) :: rest =>
    match s.recordAt l va n al with
    | .error c => .error (c, va)
    | .ok t =>
      match s.recordsAt n al rest with
      | .error e => .error e
      | .ok r => .ok ((l, t) :: r)

/-- The first `n` bytes of a record's targets. -/
def trimTargets : Nat → List (Target × Nat) → List (Target × Nat)
  | _, [] => []
  | n, (t, k) :: r => if n == 0 then [] else if k ≤ n then (t, k) :: trimTargets (n - k) r else [(t, n)]

/-- A ray instruction: the records are checked, `used` bytes of each read, and the results written as a long-class
write (R386). -/
def rayOp (d a : Spec) (n al used : Nat) (f : RayRegs → List Byte → Word) (s : State) : Res :=
  let addrs := s.vals a
  let s := addrs.foldl (fun s x => s.prefetch (s.who s.me x.1) x.2 n) s
  if addrs.any fun x => s.walkHeld (s.who s.me x.1) x.2 n then .wait (s.modMe fun g => { g with wait := .bad })
  else
  match s.recordsAt n al addrs with
  | .error (c, va) => .trap c va s
  | .ok rs =>
    let accs : List Checked := rs.map fun r => ({ lane := r.1, va := 0, n := used, acc := .load }, trimTargets used r.2)
    if s.badData accs then .wait (s.modMe fun g => { g with wait := .bad })
    else
      let r := accs.foldl (fun (x : List (Nat × Word) × State) c =>
        let y := c.2.foldl (fun (p : List Byte × State) t =>
          let w := p.2.who p.2.me c.1.lane
          let z := p.2.loadAt w t.1 t.2
          (p.1 ++ z.1, z.2.anchor w t.1 t.2 none)) ([], x.2)
        (x.1 ++ [(c.1.lane, f (s.ray c.1.lane) y.1)], y.2)) ([], s)
      .done (r.2.putLoad d r.1)

/-- RBOX: a ray against four child boxes of a 128-byte node (R384). -/
def semRbox (d : Spec) (a : Spec) : State → Res :=
  (rayOp d a 128 128 96 boxResult)
def execRbox (d a : Spec) (f : BitVec 1) (s : State) : Out := issue (.rbox d a f) (semRbox d a) s

/-- RTRI: a ray against a triangle record of 48 bytes (R385). -/
def semRtri (d : Spec) (a : Spec) : State → Res :=
  (rayOp d a 48 16 40 triResult)
def execRtri (d a : Spec) (f : BitVec 1) (s : State) : Out := issue (.rtri d a f) (semRtri d a) s

end Sys2Proof.Machine
end

