-- ==== Sys2Proof/Machine/Rep.lean ====
section
/-!
DEFINITION. REP (R81 to R84): the word that follows is issued up to 64 times, one repeat a step, each as it would issue
alone; REPI counts them.
-/
namespace Sys2Proof.Machine

/-- The meaning of an instruction that may follow REP: OP 0x01 to 0x7C and 0x80 to 0x93 (R82). -/
def semOf (i : Instr) : Option (State → Res) :=
  match i with
  | .add d a b w _ _ => some (semAdd d a b w)
  | .sub d a b w _ _ => some (semSub d a b w)
  | .mul d a b w _ _ => some (semMul d a b w)
  | .mulhS d a b w _ _ => some (semMulhS d a b w)
  | .mulhZ d a b w _ _ => some (semMulhZ d a b w)
  | .and d a b w _ _ => some (semAnd d a b w)
  | .or d a b w _ _ => some (semOr d a b w)
  | .xor d a b w _ _ => some (semXor d a b w)
  | .shl d a b w _ _ => some (semShl d a b w)
  | .shr d a b w _ _ => some (semShr d a b w)
  | .sar d a b w _ _ => some (semSar d a b w)
  | .minS d a b w _ _ => some (semMinS d a b w)
  | .maxS d a b w _ _ => some (semMaxS d a b w)
  | .minZ d a b w _ _ => some (semMinZ d a b w)
  | .maxZ d a b w _ _ => some (semMaxZ d a b w)
  | .adc d a b w _ _ => some (semAdc d a b w)
  | .sbc d a b w _ _ => some (semSbc d a b w)
  | .cmpS a b _ _ => some (semCmpS a b)
  | .cmpZ a b _ _ => some (semCmpZ a b)
  | .divS d a b w _ _ => some (semDivS d a b w)
  | .divZ d a b w _ _ => some (semDivZ d a b w)
  | .remS d a b w _ _ => some (semRemS d a b w)
  | .remZ d a b w _ _ => some (semRemZ d a b w)
  | .addW d a b w _ _ => some (semAddW d a b w)
  | .subW d a b w _ _ => some (semSubW d a b w)
  | .mulW d a b w _ _ => some (semMulW d a b w)
  | .popc d a w _ => some (semPopc d a w)
  | .clz d a w _ => some (semClz d a w)
  | .brev d a w _ => some (semBrev d a w)
  | .bfx d a b w _ _ => some (semBfx d a b w)
  | .bfi d a b w _ _ => some (semBfi d a b w)
  | .faddD d a b w _ _ => some (semFaddD d a b w)
  | .fsubD d a b w _ _ => some (semFsubD d a b w)
  | .fmulD d a b w _ _ => some (semFmulD d a b w)
  | .ffmaD d a b w _ _ => some (semFfmaD d a b w)
  | .ffmsD d a b w _ _ => some (semFfmsD d a b w)
  | .ffnmD d a b w _ _ => some (semFfnmD d a b w)
  | .fminD d a b w _ _ => some (semFminD d a b w)
  | .fmaxD d a b w _ _ => some (semFmaxD d a b w)
  | .fdivD d a b w _ _ => some (semFdivD d a b w)
  | .fsqrtD d a w _ => some (semFsqrtD d a w)
  | .fcmpD a b _ _ => some (semFcmpD a b)
  | .fabsD d a w _ => some (semFabsD d a w)
  | .fnegD d a w _ => some (semFnegD d a w)
  | .fcpysD d a b w _ _ => some (semFcpysD d a b w)
  | .frndD d a m w _ => some (semFrndD d a m w)
  | .fclsD d a w _ => some (semFclsD d a w)
  | .faddF d a b w _ _ => some (semFaddF d a b w)
  | .fsubF d a b w _ _ => some (semFsubF d a b w)
  | .fmulF d a b w _ _ => some (semFmulF d a b w)
  | .ffmaF d a b w _ _ => some (semFfmaF d a b w)
  | .ffmsF d a b w _ _ => some (semFfmsF d a b w)
  | .ffnmF d a b w _ _ => some (semFfnmF d a b w)
  | .fminF d a b w _ _ => some (semFminF d a b w)
  | .fmaxF d a b w _ _ => some (semFmaxF d a b w)
  | .fdivF d a b w _ _ => some (semFdivF d a b w)
  | .fsqrtF d a w _ => some (semFsqrtF d a w)
  | .fcmpF a b _ _ => some (semFcmpF a b)
  | .fabsF d a w _ => some (semFabsF d a w)
  | .fnegF d a w _ => some (semFnegF d a w)
  | .fcpysF d a b w _ _ => some (semFcpysF d a b w)
  | .frndF d a m w _ => some (semFrndF d a m w)
  | .fclsF d a w _ => some (semFclsF d a w)
  | .cvtDF d a m => some (semCvtDF d a m)
  | .cvtFD d a m => some (semCvtFD d a m)
  | .cvtDS64 d a m => some (semCvtDS64 d a m)
  | .cvtS64D d a m => some (semCvtS64D d a m)
  | .cvtDZ64 d a m => some (semCvtDZ64 d a m)
  | .cvtZ64D d a m => some (semCvtZ64D d a m)
  | .cvtFS32 d a m => some (semCvtFS32 d a m)
  | .cvtS32F d a m => some (semCvtS32F d a m)
  | .cvtBF d a m => some (semCvtBF d a m)
  | .cvtFB d a m => some (semCvtFB d a m)
  | .cvtHF d a m => some (semCvtHF d a m)
  | .cvtFH d a m => some (semCvtFH d a m)
  | .qdxX8 d a g c => some (semQdxX8 d a g c)
  | .qdxX4 d a g c => some (semQdxX4 d a g c)
  | .dqxX8 d a b => some (semDqxX8 d a b)
  | .dqxX4 d a b => some (semDqxX4 d a b)
  | .frcpF d a w _ => some (semFrcpF d a w)
  | .frsqF d a w _ => some (semFrsqF d a w)
  | .fex2F d a w _ => some (semFex2F d a w)
  | .flg2F d a w _ => some (semFlg2F d a w)
  | .fsinF d a w _ => some (semFsinF d a w)
  | .fcosF d a w _ => some (semFcosF d a w)
  | .drca d a w _ => some (semDrca d a w)
  | .drsa d a w _ => some (semDrsa d a w)
  | .rbox d a _ => some (semRbox d a)
  | .rtri d a _ => some (semRtri d a)
  | .sel d a b c => some (semSel d a b c)
  | .mov d a w _ => some (semMov d a w)
  | .ccget d => some (semCcget d)
  | .ccset a _ => some (semCcset a)
  | .shflIdx d a b _ _ => some (semShflIdx d a b)
  | .shflXor d a b _ _ => some (semShflXor d a b)
  | .shflUp d a b _ _ => some (semShflUp d a b)
  | .shflDn d a b _ _ => some (semShflDn d a b)
  | .bcst d a b _ _ => some (semBcst d a b)
  | .vote d a _ => some (semVote d a)
  | .mtch d a _ => some (semMtch d a)
  | .xrd d a b _ => some (semXrd d a b)
  | .redAdd d b _ => some (semRedAdd d b)
  | .redMin d b _ => some (semRedMin d b)
  | .redMax d b _ => some (semRedMax d b)
  | .redFaddD d b _ => some (semRedFaddD d b)
  | .redFaddF d b _ => some (semRedFaddF d b)
  | .scanAdd d b _ => some (semScanAdd d b)
  | .scanFaddD d b _ => some (semScanFaddD d b)
  | .ldx64 d a b _ _ => some (semLdx64 d a b)
  | .ldxS32 d a b _ _ => some (semLdxS32 d a b)
  | .stx64 d a b _ _ => some (semStx64 d a b)
  | .stx32 d a b _ _ => some (semStx32 d a b)
  | .ldv d a b x => some (semLdv d a b x)
  | .lda d a x => some (semLda d a x)
  | .str d a x => some (semStr d a x)
  | .ptog d a _ => some (semPtog d a)
  | .pref a h => some (semPref a h)
  | .flsh x => some (semFlsh x)
  | .invl x => some (semInvl x)
  | .ldq d a _ => some (semLdq d a)
  | .stq d a _ => some (semStq d a)
  | .ldS8 d a i => some (semLdS8 d a i)
  | .ldZ8 d a i => some (semLdZ8 d a i)
  | .ldS16 d a i => some (semLdS16 d a i)
  | .ldZ16 d a i => some (semLdZ16 d a i)
  | .ldS32 d a i => some (semLdS32 d a i)
  | .ldZ32 d a i => some (semLdZ32 d a i)
  | .ld64 d a i => some (semLd64 d a i)
  | .st8 d a i => some (semSt8 d a i)
  | .st16 d a i => some (semSt16 d a i)
  | .st32 d a i => some (semSt32 d a i)
  | .st64 d a i => some (semSt64 d a i)
  | .addi d a i => some (semAddi d a i)
  | .andi d a i => some (semAndi d a i)
  | .ori d a i => some (semOri d a i)
  | .xori d a i => some (semXori d a i)
  | .cmpi a i => some (semCmpi a i)
  | .shli d a i => some (semShli d a i)
  | .shri d a i => some (semShri d a i)
  | .sari d a i => some (semSari d a i)
  | .muli d a i => some (semMuli d a i)
  | _ => none

/-- Which of the fields d, a and b an instruction uses as registers (R82). -/
def repFields (i : Instr) : Bool × Bool × Bool :=
  match i with
  | .add _ _ _ _ _ _ => (true, true, true)
  | .sub _ _ _ _ _ _ => (true, true, true)
  | .mul _ _ _ _ _ _ => (true, true, true)
  | .mulhS _ _ _ _ _ _ => (true, true, true)
  | .mulhZ _ _ _ _ _ _ => (true, true, true)
  | .and _ _ _ _ _ _ => (true, true, true)
  | .or _ _ _ _ _ _ => (true, true, true)
  | .xor _ _ _ _ _ _ => (true, true, true)
  | .shl _ _ _ _ _ _ => (true, true, true)
  | .shr _ _ _ _ _ _ => (true, true, true)
  | .sar _ _ _ _ _ _ => (true, true, true)
  | .minS _ _ _ _ _ _ => (true, true, true)
  | .maxS _ _ _ _ _ _ => (true, true, true)
  | .minZ _ _ _ _ _ _ => (true, true, true)
  | .maxZ _ _ _ _ _ _ => (true, true, true)
  | .adc _ _ _ _ _ _ => (true, true, true)
  | .sbc _ _ _ _ _ _ => (true, true, true)
  | .cmpS _ _ _ _ => (false, true, true)
  | .cmpZ _ _ _ _ => (false, true, true)
  | .divS _ _ _ _ _ _ => (true, true, true)
  | .divZ _ _ _ _ _ _ => (true, true, true)
  | .remS _ _ _ _ _ _ => (true, true, true)
  | .remZ _ _ _ _ _ _ => (true, true, true)
  | .addW _ _ _ _ _ _ => (true, true, true)
  | .subW _ _ _ _ _ _ => (true, true, true)
  | .mulW _ _ _ _ _ _ => (true, true, true)
  | .popc _ _ _ _ => (true, true, false)
  | .clz _ _ _ _ => (true, true, false)
  | .brev _ _ _ _ => (true, true, false)
  | .bfx _ _ _ _ _ _ => (true, true, true)
  | .bfi _ _ _ _ _ _ => (true, true, true)
  | .faddD _ _ _ _ _ _ => (true, true, true)
  | .fsubD _ _ _ _ _ _ => (true, true, true)
  | .fmulD _ _ _ _ _ _ => (true, true, true)
  | .ffmaD _ _ _ _ _ _ => (true, true, true)
  | .ffmsD _ _ _ _ _ _ => (true, true, true)
  | .ffnmD _ _ _ _ _ _ => (true, true, true)
  | .fminD _ _ _ _ _ _ => (true, true, true)
  | .fmaxD _ _ _ _ _ _ => (true, true, true)
  | .fdivD _ _ _ _ _ _ => (true, true, true)
  | .fsqrtD _ _ _ _ => (true, true, false)
  | .fcmpD _ _ _ _ => (false, true, true)
  | .fabsD _ _ _ _ => (true, true, false)
  | .fnegD _ _ _ _ => (true, true, false)
  | .fcpysD _ _ _ _ _ _ => (true, true, true)
  | .frndD _ _ _ _ _ => (true, true, false)
  | .fclsD _ _ _ _ => (true, true, false)
  | .faddF _ _ _ _ _ _ => (true, true, true)
  | .fsubF _ _ _ _ _ _ => (true, true, true)
  | .fmulF _ _ _ _ _ _ => (true, true, true)
  | .ffmaF _ _ _ _ _ _ => (true, true, true)
  | .ffmsF _ _ _ _ _ _ => (true, true, true)
  | .ffnmF _ _ _ _ _ _ => (true, true, true)
  | .fminF _ _ _ _ _ _ => (true, true, true)
  | .fmaxF _ _ _ _ _ _ => (true, true, true)
  | .fdivF _ _ _ _ _ _ => (true, true, true)
  | .fsqrtF _ _ _ _ => (true, true, false)
  | .fcmpF _ _ _ _ => (false, true, true)
  | .fabsF _ _ _ _ => (true, true, false)
  | .fnegF _ _ _ _ => (true, true, false)
  | .fcpysF _ _ _ _ _ _ => (true, true, true)
  | .frndF _ _ _ _ _ => (true, true, false)
  | .fclsF _ _ _ _ => (true, true, false)
  | .cvtDF _ _ _ => (true, true, false)
  | .cvtFD _ _ _ => (true, true, false)
  | .cvtDS64 _ _ _ => (true, true, false)
  | .cvtS64D _ _ _ => (true, true, false)
  | .cvtDZ64 _ _ _ => (true, true, false)
  | .cvtZ64D _ _ _ => (true, true, false)
  | .cvtFS32 _ _ _ => (true, true, false)
  | .cvtS32F _ _ _ => (true, true, false)
  | .cvtBF _ _ _ => (true, true, false)
  | .cvtFB _ _ _ => (true, true, false)
  | .cvtHF _ _ _ => (true, true, false)
  | .cvtFH _ _ _ => (true, true, false)
  | .qdxX8 _ _ _ _ => (true, true, false)
  | .qdxX4 _ _ _ _ => (true, true, false)
  | .dqxX8 _ _ _ => (true, true, true)
  | .dqxX4 _ _ _ => (true, true, true)
  | .frcpF _ _ _ _ => (true, true, false)
  | .frsqF _ _ _ _ => (true, true, false)
  | .fex2F _ _ _ _ => (true, true, false)
  | .flg2F _ _ _ _ => (true, true, false)
  | .fsinF _ _ _ _ => (true, true, false)
  | .fcosF _ _ _ _ => (true, true, false)
  | .drca _ _ _ _ => (true, true, false)
  | .drsa _ _ _ _ => (true, true, false)
  | .rbox _ _ _ => (true, true, false)
  | .rtri _ _ _ => (true, true, false)
  | .sel _ _ _ _ => (true, true, true)
  | .mov _ _ _ _ => (true, true, false)
  | .ccget _ => (true, false, false)
  | .ccset _ _ => (false, true, false)
  | .shflIdx _ _ _ _ _ => (true, true, true)
  | .shflXor _ _ _ _ _ => (true, true, true)
  | .shflUp _ _ _ _ _ => (true, true, true)
  | .shflDn _ _ _ _ _ => (true, true, true)
  | .bcst _ _ _ _ _ => (true, true, true)
  | .vote _ _ _ => (true, true, false)
  | .mtch _ _ _ => (true, true, false)
  | .xrd _ _ _ _ => (true, true, true)
  | .redAdd _ _ _ => (true, false, true)
  | .redMin _ _ _ => (true, false, true)
  | .redMax _ _ _ => (true, false, true)
  | .redFaddD _ _ _ => (true, false, true)
  | .redFaddF _ _ _ => (true, false, true)
  | .scanAdd _ _ _ => (true, false, true)
  | .scanFaddD _ _ _ => (true, false, true)
  | .ldx64 _ _ _ _ _ => (true, true, true)
  | .ldxS32 _ _ _ _ _ => (true, true, true)
  | .stx64 _ _ _ _ _ => (true, true, true)
  | .stx32 _ _ _ _ _ => (true, true, true)
  | .ldv _ _ _ _ => (true, true, true)
  | .lda _ _ _ => (true, true, false)
  | .str _ _ _ => (true, true, false)
  | .ptog _ _ _ => (true, true, false)
  | .pref _ _ => (false, true, false)
  | .flsh _ => (false, false, false)
  | .invl _ => (false, false, false)
  | .ldq _ _ _ => (true, true, false)
  | .stq _ _ _ => (true, true, false)
  | .ldS8 _ _ _ => (true, true, false)
  | .ldZ8 _ _ _ => (true, true, false)
  | .ldS16 _ _ _ => (true, true, false)
  | .ldZ16 _ _ _ => (true, true, false)
  | .ldS32 _ _ _ => (true, true, false)
  | .ldZ32 _ _ _ => (true, true, false)
  | .ld64 _ _ _ => (true, true, false)
  | .st8 _ _ _ => (true, true, false)
  | .st16 _ _ _ => (true, true, false)
  | .st32 _ _ _ => (true, true, false)
  | .st64 _ _ _ => (true, true, false)
  | .addi _ _ _ => (true, true, false)
  | .andi _ _ _ => (true, true, false)
  | .ori _ _ _ => (true, true, false)
  | .xori _ _ _ => (true, true, false)
  | .cmpi _ _ => (false, true, false)
  | .shli _ _ _ => (true, true, false)
  | .shri _ _ _ => (true, true, false)
  | .sari _ _ _ => (true, true, false)
  | .muli _ _ _ => (true, true, false)
  | _ => (false, false, false)

/-- A word with its stepped fields moved on by `k` (R83). -/
def repWord (N : IWord) (p q r : Bool) (k : Nat) : IWord :=
  N + BitVec.ofNat 32 ((if p then k * 2 ^ 17 else 0) + (if q then k * 2 ^ 10 else 0) + (if r then k * 2 ^ 3 else 0))

/-- A stepped field is a register that N uses, and names a v register in every repeat (R82). -/
def stepOk (step used : Bool) (N : IWord) (lo last : Nat) : Bool := !step || (used && decide (bitsAt N lo 7 + last ≤ 0x5F))

/-- LDQ and STQ name d + 1 as well as d (R368, R397). -/
def pairReg (i : Instr) : Nat :=
  match i with
  | .ldq _ _ _ => 1
  | .stq _ _ _ => 1
  | _ => 0

/-- REP stands at the last word of a segment (R82). -/
def State.lastWord (s : State) (pc : Word) : Bool :=
  s.myGrid.bramble &&
  (let m := s.smap s.myTeam.grid
   (upTo m.nseg).any fun i => s.segCode m i + s.segLen m i == pc.toNat + 4)

/-- The checks of R82 at the first issue of a REP: `last` is (count − 1) × stride. (DEDUCED, log entry 38.) -/
def State.repCheck (s : State) (N : IWord) (p q r : Bool) (n stride : Nat) : Option Cause :=
  let g := s.me
  match decode N with
  | .error _ => some .ill
  | .ok i =>
    let u := repFields i
    if (semOf i).isNone || !i.wf g.W || !stepOk p u.1 N 17 (n * stride + pairReg i) || !stepOk q u.2.1 N 10 (n * stride)
        || !stepOk r u.2.2 N 3 (n * stride) || s.lastWord g.pc || (g.sup && g.repi != 0) then some .ill
    else if (upTo (n + 1)).any fun j => (match decode (repWord N p q r (j * stride)) with
        | .ok x => !windowOk (usesOf x g s.myTeam.tix) g
        | .error _ => false) then some .winov
    else none

/-- A repeat has been performed: the next follows, or the lanes of E go on behind N (R83). -/
def State.repNext (s0 s : State) (word : Word) (n : Nat) : Res :=
  let i := s0.me.repi
  if i < n then .jumped (s.modMe fun g => { g with repi := i + 1 })
  else
    .over (s0.leave (s.modMe fun g => { g with repi := 0, repPc := none, repE := 0, repSup := false }) word true false
      (s0.me.E.map fun l => (l, s0.me.pc + 8)))

/-- One repeat (R83, R84). (DEDUCED, log entry 38.) -/
def State.repeat_ (s : State) (word : Word) (N : IWord) (p q r : Bool) (n stride : Nat) : Res :=
  let g := s.me
  let w := repWord N p q r (g.repi * stride)
  if n < g.repi then s.repNext s word n
  else
    match decode w with
    | .error _ => .trap .ill (w.setWidth 64) s
    | .ok i =>
      if !i.wf g.W then .trap .ill (w.setWidth 64) s
      else
        match s.ready i, semOf i with
        | .block, _ => .wait (s.modMe fun h => { h with wait := .regs })
        | .empty, _ => .trap .empty 0 s
        | .go, none => .trap .ill (w.setWidth 64) s
        | .go, some f =>
          match f s with
          | .done t => s.repNext t word n
          | .branch _ t => s.repNext t word n
          | .wait t => .wait (t.holdDests i s)
          | .trapIn c v m t => .trapIn c v m (t.modMe fun h => h.modLanes (fun l => g.E.contains l) fun _ x => { x with pcv := g.pc })
          | x => x

/-- REP (R81 to R84). A fault of the fetch of N comes before every check of R82. (DEDUCED, log entry 38.) -/
def State.rep (s : State) (word : Word) (n : Nat) (p q r : Bool) (stride : Nat) : Res :=
  let g := s.me
  match s.fetch g (g.pc + 4) with
  | (.fail c, t) => .trap c (g.pc + 4) t
  | (.held, t) | (.asks, t) => .wait t
  | (.word N, t) =>
    if g.repPc == some g.pc && g.repSup == g.sup then t.repeat_ word N p q r n stride
    else
      match t.repCheck N p q r n stride with
      | some c => .trap c word t
      | none =>
        (t.modMe fun h => { h with repPc := some g.pc, repE := g.eMask, repSup := g.sup }).repeat_ word N p q r n stride

def execRep (n : BitVec 6) (p q r : BitVec 1) (x : BitVec 2) (s : State) : Out :=
  issue (.rep n p q r x)
    (fun s => s.rep (wordVal (.rep n p q r x)) n.toNat (p == 1) (q == 1) (r == 1) (2 ^ x.toNat)) s

end Sys2Proof.Machine
end

