-- ==== Sys2Proof/Machine/Digest.lean ====
section
/-!
DEFINITION. SHA-256, by which the boot extends its measurement registers (R303). The manual names the function and does
not restate it; its constants are computed here from the primes that define them. (PRESUMED, log entry 31.)
-/
namespace Sys2Proof.Machine

/-- The greatest number whose `k`-th power is at most `x`: `r` and the bits below `2 ^ n` that still fit. -/
def rootFloor (k x : Nat) : Nat → Nat → Nat
  | 0, r => r
  | n + 1, r => rootFloor k x n (if (r + 2 ^ n) ^ k ≤ x then r + 2 ^ n else r)

/-- No number from 2 up divides `n`. -/
def isPrime (n : Nat) : Bool := decide (1 < n) && (upTo n).all fun d => decide (d < 2) || n % d != 0

/-- The first 64 primes. -/
def digestPrimes : List Nat := (upTo 312).filter isPrime

/-- The first 32 bits of the fraction of a prime's `k`-th root. -/
def rootFraction (k p : Nat) : BitVec 32 := BitVec.ofNat 32 (rootFloor k (p * 2 ^ (32 * k)) 40 0)

/-- A word rotated right by each distance, the results added without carry. -/
def spin (x : BitVec 32) (by_ : List Nat) : BitVec 32 := by_.foldl (fun acc n => acc ^^^ x.rotateRight n) 0

/-- The compression as two tracks of words, the latest first, each growing by one word a round. -/
structure Tracks where
  head : List (BitVec 32)
  tail : List (BitVec 32)
  deriving DecidableEq, Repr

/-- One round: both tracks take up the tail's fourth word with its mixed first three and the round's own word; the head
its own mixed words too, the tail the head's fourth. -/
def Tracks.round (t : Tracks) (own : BitVec 32) : Tracks :=
  let e (i : Nat) : BitVec 32 := t.tail.getD i 0
  let a (i : Nat) : BitVec 32 := t.head.getD i 0
  let select := e 2 ^^^ (e 0 &&& (e 1 ^^^ e 2))
  let majority := (a 0 &&& a 1) ||| (a 2 &&& (a 0 ||| a 1))
  let taken := own + select + spin (e 0) [6, 11, 25] + e 3
  { head := (taken + majority + spin (a 0) [2, 13, 22]) :: t.head, tail := (a 3 + taken) :: t.tail }

/-- A block's words, the latest first, followed by as many more as asked, each from those 2, 7, 15 and 16 before it. -/
def digestWords (block : List (BitVec 32)) (more : Nat) : List (BitVec 32) :=
  (upTo more).foldl (fun ws _ =>
    let ago (i : Nat) : BitVec 32 := ws.getD (i - 1) 0
    (ago 7 + ago 16 + (spin (ago 2) [17, 19] ^^^ ago 2 >>> 10) + (spin (ago 15) [7, 18] ^^^ ago 15 >>> 3)) :: ws) block.reverse

/-- One block of 16 words taken into the tracks: 64 rounds, whose last four words of each track add to what stood there. -/
def Tracks.absorb (t : Tracks) (block : List (BitVec 32)) : Tracks :=
  let own := (digestPrimes.map (rootFraction 3)).zipWith (· + ·) (digestWords block 48).reverse
  let u := own.foldl Tracks.round t
  { head := (u.head.take 4).zipWith (· + ·) t.head, tail := (u.tail.take 4).zipWith (· + ·) t.tail }

/-- The tracks before the first block, from the square roots of the first eight primes. -/
def Tracks.start : Tracks :=
  let r := (digestPrimes.take 8).map (rootFraction 2)
  { head := r.take 4, tail := r.drop 4 }

/-- The words of a number of 256 bits, the highest first. -/
def words256 (x : BitVec 256) : List (BitVec 32) := (upTo 8).map fun i => BitVec.ofNat 32 (x.toNat / 2 ^ (224 - 32 * i))

/-- SHA-256 of 64 bytes: a register's value and a digest, each with its highest byte first (R303). The second block is the
padding: a one, zeros, and the length, 512 bits. -/
def sha256Pair (x y : BitVec 256) : BitVec 256 :=
  let padding := (0x80000000#32 :: List.replicate 14 0#32) ++ [512#32]
  let t := (Tracks.start.absorb (words256 x ++ words256 y)).absorb padding
  BitVec.ofNat 256 ((t.head ++ t.tail).foldl (fun n w => n * 2 ^ 32 + w.toNat) 0)

end Sys2Proof.Machine
end

