-- ==== Sys2Proof/Machine/System.lean ====
section
/-!
DEFINITION. Host, boot and management (R15, R16, R295, R299 to R308): CXL.mem, bindings, measured boot and package reset,
SPDM requests, power and heat, and the snapshot registers.
-/
namespace Sys2Proof.Machine

/-! ### Host and bindings -/

/-- Bytes of a die's HBM (R113). -/
def dieHbm : Nat := 0x3000000000

/-- HOST_MEM_ACCESS (R113, R299): on the HBM of a die that is bound; not in recovery mode. A read of a line with an
uncorrectable error never completes (R277). -/
def execHostMemAccess (die addr : Nat) (write : Bool) (len : Nat) (payload : List Byte) (s : State) : Out :=
  let n := if write then payload.length else len
  let pa := die * dieHbm + addr
  if s.recovery.isSome || !decide (die < 4) || (tget die s.binds).isNone || !decide (addr + n ≤ dieHbm) || n == 0 then .next s
  else if write then .next (s.homeWrite pa payload)
  else if (linesOf pa n).any fun l => s.bad.contains l then .next s
  else
    let r := s.homeRead pa n
    .next { r.2 with replies := .hostData r.1 :: r.2.replies }

/-- HOST_BIND (R299, R300). -/
def execHostBind (die vh : Nat) (s : State) : Out :=
  if s.recovery.isNone && decide (die < 4) && (tget die s.binds).isNone then .next { s with binds := tset die vh s.binds } else .next s

/-- HOST_UNBIND (R301): deferred until no context of the die is resident. -/
def execHostUnbind (die : Nat) (s : State) : Out :=
  if (tget die s.binds).isSome && !s.unbinding.contains die then
    .next { s with unbinding := s.unbinding ++ [die] }.settleUnbinds
  else .next s

/-- CXL_LINK_TRAINING (R299): CXL.io and CXL.mem come up; CXL.cache is refused. In recovery mode no device is presented
(R302). -/
def execCxlLinkTraining (wantsCache : Bool) (s : State) : Out :=
  if s.recovery.isSome then .next s
  else .next { s with replies := (if wantsCache then [Reply.refused] else []) ++ .value 8 1 :: s.replies }

/-! ### Boot -/

/-- The stages from one on (R302, R303): the registers, and the index of the stage whose signature fails.
(DESIGN CHOICE, log entry 31; DESIGN CHOICE, log entry 49.) -/
def bootFrom : Nat → List (BitVec 256) → List Bool → List (BitVec 256) → List (BitVec 256) × Option Nat
  | 6, _, _, m => (m, none)
  | i, d :: ds, true :: gs, m => if i < 6 then bootFrom (i + 1) ds gs (m.set i (sha256Pair (m.getD i 0) d)) else (m, none)
  | i, _, _, m => (m, some i)

/-- PACKAGE_RESET (R302 to R304): the incarnation rises, the measurement registers start at zero and the stages 1 to 5 run
again, each after its signature has been verified. The package's number, its fuses, its temperature and its draw stay.
(DESIGN CHOICE, log entry 31; DESIGN CHOICE, log entry 49.) -/
def execPackageReset (digests : List (BitVec 256)) (signed : List Bool) (s : State) : Out :=
  let b := bootFrom 1 digests signed [0, 0, 0, 0, 0, 0]
  .next { State.reset with
    position := s.position, inc := (s.inc + 1) % 256, lscap := s.lscap, meas := b.1, recovery := b.2, draw := s.draw,
    hot := s.hot, stop := s.stop, temps := s.temps, fresh := s.fresh, sched := s.sched,
    replies := match b.2 with | some i => [.failed i] | none => [] }

/-- GET_MEASUREMENTS (R303): on the CXL DOE mailbox, port 0, or the management port, 1, which alone answers in recovery
mode (R302). (DESIGN CHOICE, log entry 9.) -/
def execGetMeasurements (port nonce : Nat) (s : State) : Out :=
  if s.recovery.isSome && port != 1 then .next s
  else
    let covered := s.meas.foldl (fun n r => n * 2 ^ 256 + r.toNat) (port * 2 ^ 256 + nonce)
    .next { s with replies := .measurements port nonce s.meas (Config.signature covered) :: s.replies }

/-! ### Sessions -/

/-- The management port accepts a request (R302, R305): it came over a session that stands, by its number and sealed under its
key, and the key is one that the operator has installed; the package is not in recovery mode. -/
def State.secure (s : State) (via : Nat × Nat) : Bool :=
  s.recovery.isNone && tget via.1 s.sessions == some via.2 && s.opKeys.contains via.2

/-! ### Power and heat -/

/-- The package power limit: at or below 5,200 W (R15). -/
def State.setLimit (s : State) (watts : Nat) : State := if watts ≤ 5200 then { s with limit := watts } else s

/-- POWER_LIMIT_WRITE (R15, R305). -/
def execPowerLimitWrite (watts : Sealed) (s : State) : Out := .next (if s.secure watts.via then s.setLimit watts.value else s)

/-- Staging channels of one of the 12 stacks: 1 to 16 (R295). -/
def State.setStaging (s : State) (stack n : Nat) : State :=
  if stack < 12 && decide (1 ≤ n) && decide (n ≤ 16) then { s with staging := tset stack n s.staging } else s

/-- STAGING_SETTING (R295, R305). -/
def execStagingSetting (stack : Sealed) (n : Nat) (s : State) : Out :=
  .next (if s.secure stack.via then s.setStaging stack.value n else s)

/-- Where a reading stands among the thresholds of R306: below 92 °C, below 95 °C, at 95 °C, above it, and at 105 °C. -/
def heatBand (t : Nat) : Nat := if t < 92 then 0 else if t < 95 then 1 else if t < 96 then 2 else if t < 105 then 3 else 4

/-- A die's sensor reads a temperature (R306): above 95 °C MMA issue is held until all sensors are below 92 °C, at 105 °C
every core stops until all are below 95 °C; the management port reports each crossing. (DESIGN CHOICE, log entry 33.) -/
def State.sensed (s : State) (die temp : Nat) : State :=
  let s : State := if heatBand (tgetD s.temps die 0) == heatBand temp then s
    else { s with replies := .value 9 (die * 1000 + temp) :: s.replies }
  let temps := tset die temp s.temps
  { s with temps := temps
           hot := decide (95 < temp) || (s.hot && temps.any fun e => decide (92 ≤ e.2))
           stop := decide (105 ≤ temp) || (s.stop && temps.any fun e => decide (95 ≤ e.2)) }

/-- THERMAL_HOLD (R306): a reading above 95 °C. -/
def execThermalHold (die temp : Nat) (s : State) : Out := .next (if 95 < temp then s.sensed die temp else s)

/-- THERMAL_STOP (R306): a reading of 105 °C or more. -/
def execThermalStop (die temp : Nat) (s : State) : Out := .next (if 105 ≤ temp then s.sensed die temp else s)

/-- THERMAL_CLEAR (R306): readings of the dies' sensors, from die 0 on. -/
def execThermalClear (temps : List Nat) (s : State) : Out :=
  .next ((imapFrom (fun i t => (i, t)) 0 temps).foldl (fun s x => s.sensed x.1 x.2) s)

/-! ### Snapshots -/

/-- The trigger of a source, 0 the management command and 1 the pin, reaches every block (R307, R308): it captures, or it
is missed; a source that SRC does not select triggers nothing. (DEDUCED, log entry 50.) -/
def State.trigger (s : State) (src : Nat) : State :=
  let c := s.snapCtl
  if c.src != src then s
  else if c.arm && !c.frozen then
    { s with snap := some s.toBlocks, snapCtl := { c with arm := false, frozen := true, seq := (c.seq + 1) % 2 ^ 32 } }
  else { s with snapCtl := { c with missed := min 255 (c.missed + 1) } }

/-- SNAPSHOT_TRIGGER (R305, R307, R308): by the pin, or by the management command over a session. (DEDUCED, log entry 50.) -/
def execSnapshotTrigger (via : Option (Nat × Nat)) (s : State) : Out :=
  .next (match via with
    | none => s.trigger 1
    | some v => if s.secure v then s.trigger 0 else s)

/-- Writing ARM = 1 releases a frozen capture and arms the next one (R308). -/
def State.rearm (s : State) : State := { s with snap := none, snapCtl := { s.snapCtl with arm := true, frozen := false } }

/-- SNAPSHOT_ARM (R305, R308): a write of ARM = 1 over a session under an operator's key, which must stand.
(DESIGN CHOICE, log entry 32.) -/
def execSnapshotArm (s : State) : Out := .next (if s.sessions.any fun e => s.secure e then s.rearm else s)

/-- Bits of MISSED written with one are cleared (R307). -/
def SnapCtl.clear (c : SnapCtl) (bits : Nat) : SnapCtl := { c with missed := Nat.land c.missed (255 - bits % 256) }

/-- SNAPSHOT_MISSED_CLEAR (R305, R307). -/
def execSnapshotMissedClear (bits : Sealed) (s : State) : Out :=
  .next (if s.secure bits.via then { s with snapCtl := s.snapCtl.clear bits.value } else s)

/-- The snapshot control register (R307). -/
def SnapCtl.word (c : SnapCtl) : Nat :=
  c.seq * 2 ^ 16 + c.missed * 2 ^ 8 + c.src * 4 + (if c.frozen then 2 else 0) + if c.arm then 1 else 0

/-- A write of the snapshot control register. The reserved codes 2 and 3 of SRC are stored and read back, and no trigger
matches them. (DESIGN CHOICE, log entry 75.) -/
def State.snapWrite (s : State) (v : Nat) : State :=
  let t : State := { s with snapCtl := { s.snapCtl.clear (bitsOf v 15 8) with src := bitsOf v 3 2 } }
  if v.testBit 0 then t.rearm else { t with snapCtl := { t.snapCtl with arm := false } }

/-! ### The management port -/

/-- MANAGEMENT_REQUEST (R305): only over a secure session under an operator's key. Kinds: 0 the power limit, 1 a core's
power-hold counter (R16), 2 a stack's staging channels, 3 a write of the snapshot control register, 4 its readout, 5 the
readout of the snapshot registers (zero when none is frozen), 6 the trigger command, 7 the index of a failing boot stage
(R302), the only one that answers in recovery mode beside the measurements. (DESIGN CHOICE, log entry 32.) -/
def execManagementRequest (via : Nat × Nat) (kind arg value : Nat) (s : State) : Out :=
  let say (x : Nat) : Out := .next { s with replies := .value kind x :: s.replies }
  if kind == 7 && s.recovery.isSome then .next { s with replies := .failed (s.recovery.getD 0) :: s.replies }
  else if !s.secure via then .next { s with replies := .refused :: s.replies }
  else
    match kind with
    | 0 => .next (s.setLimit value)
    | 1 => say (s.core arg).holds
    | 2 => .next (s.setStaging arg value)
    | 3 => .next (s.snapWrite value)
    | 4 => say s.snapCtl.word
    | 5 => .next { s with replies := .snapshot (if s.snapCtl.frozen then s.snap else none) :: s.replies }
    | 6 => .next (s.trigger 0)
    | _ => .next { s with replies := .refused :: s.replies }

end Sys2Proof.Machine
end

