-- ==== Sys2Proof/Machine/Dispatch.lean ====
section
/-!
DEFINITION. One arm per instruction: each a direct call of its meaning.
-/
namespace Sys2Proof.Machine

/-- The meaning of an instruction or event at a state. -/
def exec (i : Instr) (s : State) : Host.Outcome State Fault Refusal :=
  match i with
  | .add d a b w f g => Sys2Proof.Machine.execAdd d a b w f g s
  | .sub d a b w f g => Sys2Proof.Machine.execSub d a b w f g s
  | .mul d a b w f g => Sys2Proof.Machine.execMul d a b w f g s
  | .mulhS d a b w f g => Sys2Proof.Machine.execMulhS d a b w f g s
  | .mulhZ d a b w f g => Sys2Proof.Machine.execMulhZ d a b w f g s
  | .and d a b w f g => Sys2Proof.Machine.execAnd d a b w f g s
  | .or d a b w f g => Sys2Proof.Machine.execOr d a b w f g s
  | .xor d a b w f g => Sys2Proof.Machine.execXor d a b w f g s
  | .shl d a b w f g => Sys2Proof.Machine.execShl d a b w f g s
  | .shr d a b w f g => Sys2Proof.Machine.execShr d a b w f g s
  | .sar d a b w f g => Sys2Proof.Machine.execSar d a b w f g s
  | .minS d a b w f g => Sys2Proof.Machine.execMinS d a b w f g s
  | .maxS d a b w f g => Sys2Proof.Machine.execMaxS d a b w f g s
  | .minZ d a b w f g => Sys2Proof.Machine.execMinZ d a b w f g s
  | .maxZ d a b w f g => Sys2Proof.Machine.execMaxZ d a b w f g s
  | .adc d a b w f g => Sys2Proof.Machine.execAdc d a b w f g s
  | .sbc d a b w f g => Sys2Proof.Machine.execSbc d a b w f g s
  | .cmpS a b f g => Sys2Proof.Machine.execCmpS a b f g s
  | .cmpZ a b f g => Sys2Proof.Machine.execCmpZ a b f g s
  | .divS d a b w f g => Sys2Proof.Machine.execDivS d a b w f g s
  | .divZ d a b w f g => Sys2Proof.Machine.execDivZ d a b w f g s
  | .remS d a b w f g => Sys2Proof.Machine.execRemS d a b w f g s
  | .remZ d a b w f g => Sys2Proof.Machine.execRemZ d a b w f g s
  | .addW d a b w f g => Sys2Proof.Machine.execAddW d a b w f g s
  | .subW d a b w f g => Sys2Proof.Machine.execSubW d a b w f g s
  | .mulW d a b w f g => Sys2Proof.Machine.execMulW d a b w f g s
  | .popc d a w f => Sys2Proof.Machine.execPopc d a w f s
  | .clz d a w f => Sys2Proof.Machine.execClz d a w f s
  | .brev d a w f => Sys2Proof.Machine.execBrev d a w f s
  | .bfx d a b w f g => Sys2Proof.Machine.execBfx d a b w f g s
  | .bfi d a b w f g => Sys2Proof.Machine.execBfi d a b w f g s
  | .faddD d a b w f g => Sys2Proof.Machine.execFaddD d a b w f g s
  | .fsubD d a b w f g => Sys2Proof.Machine.execFsubD d a b w f g s
  | .fmulD d a b w f g => Sys2Proof.Machine.execFmulD d a b w f g s
  | .ffmaD d a b w f g => Sys2Proof.Machine.execFfmaD d a b w f g s
  | .ffmsD d a b w f g => Sys2Proof.Machine.execFfmsD d a b w f g s
  | .ffnmD d a b w f g => Sys2Proof.Machine.execFfnmD d a b w f g s
  | .fminD d a b w f g => Sys2Proof.Machine.execFminD d a b w f g s
  | .fmaxD d a b w f g => Sys2Proof.Machine.execFmaxD d a b w f g s
  | .fdivD d a b w f g => Sys2Proof.Machine.execFdivD d a b w f g s
  | .fsqrtD d a w f => Sys2Proof.Machine.execFsqrtD d a w f s
  | .fcmpD a b f g => Sys2Proof.Machine.execFcmpD a b f g s
  | .fabsD d a w f => Sys2Proof.Machine.execFabsD d a w f s
  | .fnegD d a w f => Sys2Proof.Machine.execFnegD d a w f s
  | .fcpysD d a b w f g => Sys2Proof.Machine.execFcpysD d a b w f g s
  | .frndD d a m w f => Sys2Proof.Machine.execFrndD d a m w f s
  | .fclsD d a w f => Sys2Proof.Machine.execFclsD d a w f s
  | .faddF d a b w f g => Sys2Proof.Machine.execFaddF d a b w f g s
  | .fsubF d a b w f g => Sys2Proof.Machine.execFsubF d a b w f g s
  | .fmulF d a b w f g => Sys2Proof.Machine.execFmulF d a b w f g s
  | .ffmaF d a b w f g => Sys2Proof.Machine.execFfmaF d a b w f g s
  | .ffmsF d a b w f g => Sys2Proof.Machine.execFfmsF d a b w f g s
  | .ffnmF d a b w f g => Sys2Proof.Machine.execFfnmF d a b w f g s
  | .fminF d a b w f g => Sys2Proof.Machine.execFminF d a b w f g s
  | .fmaxF d a b w f g => Sys2Proof.Machine.execFmaxF d a b w f g s
  | .fdivF d a b w f g => Sys2Proof.Machine.execFdivF d a b w f g s
  | .fsqrtF d a w f => Sys2Proof.Machine.execFsqrtF d a w f s
  | .fcmpF a b f g => Sys2Proof.Machine.execFcmpF a b f g s
  | .fabsF d a w f => Sys2Proof.Machine.execFabsF d a w f s
  | .fnegF d a w f => Sys2Proof.Machine.execFnegF d a w f s
  | .fcpysF d a b w f g => Sys2Proof.Machine.execFcpysF d a b w f g s
  | .frndF d a m w f => Sys2Proof.Machine.execFrndF d a m w f s
  | .fclsF d a w f => Sys2Proof.Machine.execFclsF d a w f s
  | .cvtDF d a m => Sys2Proof.Machine.execCvtDF d a m s
  | .cvtFD d a m => Sys2Proof.Machine.execCvtFD d a m s
  | .cvtDS64 d a m => Sys2Proof.Machine.execCvtDS64 d a m s
  | .cvtS64D d a m => Sys2Proof.Machine.execCvtS64D d a m s
  | .cvtDZ64 d a m => Sys2Proof.Machine.execCvtDZ64 d a m s
  | .cvtZ64D d a m => Sys2Proof.Machine.execCvtZ64D d a m s
  | .cvtFS32 d a m => Sys2Proof.Machine.execCvtFS32 d a m s
  | .cvtS32F d a m => Sys2Proof.Machine.execCvtS32F d a m s
  | .cvtBF d a m => Sys2Proof.Machine.execCvtBF d a m s
  | .cvtFB d a m => Sys2Proof.Machine.execCvtFB d a m s
  | .cvtHF d a m => Sys2Proof.Machine.execCvtHF d a m s
  | .cvtFH d a m => Sys2Proof.Machine.execCvtFH d a m s
  | .qdxX8 d a g c => Sys2Proof.Machine.execQdxX8 d a g c s
  | .qdxX4 d a g c => Sys2Proof.Machine.execQdxX4 d a g c s
  | .dqxX8 d a b => Sys2Proof.Machine.execDqxX8 d a b s
  | .dqxX4 d a b => Sys2Proof.Machine.execDqxX4 d a b s
  | .frcpF d a w f => Sys2Proof.Machine.execFrcpF d a w f s
  | .frsqF d a w f => Sys2Proof.Machine.execFrsqF d a w f s
  | .fex2F d a w f => Sys2Proof.Machine.execFex2F d a w f s
  | .flg2F d a w f => Sys2Proof.Machine.execFlg2F d a w f s
  | .fsinF d a w f => Sys2Proof.Machine.execFsinF d a w f s
  | .fcosF d a w f => Sys2Proof.Machine.execFcosF d a w f s
  | .drca d a w f => Sys2Proof.Machine.execDrca d a w f s
  | .drsa d a w f => Sys2Proof.Machine.execDrsa d a w f s
  | .rbox d a f => Sys2Proof.Machine.execRbox d a f s
  | .rtri d a f => Sys2Proof.Machine.execRtri d a f s
  | .sel d a b c => Sys2Proof.Machine.execSel d a b c s
  | .mov d a w f => Sys2Proof.Machine.execMov d a w f s
  | .ccget d => Sys2Proof.Machine.execCcget d s
  | .ccset a f => Sys2Proof.Machine.execCcset a f s
  | .shflIdx d a b f g => Sys2Proof.Machine.execShflIdx d a b f g s
  | .shflXor d a b f g => Sys2Proof.Machine.execShflXor d a b f g s
  | .shflUp d a b f g => Sys2Proof.Machine.execShflUp d a b f g s
  | .shflDn d a b f g => Sys2Proof.Machine.execShflDn d a b f g s
  | .bcst d a b f g => Sys2Proof.Machine.execBcst d a b f g s
  | .vote d a f => Sys2Proof.Machine.execVote d a f s
  | .mtch d a f => Sys2Proof.Machine.execMtch d a f s
  | .xrd d a b g => Sys2Proof.Machine.execXrd d a b g s
  | .redAdd d b g => Sys2Proof.Machine.execRedAdd d b g s
  | .redMin d b g => Sys2Proof.Machine.execRedMin d b g s
  | .redMax d b g => Sys2Proof.Machine.execRedMax d b g s
  | .redFaddD d b g => Sys2Proof.Machine.execRedFaddD d b g s
  | .redFaddF d b g => Sys2Proof.Machine.execRedFaddF d b g s
  | .scanAdd d b g => Sys2Proof.Machine.execScanAdd d b g s
  | .scanFaddD d b g => Sys2Proof.Machine.execScanFaddD d b g s
  | .ldx64 d a b f g => Sys2Proof.Machine.execLdx64 d a b f g s
  | .ldxS32 d a b f g => Sys2Proof.Machine.execLdxS32 d a b f g s
  | .stx64 d a b f g => Sys2Proof.Machine.execStx64 d a b f g s
  | .stx32 d a b f g => Sys2Proof.Machine.execStx32 d a b f g s
  | .ldv d a b x => Sys2Proof.Machine.execLdv d a b x s
  | .lda d a x => Sys2Proof.Machine.execLda d a x s
  | .str d a x => Sys2Proof.Machine.execStr d a x s
  | .ptog d a f => Sys2Proof.Machine.execPtog d a f s
  | .pref a h => Sys2Proof.Machine.execPref a h s
  | .flsh x => Sys2Proof.Machine.execFlsh x s
  | .invl x => Sys2Proof.Machine.execInvl x s
  | .ldq d a f => Sys2Proof.Machine.execLdq d a f s
  | .stq d a f => Sys2Proof.Machine.execStq d a f s
  | .ldS8 d a imm => Sys2Proof.Machine.execLdS8 d a imm s
  | .ldZ8 d a imm => Sys2Proof.Machine.execLdZ8 d a imm s
  | .ldS16 d a imm => Sys2Proof.Machine.execLdS16 d a imm s
  | .ldZ16 d a imm => Sys2Proof.Machine.execLdZ16 d a imm s
  | .ldS32 d a imm => Sys2Proof.Machine.execLdS32 d a imm s
  | .ldZ32 d a imm => Sys2Proof.Machine.execLdZ32 d a imm s
  | .ld64 d a imm => Sys2Proof.Machine.execLd64 d a imm s
  | .st8 d a imm => Sys2Proof.Machine.execSt8 d a imm s
  | .st16 d a imm => Sys2Proof.Machine.execSt16 d a imm s
  | .st32 d a imm => Sys2Proof.Machine.execSt32 d a imm s
  | .st64 d a imm => Sys2Proof.Machine.execSt64 d a imm s
  | .addi d a imm => Sys2Proof.Machine.execAddi d a imm s
  | .andi d a imm => Sys2Proof.Machine.execAndi d a imm s
  | .ori d a imm => Sys2Proof.Machine.execOri d a imm s
  | .xori d a imm => Sys2Proof.Machine.execXori d a imm s
  | .cmpi a imm => Sys2Proof.Machine.execCmpi a imm s
  | .shli d a imm => Sys2Proof.Machine.execShli d a imm s
  | .shri d a imm => Sys2Proof.Machine.execShri d a imm s
  | .sari d a imm => Sys2Proof.Machine.execSari d a imm s
  | .muli d a imm => Sys2Proof.Machine.execMuli d a imm s
  | .movi d imm => Sys2Proof.Machine.execMovi d imm s
  | .movh d imm => Sys2Proof.Machine.execMovh d imm s
  | .adpc d imm => Sys2Proof.Machine.execAdpc d imm s
  | .aadd d a b x => Sys2Proof.Machine.execAadd d a b x s
  | .aaddW d a b x => Sys2Proof.Machine.execAaddW d a b x s
  | .aminS d a b x => Sys2Proof.Machine.execAminS d a b x s
  | .amaxS d a b x => Sys2Proof.Machine.execAmaxS d a b x s
  | .aminZ d a b x => Sys2Proof.Machine.execAminZ d a b x s
  | .amaxZ d a b x => Sys2Proof.Machine.execAmaxZ d a b x s
  | .aand d a b x => Sys2Proof.Machine.execAand d a b x s
  | .aor d a b x => Sys2Proof.Machine.execAor d a b x s
  | .axor d a b x => Sys2Proof.Machine.execAxor d a b x s
  | .axch d a b x => Sys2Proof.Machine.execAxch d a b x s
  | .acas d a b x => Sys2Proof.Machine.execAcas d a b x s
  | .acasW d a b x => Sys2Proof.Machine.execAcasW d a b x s
  | .afaddF d a b x => Sys2Proof.Machine.execAfaddF d a b x s
  | .afaddD d a b x => Sys2Proof.Machine.execAfaddD d a b x s
  | .ainc d a b x => Sys2Proof.Machine.execAinc d a b x s
  | .adec d a b x => Sys2Proof.Machine.execAdec d a b x s
  | .aaddAr d a b x => Sys2Proof.Machine.execAaddAr d a b x s
  | .aaddWAr d a b x => Sys2Proof.Machine.execAaddWAr d a b x s
  | .aminSAr d a b x => Sys2Proof.Machine.execAminSAr d a b x s
  | .amaxSAr d a b x => Sys2Proof.Machine.execAmaxSAr d a b x s
  | .aminZAr d a b x => Sys2Proof.Machine.execAminZAr d a b x s
  | .amaxZAr d a b x => Sys2Proof.Machine.execAmaxZAr d a b x s
  | .aandAr d a b x => Sys2Proof.Machine.execAandAr d a b x s
  | .aorAr d a b x => Sys2Proof.Machine.execAorAr d a b x s
  | .axorAr d a b x => Sys2Proof.Machine.execAxorAr d a b x s
  | .axchAr d a b x => Sys2Proof.Machine.execAxchAr d a b x s
  | .acasAr d a b x => Sys2Proof.Machine.execAcasAr d a b x s
  | .acasWAr d a b x => Sys2Proof.Machine.execAcasWAr d a b x s
  | .afaddFAr d a b x => Sys2Proof.Machine.execAfaddFAr d a b x s
  | .afaddDAr d a b x => Sys2Proof.Machine.execAfaddDAr d a b x s
  | .aincAr d a b x => Sys2Proof.Machine.execAincAr d a b x s
  | .adecAr d a b x => Sys2Proof.Machine.execAdecAr d a b x s
  | .br c p => Sys2Proof.Machine.execBr c p s
  | .brg c p => Sys2Proof.Machine.execBrg c p s
  | .call p => Sys2Proof.Machine.execCall p s
  | .ret => Sys2Proof.Machine.execRet s
  | .jmp a => Sys2Proof.Machine.execJmp a s
  | .jmpl d a => Sys2Proof.Machine.execJmpl d a s
  | .spawn d a b => Sys2Proof.Machine.execSpawn d a b s
  | .exit => Sys2Proof.Machine.execExit s
  | .yield => Sys2Proof.Machine.execYield s
  | .resm d a => Sys2Proof.Machine.execResm d a s
  | .winb m => Sys2Proof.Machine.execWinb m s
  | .nop => Sys2Proof.Machine.execNop s
  | .trap c => Sys2Proof.Machine.execTrap c s
  | .eret => Sys2Proof.Machine.execEret s
  | .bkpt c => Sys2Proof.Machine.execBkpt c s
  | .svc c => Sys2Proof.Machine.execSvc c s
  | .join k => Sys2Proof.Machine.execJoin k s
  | .leave k => Sys2Proof.Machine.execLeave k s
  | .waitk k => Sys2Proof.Machine.execWaitk k s
  | .kget k a => Sys2Proof.Machine.execKget k a s
  | .kset k a => Sys2Proof.Machine.execKset k a s
  | .klog k j m op => Sys2Proof.Machine.execKlog k j m op s
  | .bart => Sys2Proof.Machine.execBart s
  | .barg => Sys2Proof.Machine.execBarg s
  | .waita d a b op => Sys2Proof.Machine.execWaita d a b op s
  | .fence k x => Sys2Proof.Machine.execFence k x s
  | .csrr d n => Sys2Proof.Machine.execCsrr d n s
  | .csrw a n => Sys2Proof.Machine.execCsrw a n s
  | .mma d a b x => Sys2Proof.Machine.execMma d a b x s
  | .mdrn d a b c => Sys2Proof.Machine.execMdrn d a b c s
  | .mzro d => Sys2Proof.Machine.execMzro d s
  | .mfil d a => Sys2Proof.Machine.execMfil d a s
  | .msav a => Sys2Proof.Machine.execMsav a s
  | .mrst a => Sys2Proof.Machine.execMrst a s
  | .bcpy a => Sys2Proof.Machine.execBcpy a s
  | .wtal a => Sys2Proof.Machine.execWtal a s
  | .wtan d a => Sys2Proof.Machine.execWtan d a s
  | .ffrt d a => Sys2Proof.Machine.execFfrt d a s
  | .tgcl a => Sys2Proof.Machine.execTgcl a s
  | .coll a => Sys2Proof.Machine.execColl a s
  | .cdec a => Sys2Proof.Machine.execCdec a s
  | .lock d a m => Sys2Proof.Machine.execLock d a m s
  | .lckt d a m => Sys2Proof.Machine.execLckt d a m s
  | .ulck d a m => Sys2Proof.Machine.execUlck d a m s
  | .lupg d a m => Sys2Proof.Machine.execLupg d a m s
  | .tskb d a => Sys2Proof.Machine.execTskb d a s
  | .tske => Sys2Proof.Machine.execTske s
  | .tska => Sys2Proof.Machine.execTska s
  | .publ d a => Sys2Proof.Machine.execPubl d a s
  | .retv d a b => Sys2Proof.Machine.execRetv d a b s
  | .vqry d a => Sys2Proof.Machine.execVqry d a s
  | .rep n p q r x => Sys2Proof.Machine.execRep n p q r x s
  | .recordArrival core n => Sys2Proof.Machine.execRecordArrival core n s
  | .arrivalBufferRefill core => Sys2Proof.Machine.execArrivalBufferRefill core s
  | .overflowRingDrain grid core => Sys2Proof.Machine.execOverflowRingDrain grid core s
  | .departureWaitTimeout gid => Sys2Proof.Machine.execDepartureWaitTimeout gid s
  | .brgWaitTimeout gid => Sys2Proof.Machine.execBrgWaitTimeout gid s
  | .binTimerExpire core bin => Sys2Proof.Machine.execBinTimerExpire core bin s
  | .binLaunch core bin => Sys2Proof.Machine.execBinLaunch core bin s
  | .groupPark gid => Sys2Proof.Machine.execGroupPark gid s
  | .groupReform gid => Sys2Proof.Machine.execGroupReform gid s
  | .groupBoost gid => Sys2Proof.Machine.execGroupBoost gid s
  | .occupancyReport core => Sys2Proof.Machine.execOccupancyReport core s
  | .replicationWindow grid => Sys2Proof.Machine.execReplicationWindow grid s
  | .replicaAdd grid => Sys2Proof.Machine.execReplicaAdd grid s
  | .bartArrival team tid => Sys2Proof.Machine.execBartArrival team tid s
  | .registerFill gid frame lane reg => Sys2Proof.Machine.execRegisterFill gid frame lane reg s
  | .rds cl line => Sys2Proof.Machine.execRds cl line s
  | .rdx cl line => Sys2Proof.Machine.execRdx cl line s
  | .upg cl line => Sys2Proof.Machine.execUpg cl line s
  | .rdu cl line kind => Sys2Proof.Machine.execRdu cl line kind s
  | .wrl cl line bytes => Sys2Proof.Machine.execWrl cl line bytes s
  | .pute cl line => Sys2Proof.Machine.execPute cl line s
  | .wb cl line => Sys2Proof.Machine.execWb cl line s
  | .wbu cl line => Sys2Proof.Machine.execWbu cl line s
  | .ack cl line => Sys2Proof.Machine.execAck cl line s
  | .fwdack cl line => Sys2Proof.Machine.execFwdack cl line s
  | .partialReturn cl line => Sys2Proof.Machine.execPartialReturn cl line s
  | .memoryData line => Sys2Proof.Machine.execMemoryData line s
  | .inv cl line => Sys2Proof.Machine.execInv cl line s
  | .fwds cl line => Sys2Proof.Machine.execFwds cl line s
  | .fwdx cl line => Sys2Proof.Machine.execFwdx cl line s
  | .rcl cl line => Sys2Proof.Machine.execRcl cl line s
  | .collMessage cl line => Sys2Proof.Machine.execCollMessage cl line s
  | .data cl line => Sys2Proof.Machine.execData cl line s
  | .wback cl line => Sys2Proof.Machine.execWback cl line s
  | .clusterEviction cl line => Sys2Proof.Machine.execClusterEviction cl line s
  | .llcEviction line => Sys2Proof.Machine.execLlcEviction line s
  | .spillQueueDrain slice => Sys2Proof.Machine.execSpillQueueDrain slice s
  | .pageWalk core ctx va => Sys2Proof.Machine.execPageWalk core ctx va s
  | .translationInvalidation ctx lo hi => Sys2Proof.Machine.execTranslationInvalidation ctx lo hi s
  | .copyOnWriteComplete ctx va => Sys2Proof.Machine.execCopyOnWriteComplete ctx va s
  | .vpoolResume gid => Sys2Proof.Machine.execVpoolResume gid s
  | .frameReclaim ctx dom page => Sys2Proof.Machine.execFrameReclaim ctx dom page s
  | .waitaRelease gid lane => Sys2Proof.Machine.execWaitaRelease gid lane s
  | .woundDelivery gid => Sys2Proof.Machine.execWoundDelivery gid s
  | .woundDeadlineExpiry team => Sys2Proof.Machine.execWoundDeadlineExpiry team s
  | .lkmatWrite ctx => Sys2Proof.Machine.execLkmatWrite ctx s
  | .mmaRetire core => Sys2Proof.Machine.execMmaRetire core s
  | .bceComplete team tag => Sys2Proof.Machine.execBceComplete team tag s
  | .contextCreate root domTab dies ctrLo ctrN qLo qN => Sys2Proof.Machine.execContextCreate root domTab dies ctrLo ctrN qLo qN s
  | .queueRegister ctx q addr => Sys2Proof.Machine.execQueueRegister ctx q addr s
  | .queueWake q => Sys2Proof.Machine.execQueueWake q s
  | .slotGrant => Sys2Proof.Machine.execSlotGrant s
  | .packetTake q => Sys2Proof.Machine.execPacketTake q s
  | .quantumExpiry q => Sys2Proof.Machine.execQuantumExpiry q s
  | .queueUnmap q => Sys2Proof.Machine.execQueueUnmap q s
  | .teamPlacement grid => Sys2Proof.Machine.execTeamPlacement grid s
  | .deadlinePreq grid => Sys2Proof.Machine.execDeadlinePreq grid s
  | .deadlineForced grid => Sys2Proof.Machine.execDeadlineForced grid s
  | .teamEnd team => Sys2Proof.Machine.execTeamEnd team s
  | .counterDecrement => Sys2Proof.Machine.execCounterDecrement s
  | .linkShareWindow ctx => Sys2Proof.Machine.execLinkShareWindow ctx s
  | .tvecEntry gid => Sys2Proof.Machine.execTvecEntry gid s
  | .contvEntry gid => Sys2Proof.Machine.execContvEntry gid s
  | .frameReady gid frame => Sys2Proof.Machine.execFrameReady gid frame s
  | .serviceReply seq => Sys2Proof.Machine.execServiceReply seq s
  | .faultBufferDrain die => Sys2Proof.Machine.execFaultBufferDrain die s
  | .uncorrectableError core pa => Sys2Proof.Machine.execUncorrectableError core pa s
  | .correctedError core pa => Sys2Proof.Machine.execCorrectedError core pa s
  | .preemptRequest team => Sys2Proof.Machine.execPreemptRequest team s
  | .forcedSave gid => Sys2Proof.Machine.execForcedSave gid s
  | .partitionSwap part => Sys2Proof.Machine.execPartitionSwap part s
  | .partitionRestore part => Sys2Proof.Machine.execPartitionRestore part s
  | .packetReceive src plane hdr body key ctr intact => Sys2Proof.Machine.execPacketReceive src plane hdr body key ctr intact s
  | .retryResend peer plane => Sys2Proof.Machine.execRetryResend peer plane s
  | .linkBringUp peer inc => Sys2Proof.Machine.execLinkBringUp peer inc s
  | .keyLoad peer dir key => Sys2Proof.Machine.execKeyLoad peer dir key s
  | .keyConfirm peer => Sys2Proof.Machine.execKeyConfirm peer s
  | .remoteRequest src ctx kind addr len rtag op payload mask => Sys2Proof.Machine.execRemoteRequest src ctx kind addr len rtag op payload mask s
  | .remoteResponse rtag status payload => Sys2Proof.Machine.execRemoteResponse rtag status payload s
  | .accessTableWrite idx base limit word2 => Sys2Proof.Machine.execAccessTableWrite idx base limit word2 s
  | .collectiveGroupRegister group ctx members staging => Sys2Proof.Machine.execCollectiveGroupRegister group ctx members staging s
  | .collectivePacket src ctx group seq dhash ops offset nbytes ovh payload => Sys2Proof.Machine.execCollectivePacket src ctx group seq dhash ops offset nbytes ovh payload s
  | .collectiveHop n => Sys2Proof.Machine.execCollectiveHop n s
  | .collComplete team tag => Sys2Proof.Machine.execCollComplete team tag s
  | .hostMemAccess die addr write len payload => Sys2Proof.Machine.execHostMemAccess die addr write len payload s
  | .hostUnbind die => Sys2Proof.Machine.execHostUnbind die s
  | .packageReset digests signed => Sys2Proof.Machine.execPackageReset digests signed s
  | .getMeasurements port nonce => Sys2Proof.Machine.execGetMeasurements port nonce s
  | .managementRequest session kind arg value => Sys2Proof.Machine.execManagementRequest session kind arg value s
  | .powerLimitWrite watts => Sys2Proof.Machine.execPowerLimitWrite watts s
  | .stagingSetting stack n => Sys2Proof.Machine.execStagingSetting stack n s
  | .thermalHold die temp => Sys2Proof.Machine.execThermalHold die temp s
  | .thermalStop die temp => Sys2Proof.Machine.execThermalStop die temp s
  | .thermalClear temps => Sys2Proof.Machine.execThermalClear temps s
  | .snapshotTrigger pin => Sys2Proof.Machine.execSnapshotTrigger pin s
  | .snapshotArm => Sys2Proof.Machine.execSnapshotArm s
  | .snapshotMissedClear bits => Sys2Proof.Machine.execSnapshotMissedClear bits s
  | .reservedEncoding word => Sys2Proof.Machine.execReservedEncoding word s
  | .fetchFault => Sys2Proof.Machine.execFetchFault s
  | .homeAtomic cl line off op arg cmp => Sys2Proof.Machine.execHomeAtomic cl line off op arg cmp s
  | .hostBind die vh => Sys2Proof.Machine.execHostBind die vh s
  | .cxlLinkTraining wantsCache => Sys2Proof.Machine.execCxlLinkTraining wantsCache s

end Sys2Proof.Machine
end

