-- ==== Sys2Proof/Machine/Service.lean ====
section
/-!
DEFINITION. The 16 control cores (R10, R298): their loads and stores, their reads of the CP's slot status words (R276), the
end of a context (R301), and the SPDM sessions that they hold (R287, R298, R305). What they execute to get there is outside
the model.
-/
namespace Sys2Proof.Machine

def State.control (s : State) (c : Nat) : Control := tgetD s.controls c {}
def State.setControl (s : State) (c : Nat) (x : Control) : State := { s with controls := tset c x s.controls }

/-- An access of a control core: a natural size, aligned. -/
def ctlSize (pa n : Nat) : Bool := (n == 1 || n == 2 || n == 4 || n == 8) && pa % n == 0

/-- A control core's request to another package (R113): its context number there is free. (DESIGN CHOICE, log entry 17.) -/
def State.controlFar (s : State) (c q pa n : Nat) (bs : Option (List Byte)) : State :=
  let d := s.draw1
  let off := pa % 256
  d.2.remoteAsk 0 (.control c) (Config.freeChoice d.1 % 4096)
    { peer := q, kind := if bs.isSome then 1 else 0, pa := pa - off, op := 0, parts := [(0, off, n, 0)], mask := (2 ^ n - 1) * 2 ^ off, vas := []
      data := match bs with | some l => List.replicate off 0 ++ l ++ List.replicate (256 - off - n) 0 | none => [] }

/-- A load or a store of a control core by the physical range (R113, R298): package memory coherently at its home, host
memory, another package by a fabric request, and a range that holds nothing refuses it. Of a device register the manual
gives no behaviour. (DESIGN CHOICE, log entry 17.) -/
def State.controlAccess (s : State) (c pa n : Nat) (bs : Option (List Byte)) : Out :=
  if !ctlSize pa n then .next s
  else
    match prange pa with
    | .hbm | .tier2 | .host =>
      (match bs with
       | some l => .next ((s.homeWrite pa l).setControl c {})
       | none =>
         if (linesOf pa n).any fun l => s.bad.contains l then .next s
         else let r := s.homeRead pa n; .next (r.2.setControl c { data := r.1 }))
    | .package q =>
      if q == s.position then .next (s.setControl c { err := some .prot })
      else .next (s.controlFar c q (pa % 2 ^ 47) n bs)
    | .device => .refused (.deviceRegister pa)
    | .none => .next (s.setControl c { err := some .prot })

/-- A context ends (R301): it has no grid any more; its queues, its cached translations and what Damson holds for it go with it, and an unbind that
waited for it goes on. -/
def State.endContext (s : State) (ctx : Nat) : State :=
  if s.grids.any fun e => e.2.ctx == ctx then s
  else
    let mine (e : Nat × Queue) : Bool := e.2.ctx == ctx
    let qs := (s.queues.filter mine).map fun e => e.1
    ({ s with ctxs := tdel ctx s.ctxs
              queues := s.queues.filter fun e => !mine e
              slots := s.slots.filter fun e => !qs.contains e.2
              tlb := s.tlb.filter fun t => t.ctx != ctx
              cows := s.cows.filter fun c => c.ctx != ctx
              keptFrames := s.keptFrames.filter fun f => f.1.ctx != ctx
              viewFrames := s.viewFrames.filter fun f => f.1.ctx != ctx } : State).settleUnbinds

/-- A control core acts. In recovery mode none does (R302). -/
def State.controlAct (s : State) (c : Nat) (a : CtlAct) : Out :=
  if s.recovery.isSome || !decide (c < 16) then .next s
  else
    match a with
    | .load pa n => s.controlAccess c pa n none
    | .store pa bs => s.controlAccess c pa bs.length (some bs)
    | .slotStatus k => .next (s.setControl c { data := toBytes 8 (s.slotWord k) })
    | .contextEnd x => .next (s.endContext x)
    | .openSession id key => .next { s with sessions := tset id key s.sessions }
    | .closeSession id => .next { s with sessions := tdel id s.sessions }

end Sys2Proof.Machine
end

