-- ==== Sys2Proof/Machine/Sched.lean ====
section
/-!
DEFINITION. The turns of the machine. Each step is one turn: the clock goes on, and a core issues one instruction of one
group on one of its pipes, or an event befalls, or a control core or the operator acts, or the sensors report. Which turn
comes is the world's choice (`State.sched`); with nothing fixed, the model's own schedule goes on. Within a pipe of a core
the choice among groups is R258's.
-/
namespace Sys2Proof.Machine

/-! ### One turn of a group -/

/-- What the present group does with a turn: a departure in progress goes on, a YIELD that waits goes on, and otherwise
the word at its issue address is fetched, decoded and performed (R69, R79). -/
def State.attempt (s : State) : Out :=
  if s.me.wait == .yield then execYield s
  else if !s.canIssue then execNop s
  else
    match s.fetch s.me s.me.pc with
    | (.held, t) | (.asks, t) => .next t
    | (.fail _, _) => execFetchFault s
    | (.word w, t) =>
      match decode w with
      | .error _ => execReservedEncoding w t
      | .ok i => exec i t

/-- A wait after which the instruction issues again when its condition may have come to hold. -/
def State.retry (s : State) (gid : Nat) : Bool :=
  let g := s.grp gid
  let u : State := { s with cur := gid }
  let moves : Bool := match u.attempt with
    | .next t => (t.grp gid).wait != g.wait
    | _ => true
  match g.wait with
  | .none => s.readyGroup gid
  | .page _ | .pool _ | .cow _ _ => false
  | .lock => g.lockSt.all fun e => e.2.isSome
  | .remote => !(s.remReqs.any fun r => r.gid == gid && r.use == .lanes)
  | .lkmat => (s.ctx (s.ctxOf g)).lkNew.isNone
  | .again => true
  | .tag | .room _ _ | .mma | .brg | .xrd | .ldv | .fence | .yield | .bad | .regs => moves

/-- A wound or a revocation is due to the group and can be delivered now (R193, R194, R434). -/
def State.deliverable (s : State) (gid : Nat) : Bool :=
  ((s.grp gid).woundDue || (s.grp gid).revokeDue) && s.canDeliver gid

/-- The group starts no instruction: its team is stopped (R253), or the issue of its core is (R15, R277, R306), all but what
completes an access in flight; or a wound or a revocation waits for its MMA to retire (R193, R194). -/
def State.heldBack (s : State) (gid : Nat) : Bool :=
  let g := s.grp gid
  let open_ : Bool := g.last || (match g.wait with | .remote | .again => true | _ => false)
  (((s.team g.team).stopped || s.halted g.core) && !open_) ||
    ((g.woundDue || g.revokeDue) && s.mmaInFlight gid && s.mayDeliver gid)

/-- The group can take a turn of its core. -/
def State.mayTurn (s : State) (gid : Nat) : Bool :=
  let g := s.grp gid
  g.loc == .onCore && g.trapDue.isNone && !s.heldBack gid &&
    (s.deliverable gid ||
      (if g.depart.isSome then !(match g.wait with | .room _ _ => true | _ => false) || s.retry gid
       else ({ s with cur := gid } : State).pastEnd.isSome || s.retry gid))

/-- The pipe of an OP value (R76). -/
def opPipe (op : Nat) : Pipe :=
  if op < 0x67 || (0x67 < op && op < 0x70) || (0x8A < op && op < 0xA0) || (0xDF < op && op < 0xE4) then .a else .m

/-- The pipe of what a group does next: of the instruction at its issue address, of N behind a REP (R82); everything else goes
by the control pipe. -/
def State.pipeOf (s : State) (gid : Nat) : Pipe :=
  let u : State := { s with cur := gid }
  let g := s.grp gid
  if !u.canIssue then .m
  else
    match u.fetch g g.pc with
    | (.word w, _) =>
      if w.toNat / 2 ^ 24 == 0xFF then
        (match u.fetch g (g.pc + 4) with
         | (.word n, _) => opPipe (n.toNat / 2 ^ 24)
         | _ => .m)
      else opPipe (w.toNat / 2 ^ 24)
    | _ => .m

/-- Whether one group goes before another (R258): boosted the longest, then the class, then the earliest formed, then the
lowest slot. -/
def State.before (s : State) (a b : Group) : Bool :=
  match a.boosted, b.boosted with
  | some x, some y => decide (x < y)
  | some _, none => true
  | none, some _ => false
  | none, none =>
    let ka := (s.gridOf a).cls
    let kb := (s.gridOf b).cls
    if ka != kb then decide (ka < kb)
    else if a.formedAt != b.formedAt then decide (a.formedAt < b.formedAt)
    else decide (a.slot < b.slot)

/-- The group of a core that issues next, on a pipe where one is named (R258). -/
def State.pickGroup (s : State) (core : Nat) (pipe : Option Pipe) : Option Nat :=
  ((s.groups.filter fun e => e.2.core == core && s.mayTurn e.1 && pipe.all fun p => s.pipeOf e.1 == p).foldl (fun b e => match b with
    | none => some e
    | some x => if s.before e.2 x.2 then some e else some x) none).map fun e => e.1

/-- A pipe of a core as one number, pipe A first. -/
def siteOf (core : Nat) (pipe : Option Pipe) : Nat := 2 * core + if pipe == some .a then 0 else 1

/-- A core's turn: on a pipe, or with the group that comes first on either (R258). -/
def State.issueOn (s : State) (core : Nat) (pipe : Option Pipe) : Out :=
  let s : State := { s with lastSite := siteOf core pipe }
  match s.pickGroup core pipe with
  | none => .next s
  | some g =>
    if s.deliverable g then execWoundDelivery g s
    else ({ s with cur := g } : State).attempt

/-! ### What the world does -/

/-- An event of the table, which is no instruction word: what befalls a group at its own issue is not among them. -/
def isEvent (i : Instr) : Bool :=
  (encode i).isNone && (match i with | .reservedEncoding _ | .fetchFault => false | _ => true)

/-- What a turn does. (DESIGN CHOICE, log entry 52.) -/
def State.takeAct (s : State) (a : Act) : Out :=
  match a with
  | .issue core pipe => s.issueOn (core % Config.cores) pipe
  | .event i => if isEvent i then exec i s else .next s
  | .control c a => s.controlAct c a
  | .operator key => .next { s with opKeys := if s.opKeys.contains key then s.opKeys else s.opKeys ++ [key] }
  | .sense w => .next { s with draw := w }

/-- Cores that run a launch (R251): the homes of its teams and the cores on which they have groups, less those whose issue
is stopped. -/
def State.coresOf (s : State) (g : Grid) : Nat :=
  let ts := g.teams.filter fun t => !(s.team t).saved
  let homes := (ts.map fun t => if (s.team t).paired then [(s.team t).home, (s.team t).home + 1] else [(s.team t).home]).flatten
  let others := (s.groups.filter fun e => e.2.loc == .onCore && ts.contains e.2.team).map fun e => e.2.core
  ((homes ++ others).eraseDups.filter fun c => !s.halted c).length

/-- A grid has a core whose issue is stopped. -/
def State.gridHalted (s : State) (g : Grid) : Bool := g.teams.any fun t => s.halted (s.team t).home

/-- What runs in clocks on cores whose issue is stopped is extended by the stop (R15): the waits of groups and of bins,
pre-emption and wound deadlines, windows of occupancy. -/
def State.extend (s : State) (n : Nat) : State :=
  let far (t : Nat) : Bool := s.halted (s.team t).home
  { s with
    groups := tmap (fun _ g => (if s.halted g.core then
      { g with readyAt := g.readyAt + n, waitingSince := g.waitingSince.map (· + n)
               wait := match g.wait with | .room c k => .room c (k + n) | w => w } else g)) s.groups
    cores := tmap (fun c x => if s.halted c then { x with bins := tmap (fun _ b => { b with expires := b.expires + n }) x.bins } else x) s.cores
    teams := tmap (fun _ t => if s.halted t.home then
      { t with preq := t.preq.map fun p => if p.deadline then p else { p with until_ := p.until_ + n }
               wound := t.wound.map (· + n) } else t) s.teams
    wounds := s.wounds.map fun w => if far w.team then { w with due := w.due.map (· + n) } else w
    grids := tmap (fun _ g => (if s.gridHalted g then { g with window := g.window + n } else g)) s.grids }

/-- Some core's issue is stopped. -/
def State.anyHalt (s : State) : Bool := s.stop || !s.stopped.isEmpty

/-- Clocks pass: TICK goes on, deadline launches use their cores, Bramble grids measure their occupancy, and each time 256
clocks have gone by the cores report theirs (R63, R93, R105, R251). (DESIGN CHOICE, log entry 54.) -/
def State.clock (s : State) (n : Nat) : State :=
  let maps := s.maps
  let use (k : Nat) (g : Grid) : Grid :=
    let g := if g.pkt.flags.testBit 5 then { g with used := g.used + n * s.coresOf g } else g
    if s.gridHalted g then g else s.tally maps n k g
  let u : State := { (if s.anyHalt then s.extend n else s) with tick := s.tick + n }
  let u : State := { u with grids := tmap use u.grids }
  if s.tick / 256 == u.tick / 256 then u else u.reportAll

/-! ### The model's own schedule -/

/-- The first value on its way to an empty register of a group. -/
def Group.nextFill (g : Group) : Option (Nat × RKey) :=
  ((g.qPend.find? fun p => !g.fullKey 0 p.key).map fun p => (0, p.key)).or <|
  (upTo g.W).findSome? fun l => ((g.lane l).th.pend.find? fun p => !g.fullKey l p.key).map fun p => (l, p.key)

/-- The number by which an event names a register. -/
def regNum : RKey → Nat
  | .v n => n
  | .o n => 256 + n
  | .q n => 512 + n
  | .none => 0

/-- The first value on its way to an empty register of a thread that stands in no group: team, tid, register. -/
def Rec.nextFill (r : Rec) : Option (Nat × Nat × Nat) :=
  (r.th.pend.find? fun p => r.th.empties.contains p.key).map fun p => (r.team, r.th.tid, regNum p.key)

/-- An event that is due to a group. -/
def State.groupEvent (s : State) (gid : Nat) (g : Group) : Option Out :=
  match g.trapDue with
  | some d =>
    if s.canEnter gid d.cause then some (if (s.team g.team).dest d.cause == .tvec then execTvecEntry gid s else execContvEntry gid s) else none
  | none =>
    match g.nextFill with
    | some (l, k) => some (execRegisterFill gid 0 l (regNum k) s)
    | none =>
      if g.reformDue && s.resident g.team && s.groupRoom g.core g.W g.R then some (execGroupReform gid s)
      else if g.waitedOut s.tick then some (if g.depart.isSome then execDepartureWaitTimeout gid s else execBrgWaitTimeout gid s)
      else if s.parkDue g && !s.mmaInFlight gid then some (execGroupPark gid s)
      else if s.boostDue gid then some (execGroupBoost gid s)
      else
        match g.wait with
        | .pool p =>
          if s.poolHas p then some (execVpoolResume gid s)
          else (s.reclaimIn p.ctx p.dom).map fun n => execFrameReclaim p.ctx p.dom n s
        | _ => none

/-- An event that is due to a core. -/
def State.coreEvent (s : State) (c : Nat) (x : Core) : Option Out :=
  ((x.mmaQ.head?.filter fun m => m.behind == 0).map fun _ => execMmaRetire c s).or <|
  ((x.bins.find? fun e => s.canLaunch c e.2 && x.bins.all fun f => !s.canLaunch c f.2 || decide (e.2.since ≤ f.2.since)).map fun e =>
    execBinLaunch c e.1 s).or <|
  (match s.firstSpilled c with
    | some (r, _) => if s.arriveRoom c r then some (execArrivalBufferRefill c s) else none
    | none => none).or <|
  (if x.transit.isEmpty then none else some (execRecordArrival c 0 s)).or <|
  (if (s.firstSpilled c).isNone then ((s.ringGrids c).find? fun g => s.ringMoves g c).map fun g => execOverflowRingDrain g c s
    else none).or <|
  match x.allRecs.findSome? Rec.nextFill with
  | some (t, i, k) => some (execRegisterFill 0 t i k s)
  | none => none

/-- An event that is due to a team. -/
def State.teamEvent (s : State) (t : Nat) (x : Team) : Option Out :=
  match x.frames.findSome? fun e => (({ toGState := e.2.st } : Group).nextFill).map fun y => (e.2.gid, e.1, y.1, y.2) with
  | some (gid, id, l, k) => some (execRegisterFill gid id l (regNum k) s)
  | none =>
  match x.frames.find? fun e => !e.2.tagged && s.frameReady e.2 with
  | some e => some (execFrameReady e.2.gid e.1 s)
  | none =>
    if x.ending && !s.recsOf t && s.bce.all (fun b => b.team != t)
        && s.collGroups.all (fun g => (tvals g.2.ops).all fun o => o.team != t)
        && (s.core x.tileCore).mmaQ.all (fun m => m.team != t) then some (execTeamEnd t s)
    else
      match x.preq with
      | some p =>
        if !p.deadline && decide (p.until_ ≤ s.tick) then ((s.onCores t).find? fun g => s.canForce g).map fun g => execForcedSave g s else none
      | none => none

/-- An event that is due to a queue. -/
def State.queueEvent (s : State) (q : Nat) (x : Queue) : Option Out :=
  match (s.qdesc q).1 with
  | none => none
  | some d =>
    match x.state with
    | .idle => if d.widx != d.ridx then some (execQueueWake q s) else none
    | .ready => if s.freeHwSlot.isSome || (s.wants 0 && s.victim.isSome) then some (execSlotGrant s) else none
    | .mapped =>
      if d.widx != d.ridx && (d.cls != 0 || (s.reserve q d.nres).isSome) then some (execPacketTake q s)
      else if d.widx == d.ridx && !(s.grids.any fun e => e.2.queue == q && !e.2.armed) then some (execQueueUnmap q s)
      else if s.quantumDue q then some (execQuantumExpiry q s)
      else none
    | .error => none

/-- A placement of a grid would do something: bring a saved team back, or place the next. -/
def State.placeDue (s : State) (g : Nat) (x : Grid) : Bool :=
  let saved := x.teams.filter fun t => (s.team t).saved
  s.mayPlace g &&
    (if saved.isEmpty then decide (x.next < x.pkt.total) && (s.place g).isSome
     else let t := s.restoreTeams saved; saved.any fun i => !(t.team i).saved)

/-- An event that is due to a grid. -/
def State.gridEvent (s : State) (g : Nat) (x : Grid) : Option Out :=
  if x.repl.isSome && (match x.repl with | some (_, c) => s.drained g c | none => false) then some (execReplicaAdd g s)
  else if s.placeDue g x then some (execTeamPlacement g s)
  else none

/-- A list from its k-th element on, the ones before it at its end. -/
def turned {α : Type} (k : Nat) (l : List α) : List α := l.drop (k % l.length) ++ l.take (k % l.length)

/-- The first event of a table that is due, from an entry that moves on with the clock. -/
def firstDue {α : Type} (k : Nat) (f : Nat → α → Option Out) (t : Tab α) : Option Out := (turned k t).findSome? fun e => f e.1 e.2

/-- What is due at a tick of its own: the end of a wound's time (R185), a deadline and its warning (R253), a window (R105). -/
def State.timedEvent (s : State) : Option Out :=
  ((s.teams.find? fun e => s.woundExpired e.1).map fun e =>
    execWoundDeadlineExpiry e.1 s).or <|
  (s.grids.findSome? fun e =>
    let d := e.2.pkt.flags.testBit 5
    if d && decide (e.2.pkt.deadline ≤ s.tick + usec 2) then
      (if e.2.fate != some (4, 0) || !(e.2.teams.any fun t => s.accessOpen t) then some (execDeadlineForced e.1 s) else none)
    else if d && decide (e.2.pkt.deadline ≤ s.tick + usec (((s.ctx e.2.ctx).ylim.toNat + 1049) / 1050 + 4))
        && e.2.teams.any (fun t => match (s.team t).preq with | some p => !p.deadline | none => true) then
      some (execDeadlinePreq e.1 s)
    else if e.2.bramble && e.2.admitted && decide (e.2.window + 4096 ≤ s.tick) then some (execReplicationWindow e.1 s)
    else none).or <|
  (s.ctxs.find? fun e => e.2.sentWin != s.tick / 1050 && (e.2.sentNow != 0 || e.2.sentLast != 0)).map fun e => execLinkShareWindow e.1 s

/-- Where events may be due, each place with the way to look there. -/
def State.eventPlaces (s : State) (k : Nat) : List (Unit → Option Out) :=
  [fun _ => firstDue k s.groupEvent s.groups,
   fun _ => firstDue k s.coreEvent s.cores,
   fun _ => firstDue k s.teamEvent s.teams,
   fun _ => s.bartMsgs.head?.map fun m => execBartArrival m.1 m.2 s,
   fun _ => (s.monitors.find? fun m => m.fired.isSome).map fun m => execWaitaRelease (if m.peer.isSome then 0 else m.gid) m.lane s,
   fun _ => (turned k s.cows).head?.map fun c => execCopyOnWriteComplete c.ctx (c.vpage * 65536) s,
   fun _ => (s.ctxs.find? fun e => e.2.lkNew.isSome).map fun e => execLkmatWrite e.1 s,
   fun _ => ((turned k s.bce).find? fun b => !(s.remReqs.any fun r => r.use == .bce b.team b.tag)).map fun b =>
      execBceComplete b.team b.tag s,
   fun _ => s.collGroups.findSome? fun g => ((tvals g.2.ops).find? fun o => s.collReady o).map fun o => execCollComplete o.team o.tag s,
   fun _ => (s.hops.findIdx? fun p => match tget p.group s.collGroups with
      | some g => (tget p.seq g.ops).isSome || seqPast g.next p.seq
      | none => true).map fun n => execCollectiveHop n s,
   fun _ => if s.decs.isEmpty then none else some (execCounterDecrement s),
   fun _ => firstDue k s.queueEvent s.queues,
   fun _ => firstDue k s.gridEvent s.grids,
   fun _ => if s.evq.length < Config.eventQueueSize then (s.fbuf.find? fun e => !e.2.isEmpty).map fun e => execFaultBufferDrain e.1 s else none,
   fun _ => (s.stopped.find? fun e => s.canPost e.1 e.2.kind).map fun e => execFaultBufferDrain e.1 s,
   fun _ => s.ctxs.findSome? fun e => (s.reclaimIn e.1 (k % 256)).map fun n => execFrameReclaim e.1 (k % 256) n s]

/-- An event that is due, if there is one: the model's own order, in which no place waits for another for ever.
(DESIGN CHOICE, log entry 52.) -/
def State.dueEvent (s : State) : Option Out :=
  (turned (s.tick / 2) (s.eventPlaces (s.tick / 32))).findSome? fun f => f ()

/-- The next pipe of a core with a group that may take a turn, from the one that issued last. -/
def State.nextSite (s : State) : Option Nat :=
  let l := (s.groups.filter fun e => s.mayTurn e.1).map fun e => siteOf e.2.core (some (s.pipeOf e.1))
  let least (l : List Nat) : Option Nat := l.foldl (fun b c => match b with | none => some c | some x => some (min x c)) none
  (least (l.filter fun c => decide (s.lastSite < c))).or (least l)

/-- The model's own schedule: what a tick brings, and otherwise events and issues in turn, each where the other has nothing to do. -/
def State.ownTurn (s : State) : Out :=
  match s.timedEvent.or (if s.tick % 2 == 0 then s.dueEvent else none) with
  | some o => o
  | none =>
    match s.nextSite with
    | some c => s.issueOn (c / 2) (some (if c % 2 == 0 then .a else .m))
    | none => s.dueEvent.getD (.next s)

/-- What a turn brings about elsewhere: locks revoked from teams whose accesses have ended keep nothing out (R158),
conflicts that arose wound their holders (R185), frames go back to rings that have room (R165), chunks
that waited for staging are staged (R295), slots of queues whose
teams are saved are free (R276), and teams all of whose groups have left are saved (R270). -/
def State.settle (s : State) : State :=
  let s := s.settleRevoked.newConflicts
  let s := if s.collWait.isEmpty then s else s.stageWaiting s.collWait.length
  let s := if s.keptFrames.isEmpty && s.viewFrames.isEmpty then s else s.returnKept
  (s.teams.foldl (fun s e => s.saveCheck e.1) s).settleSlots

/-- Stores whose copy is complete are performed before anything else happens (R172, R399). -/
def State.redo (s : State) : State :=
  (s.groups.filter fun e => e.2.wait == .again && e.2.loc == .onCore).foldl (fun s e =>
    match ({ s with cur := e.1 } : State).attempt with
    | .next t => t
    | _ => s) s

/-- Groups whose wait has ended are ready from now on (R258). -/
def State.wake (s : State) : State :=
  { s with groups := tmap (fun gid g =>
      let able := g.wait != .none && g.loc == .onCore && s.retry gid
      { g with able := able, readyAt := if able && !g.able then s.tick else g.readyAt }) s.groups }

/-- One turn: the clock goes on, the turn is taken, and what it brings about follows. (DESIGN CHOICE, log entry 13.) -/
def State.runTurn (s : State) : Out :=
  let o := match s.sched with
    | t :: rest => (({ s with sched := rest } : State).clock (1 + t.dt)).takeAct t.act
    | [] => (s.clock 1).ownTurn
  o.bind fun s => .next s.redo.settle.wake

/-! ### A program placed -/

/-- The page tables, context, grid, team and group of a program placed at virtual address 0x10000: sixteen threads of a
16-lane group on core 0, 128 registers each, the word at physical address 0x100000, the vector of traps behind it. -/
def placedGroup : Group :=
  { lanes := (upTo 16).map fun l => { occ := true, status := .ready, pcv := 0x10000#64, th := { tid := l } },
    k := [(0, 0xFFFF#64)], team := 1, W := 16, R := 128 }

def placedTeam : Team := { grid := 1, cap := 16, live := upTo 16, lsize := 65536, ntags := 64 }

def placedGrid : Grid :=
  { pkt := { entry := 0x10000, gridx := 1, gridy := 1, gridz := 1, tinit := 16, tcap := 16, gw := 16, regs := 8, tags := 64,
             lstore := 65536 },
    next := 1, teams := [1], admitted := true }

/-- The state with a program's one word placed, so that the next step fetches it. (DESIGN CHOICE, log entry 14.) -/
def State.place1 (s : State) (bs : List Byte) : State :=
  let mem := mwrite 0x100000 bs (mwrite 0x8008 (toBytes 8 0x10000F) (mwrite 0x6000 (toBytes 8 0x8001)
    (mwrite 0x4000 (toBytes 8 0x6001) (mwrite 0x2000 (toBytes 8 0x4001) s.mem))))
  { s with
    mem := mem, groups := [(1, placedGroup)], teams := [(1, placedTeam)], grids := [(1, placedGrid)],
    ctxs := [(0, { root := 0x2000, dies := 1, ctrN := 4096, tvec := 0x10100#64 })],
    nextGid := 2, nextTeam := 2, nextGrid := 2, nextTs := 1,
    cores := [], tasks := [], tlb := [], coh := {}, sco := [], ro := [], bad := [], stop := false, stopped := [],
    sched := [{ dt := 0, act := .issue 0 }] }

end Sys2Proof.Machine
end

