-- ==== Sys2Proof/Machine/Step.lean ====
section
/-!
DEFINITION. One step of the machine, and how a program's instruction comes to be the next one.
-/
namespace Sys2Proof.Machine

/-- One step: one turn. (DESIGN CHOICE, log entry 13.) -/
def step (s : State) : Host.Outcome State Fault Refusal := s.runTurn

/-- The state with an instruction word as the next one that step fetches: the machine selects its programs itself
(a queue, a packet, a placement), so this stands for that launch (notes/assumptions/14.md). (DESIGN CHOICE, log entry 14.) -/
def State.withFetchWord (s : State) (nbits w : Nat) : State := s.place1 (toBytes ((max nbits 32 + 7) / 8) (w % 2 ^ nbits))

end Sys2Proof.Machine
end

