-- ==== Sys2Proof/Safety.lean ====
section
/-!
DEFINITION. What counts as a safe run (a step answers a next state), and the terms in which claims speak of an issue:
when an instruction issues and completes in place, which parts of the device an instruction leaves alone, and what a
result of each class does to the lanes of the executing set.
-/
namespace Sys2Proof

/-- The machine goes on from a state. -/
def goesOn (s : Machine.State) : Prop := ∃ t, Machine.step s = .next t

/-- The machine stops at a state with a refusal. -/
def refuses (s : Machine.State) : Prop := ∃ r, Machine.step s = .refused r

/-- The machine goes on for `n` steps. -/
def safeFor : Nat → Machine.State → Prop
  | 0, _ => True
  | n + 1, s => ∃ t, Machine.step s = .next t ∧ safeFor n t

end Sys2Proof

namespace Sys2Proof.Machine

/-- The present group stands before an issue: no departure of it is in progress and no instruction of it waits for other
agents, it is on its core with a nonempty E and no trap that waits for its entry, and it does not stand behind its
segment's last word. -/
structure Stands (s : State) : Prop where
  staying : s.me.depart = none
  able : s.issuable = true
  inside : s.pastEnd = none
  fresh : s.me.marks = []

/-- Instruction `i` passes every check of R79 that stands before its meaning: its encoding, its privilege, its window
(steps 2 to 4), and the full/empty bits (R59). -/
structure Issues (i : Instr) (s : State) : Prop where
  stands : Stands s
  checks : preCheck i s.me s.myTeam.tix = none
  ready : s.ready i = .go

/-- No lane that goes on at the addresses given leaves its core's pinned segment (R92). -/
def StaysAt (s : State) (fall : Bool) (ts : List (Nat × Word)) : Prop :=
  ∀ x, s.localSeg s.me = some x → ∀ t ∈ ts, s.departs s.me x s.me.pc fall t.2 = false

/-- The next word of every lane of E (R32). -/
def State.nextWord (s : State) : List (Nat × Word) := s.me.E.map fun l => (l, s.me.pc + 4)

/-- The next word does not lie beyond the pinned segment. -/
def Falls (s : State) : Prop := StaysAt s true s.nextWord

/-- The state in which lanes go on at the addresses given. -/
def State.goneTo (s : State) (ts : List (Nat × Word)) : State := (s.modMe fun g => g.goTo ts).touch

/-- Only the present group changes: every other group, every byte of memory and of local store, and every other piece of
the device stays. -/
structure OnlyMe (s t : State) : Prop where
  rest : t = { s with groups := t.groups }
  others : ∀ n, n ≠ s.cur → tget n t.groups = tget n s.groups

/-- What a register result leaves in the present group outside its lanes and its uniform registers: all of it, but for
the clocks of the scheduler (R47, R258) and what an instruction that waits keeps (R85). -/
def GroupKept (g h : Group) : Prop :=
  h = { g with lanes := h.lanes, q := h.q, readyAt := h.readyAt, boosted := none, wait := .none,
               waitingSince := h.waitingSince, latched := none, fetched := [], last := false }

/-- What a destination holds in a lane of E after a result (R51, R56): the lane's value; a q register that of the lowest
lane of E; z, which takes nothing, reads as zero. -/
def destVal (g : Group) (k : RKey) (val : Nat → Word) (l : Nat) : Word :=
  match k with
  | .q _ => val g.lowE
  | .none => 0
  | _ => val l

/-- The effect of an instruction that writes a register (R32, R51, R56, R57, R60, R208). In each lane of E: d, where its
specifier names a register, holds the lane's value (a q register that of the lowest lane of E; z takes nothing); lat
holds `lat` where it is given; NZCV is replaced where `flags` gives one; FPSR takes the raised flags; pcv is the next
word. Every other register, every other lane and everything else in the device is unchanged. -/
structure RegEffect (s t : State) (d : Spec) (val : Nat → Word) (lat : Nat → Option Word) (flags : Nat → Option Nzcv)
    (raised : Nat → FpFlags) : Prop where
  only : OnlyMe s t
  kept : GroupKept s.me t.me
  out : ∀ l, l ∉ s.me.E → t.me.lane l = s.me.lane l
  lane : ∀ l, l ∈ s.me.E → t.me.lane l =
    { s.me.lane l with
      lat := (lat l).getD (s.me.lane l).lat, pcv := s.me.pc + 4, freed := none,
      th := { (s.me.lane l).th with
        v := (t.me.lane l).th.v, o := (t.me.lane l).th.o,
        nzcv := (flags l).getD (s.me.lane l).th.nzcv,
        fpsr := (s.me.lane l).th.fpsr ||| raised l } }
  dest : ∀ l, l ∈ s.me.E → t.me.readKey l (s.me.key d) = destVal s.me (s.me.key d) val l
  regs : ∀ l k, k ≠ s.me.key d → t.me.readKey l k = s.me.readKey l k

/-- The short class (R57): lat takes the result too, whether or not d names a register. -/
def ShortEffect (s t : State) (d : Spec) (val : Nat → Word) (flags : Nat → Option Nzcv) (raised : Nat → FpFlags) : Prop :=
  RegEffect s t d val (fun l => some (val l)) flags raised

/-- The direct class (R57): lat stays. -/
def DirectEffect (s t : State) (d : Spec) (val : Nat → Word) (flags : Nat → Option Nzcv) (raised : Nat → FpFlags) : Prop :=
  RegEffect s t d val (fun _ => none) flags raised

/-- A thread with a long-class result in flight (R54, R58): the register is empty, and the value is the last of those
that will arrive. -/
def Thread.awaits (t : Thread) (p : Pend) : Thread :=
  { t with empties := p.key :: t.empties.filter (· != p.key), pend := t.pend ++ [p] }

/-- What a long-class result leaves in a lane of E: a register of the lane is empty until the value arrives, and nothing
else changes; a q register and z change nothing in the lane. -/
def Lane.awaits (x : Lane) (p : Pend) : Lane :=
  match p.key with
  | .v _ | .o _ => { x with th := x.th.awaits p }
  | _ => x

end Sys2Proof.Machine
end

