-- ==== Sys2Proof/Certificates/Slice0/Obligations.lean ====
section
/-!
DEFINITION. The statements for the provers, each a named proposition; and the terms in which they speak (`Say.…`): what
the manual's tables give as an instruction's operands and results, written from the manual apart from the meanings. A
statement of a result has a next state as its conclusion, so that it also says where the instruction completes; its
effect (`ShortEffect` and its kin in Safety.lean) carries the frame. No statement rests on the value of a free value.
-/
open Sys2Proof Sys2Proof.Machine

/-! ### Encoding -/

/-- Every instruction word decodes to the instruction it was encoded from, with every operand at every value that its
field admits; and every constructor but the events has a word (R70 to R74). -/
def Obligations.EncodeThenDecode : Prop :=
  (∀ i w, encode i = some w → decode w = .ok i) ∧
  ∀ i, isEvent i = false → (∀ w, i ≠ .reservedEncoding w) → i ≠ .fetchFault → ∃ w, encode i = some w

/-- The converse: a word that decodes is the word of what it decodes to, so that no two words decode to one instruction
and no bit of a word is dropped (R72, R73). -/
def Obligations.DecodeThenEncode : Prop := ∀ w i, decode w = .ok i → encode i = some w

/-- The decoder reads the word that four bytes make, the first the least significant, and leaves the bytes behind them
(R69). Words written out from the encodings of the reference section decode to what they stand for: `BR.LT` three words
ahead (R324), `CALL` sixteen words ahead (R326), `FRCP.F v2, v1` and `DRSA v6, v5` (R341), `ADD v3, v1, v2` (R70, R71),
`COLL v4` (R336), and a word of OP 0x00, which is reserved (R80). -/
def Obligations.DecodeOfWords : Prop :=
  ((∀ w rest, decodeBytes (bytesOfWord w ++ rest) = (decode w).map fun i => (i, rest)) ∧
  ∀ bs : List Byte, bs.length < 4 → decodeBytes bs = .error .shortWord) ∧
  (decode 0xC0B00003#32 = .ok (.br 0xB 3) ∧
  decode 0xC2F00010#32 = .ok (.call 16) ∧
  decode 0x50040400#32 = .ok (.frcpF 2 1 0 0) ∧
  decode 0x570C1400#32 = .ok (.drsa 6 5 0 0) ∧
  decode 0x01060410#32 = .ok (.add 3 1 2 0 0 0) ∧
  decode 0xEB001000#32 = .ok (.coll 4) ∧
  decode 0x00000000#32 = .error .reservedOp)

/-! ### Reset and the step -/

/-- The package after reset: TICK is zero (R63), the measurement registers are zero (R303), no counted-launch counter
holds a value (R259), no capture has been taken or armed (R307), no context, queue, slot, grid, team, group or lock
exists, and memory lists nothing. (That memory lists nothing, so that every byte reads as zero, is the model's DESIGN
CHOICE of log entry 1, and that a package starts with no context and no queue its reading of log entry 18; what the
management controller keeps at reset is log entry 31: none of these is said by R63, R259, R303 or R307.) -/
def Obligations.ResetLeaves : Prop :=
  State.reset.tick = 0 ∧ State.reset.meas = [0, 0, 0, 0, 0, 0] ∧ (∀ n, tgetD State.reset.counters n {} = ({} : Counter)) ∧
  ({} : Counter).val = 0 ∧ ({} : Counter).armed = none ∧
  State.reset.snapCtl = { arm := false, frozen := false, src := 0, missed := 0, seq := 0 } ∧ State.reset.snap = none ∧
  State.reset.ctxs = [] ∧ State.reset.queues = [] ∧ State.reset.slots = [] ∧ State.reset.grids = [] ∧
  State.reset.teams = [] ∧ State.reset.groups = [] ∧ State.reset.holds = [] ∧ State.reset.tasks = [] ∧
  State.reset.mem = [] ∧ ∀ a, mget a State.reset.mem = 0

/-- A step is one turn. Where the turn of a core's pipe comes, R258 picks a group for the pipe (it picks none of a core that
is halted but to complete an access), no wound or revocation is to be delivered to that group, and the word at its issue
address decodes to an instruction, the step runs exactly that instruction; then follows what the instruction brings about
elsewhere: stores whose copy is complete (`State.redo`, R172), conflicts and saves that are complete (`State.settle`, R185,
R270), groups whose wait has ended (`State.wake`, R258). -/
def Obligations.StepRunsDecoded : Prop :=
  ∀ (s u v t : State) (core dt gid : Nat) (pipe : Option Pipe) (rest : List Turn) (w : IWord) (i : Instr),
    s.sched = { dt := dt, act := .issue core pipe } :: rest →
    u = { (({ s with sched := rest } : State).clock (1 + dt)) with lastSite := siteOf (core % 1024) pipe } →
    u.pickGroup (core % 1024) pipe = some gid → u.deliverable gid = false →
    v = { u with cur := gid } → v.me.wait ≠ .yield → v.canIssue = true →
    v.fetch v.me v.me.pc = (.word w, t) → decode w = .ok i →
    step s = Out.bind (exec i t) fun x => .next x.redo.settle.wake

/-- A step whose turn is an event of the table runs that event; a control core's turn does what it asks (R298); a key that
the operator installs is kept (R305); the sensors' report of the draw is kept (R15). Whatever the state, an event ends in a
next state, the end of a copy alone not where the bytes it moves are a device's registers (R298: the manual does not give
their contents), which is the one stop that any instruction of the table has. -/
def Obligations.StepRunsEvent : Prop :=
  (∀ (s u : State) (dt : Nat) (rest : List Turn) (a : Act), s.sched = { dt := dt, act := a } :: rest →
    u = ({ s with sched := rest } : State).clock (1 + dt) →
    (∀ i, a = .event i → isEvent i = true → step s = Out.bind (exec i u) fun x => .next x.redo.settle.wake) ∧
    (∀ c act, a = .control c act → step s = Out.bind (u.controlAct c act) fun x => .next x.redo.settle.wake) ∧
    (∀ key, a = .operator key → key ∉ u.opKeys →
      step s = .next ({ u with opKeys := u.opKeys ++ [key] } : State).redo.settle.wake) ∧
    ∀ watts, a = .sense watts → step s = .next ({ u with draw := watts } : State).redo.settle.wake) ∧
  (∀ i s, isEvent i = true → (∀ team tag, i ≠ .bceComplete team tag) → ∃ t, exec i s = .next t) ∧
  ∀ i s, (∃ t, exec i s = .next t) ∨ ∃ pa, exec i s = .refused (.deviceRegister pa)

/-- What a fetch reads: an address outside the global window fails with NOADDR, before every other check (R109), one that is
no multiple of 4 with ALIGN (R69). Code of the segment that the core pins for the grid comes from its instruction store
(R91). All other code is translated: where the walk reads a line with an uncorrectable error the fetch waits (R277); where
the translation is refused the fetch fails with the cause that it gives; a word in a line with an uncorrectable error makes
it wait; else it is the four bytes at the physical address, the first the least significant (R69): at the home for COH and
DEV, the partials of a line in U combined first (R129), and through the cluster cache for SCO and RO (R120). -/
def Obligations.FetchReads : Prop :=
  ∀ (s : State) (g : Group) (pc : Word),
    (window pc ≠ 0 → s.fetch g pc = (.fail .noaddr, s)) ∧
    (window pc = 0 → pc.toNat % 4 ≠ 0 → s.fetch g pc = (.fail .align, s)) ∧
    (∀ x : Seg, window pc = 0 → pc.toNat % 4 = 0 → s.localSeg g = some x → x.base ≤ pc.toNat → pc.toNat < x.base + x.len →
      let at_ (i : Nat) : Byte := x.code.getD (pc.toNat - x.base + i) 0
      s.fetch g pc = (.word (wordOfBytes (at_ 0) (at_ 1) (at_ 2) (at_ 3)), s)) ∧
    ∀ t, window pc = 0 → pc.toNat % 4 = 0 → (∀ x, s.localSeg g = some x → x.holds pc = false) →
      t = s.tlbFill g.core (s.ctxOf g) pc.toNat →
      (t.tlbFind g.core (s.ctxOf g) pc.toNat = none → t.walkBad (s.ctxOf g) pc.toNat = true → s.fetch g pc = (.held, t)) ∧
      (((∃ e, t.tlbFind g.core (s.ctxOf g) pc.toNat = some e) ∨ t.walkBad (s.ctxOf g) pc.toNat = false) →
      (∀ c, t.globalAt g.core (s.ctxOf g) pc.toNat .fetch = .error c → s.fetch g pc = (.fail c, t)) ∧
      ∀ pa ty dom va, t.globalAt g.core (s.ctxOf g) pc.toNat .fetch = .ok (.mem pa ty dom va) →
        (t.bad.contains (lineOf pa) = true → s.fetch g pc = (.held, t)) ∧
        (t.bad.contains (lineOf pa) = false →
        (∀ u, (ty = .coh ∨ ty = .dev) → u = t.collect (lineOf pa) → s.fetch g pc =
          (.word (wordOfBytes (mget pa u.mem) (mget (pa + 1) u.mem) (mget (pa + 2) u.mem) (mget (pa + 3) u.mem)), u)) ∧
        ∀ u, (ty = .sco ∨ ty = .ro) → u = t.readPrep (clusterOf g.core) ty pa 4 →
          let at_ (i : Nat) : Byte := u.clusterByte (clusterOf g.core) ty (pa + i)
          s.fetch g pc = (.word (wordOfBytes (at_ 0) (at_ 1) (at_ 2) (at_ 3)), u)))

/-! ### Memory's form -/

/-- Memory's canonical form holds after reset: addresses rise, and no byte listed is zero. -/
def Obligations.MemoryFormAtReset : Prop := Memory.wf State.reset.mem = true

/-- Every step keeps memory's canonical form. -/
def Obligations.MemoryFormKept : Prop :=
  ∀ s t : State, Memory.wf s.mem = true → step s = .next t → Memory.wf t.mem = true
/-! ### The checks of an issue, and the exceptions -/

/-- The checks of R79 in their order: an encoding that is not well formed raises ILL; then a privilege check that fails
its cause; then a v register beyond the main file WINOV. Each traps with the instruction's word as TVAL and without any
other effect. Privilege (R62, R80, R265): in user mode ERET, and a CSRR or CSRW of a number of 0x40 or above, raise PRIV,
the CSRW even where the register is read-only; a CSRW that the mode may make to a read-only register raises ILL. -/
def Obligations.ChecksInOrder : Prop :=
  (∀ (i : Instr) (s : State) (w : IWord), encode i = some w → Stands s →
    (i.wf s.me.W = false → exec i s = .next (s.raise .ill (w.setWidth 64))) ∧
    (∀ c, i.wf s.me.W = true → privCheck i s.me.sup = some c → exec i s = .next (s.raise c (w.setWidth 64))) ∧
    (i.wf s.me.W = true → privCheck i s.me.sup = none → windowOk (usesOf i s.me s.myTeam.tix) s.me = false →
      exec i s = .next (s.raise .winov (w.setWidth 64)))) ∧
  (∀ (s : State), Stands s →
    (s.me.sup = false → exec .eret s = .next (s.raise .priv 0xCD000000#64)) ∧
    (∀ (d n : Spec), s.me.sup = false → 0x40 ≤ n.toNat → (Instr.csrr d n).wf s.me.W = true →
      exec (.csrr d n) s = .next (s.raise .priv (wordVal (.csrr d n)))) ∧
    (∀ (a n : Spec), s.me.sup = false → 0x40 ≤ n.toNat → (Instr.csrw a n).wf s.me.W = true →
      exec (.csrw a n) s = .next (s.raise .priv (wordVal (.csrw a n)))) ∧
    ∀ (a n : Spec), (n.toNat < 0x40 ∨ s.me.sup = true) → (Instr.csrw a n).wf s.me.W = true →
      (5 ≤ n.toNat ∧ n.toNat ≤ 0x0E ∨ n.toNat = 0x49 ∨ n.toNat = 0x4B) →
      exec (.csrw a n) s = .next (s.raise .ill (wordVal (.csrw a n))))

/-- The full/empty bits (R59). Where CONTV can be entered and a source marked with F is empty in a lane in which it is
read, the instruction raises EMPTY; otherwise, while a source is empty in a lane in which it is read, or a destination in
a lane of E, the group blocks: it keeps its issue address and E, and there is no other effect. (That a source marked F goes before an empty destination is
the model's choice, log entry 62.) With every register full, BART blocks too while a write of its group is in flight (R426),
and a later access of a thread while the value of an LDA is (R369). -/
def Obligations.EmptyBlocksOrTraps : Prop :=
  ∀ (i : Instr) (s : State) (w : IWord), encode i = some w → Stands s → preCheck i s.me s.myTeam.tix = none →
    let u := usesOf i s.me s.myTeam.tix
    let early := s.myTeam.contv ≠ 0 ∧ s.myTeam.freeFrame ≠ none ∧
      ∃ x ∈ u.srcs, x.f = true ∧ ∃ l ∈ x.lanes, s.me.fullKey l (s.me.key x.spec) = false
    let late := (∃ x ∈ u.srcs, ∃ l ∈ x.lanes, s.me.fullKey l (s.me.key x.spec) = false) ∨
      ∃ d ∈ u.dsts, ∃ l ∈ s.me.E, s.me.fullKey l (s.me.key d) = false
    (early → exec i s = .next (s.raise .empty 0)) ∧ (¬early → late ∨ s.orderHolds i = true → exec i s = .next s.latch)

/-- Entry to TVEC from user mode outside a task (R262, R264): the trap record is written, with the issue address as EPC;
the group is in supervisor mode; the lanes of E, and they alone, are runnable, at TVEC. Every other lane keeps its
status and pcv; no register, mask, lat, REPI or flag changes (a destination that an instruction which waited had marked
empty is as it was before it, `Group.unmark`), and nothing outside the group. -/
def Obligations.TvecEntry : Prop :=
  ∀ (s : State) (c : Cause) (v : Word), s.me.E ≠ [] → s.me.sup = false → (s.ctx (s.ctxOf s.me)).tvec ≠ 0 →
    s.me.taskId = 0 → s.mmaInFlight s.cur = false → s.myTeam.dest c = .tvec →
    OnlyMe s (s.raise c v) ∧
    (s.raise c v).me =
      { s.me.unmark with
                  lanes := (s.raise c v).me.lanes, sup := true, supRun := maskOf s.me.E, cause := BitVec.ofNat 64 c.code,
                  epc := s.me.pc, tval := v, tlanes := BitVec.ofNat 64 (maskOf s.me.E), ttask := 0, kept := none,
                  trapDue := none, wait := .none, waitingSince := none, latched := none, fetched := [], last := false } ∧
    ∀ l, (s.raise c v).me.lane l =
      if l ∈ s.me.E then
        { s.me.unmark.lane l with status := .ready, pcv := (s.ctx (s.ctxOf s.me)).tvec, freed := none }
      else s.me.unmark.lane l

/-- The destination of each cause (R262, R266): EMPTY always goes to CONTV; PAGE and VPOOL to CONTV, or the group stalls;
VRET and VFUT to CONTV, or TVEC; WOUND to WNDV, or TVEC; every other cause to TVEC. A vector of zero, or a team without a
free frame, counts as none. A trap for TVEC while TVEC is zero, and any trap raised in supervisor mode, outside a task,
end the grid (R264): the grid's fate is FAULTED with the cause. While an MMA of the group is in flight no trap is entered (R223): it
waits, and nothing else changes. An EMPTY that has waited so, or that a handler raises, and that then finds no vector or no
frame is no trap: the group goes on at the instruction, which blocks (R59, R266). -/
def Obligations.TrapDestinations : Prop :=
  (∀ (t : Team), let contv := t.contv ≠ 0 ∧ t.freeFrame ≠ none
    let wndv := t.wndv ≠ 0 ∧ t.freeFrame ≠ none
    t.dest .empty = .contv ∧
    (∀ c, c = .page ∨ c = .vpool → (contv → t.dest c = .contv) ∧ (¬contv → t.dest c = .stall)) ∧
    (∀ c, c = .vret ∨ c = .vfut → (contv → t.dest c = .contv) ∧ (¬contv → t.dest c = .tvec)) ∧
    ((wndv → t.dest .wound = .wndv) ∧ (¬wndv → t.dest .wound = .tvec)) ∧
    ∀ c, c ≠ .empty → c ≠ .page → c ≠ .vpool → c ≠ .vret → c ≠ .vfut → c ≠ .wound → t.dest c = .tvec) ∧
  (∀ (s : State) (c : Cause) (v : Word), (c ≠ .empty ∨ s.myTeam.contv ≠ 0 ∧ s.myTeam.freeFrame ≠ none) → (s.me.sup = true ∨ s.myTeam.dest c = .tvec ∧ (s.ctx (s.ctxOf s.me)).tvec = 0) →
    s.me.taskId = 0 → s.mmaInFlight s.cur = false → s.canPost (dieOf s.me.core) 3 = true →
    s.raise c v = (s.dropTry s.cur).gridFatal s.myTeam.grid s.me.core c v s.me.pc s.me.team) ∧
  (∀ (s : State) (c : Cause) (v : Word), s.mmaInFlight s.cur = true →
    OnlyMe s (s.raise c v) ∧ ∃ d : TrapDue, d.cause = c ∧ d.tval = v ∧ d.epc = s.me.pc ∧ d.lanes = maskOf s.me.E ∧
      (s.raise c v).me = { s.me with trapDue := some d }) ∧
  ∀ (s : State) (v : Word), (s.me.sup = false ∨ s.canPost (dieOf s.me.core) 3 = true) → s.mmaInFlight s.cur = false →
    (s.myTeam.contv = 0 ∨ s.myTeam.freeFrame = none) →
    OnlyMe s (s.raise .empty v) ∧
      (s.raise .empty v).me = { s.me.unmark with fetched := [], last := false, trapDue := none }

/-- Entry to CONTV outside a task (R266), for a cause that posts no record: the group's whole state goes into the lowest
free frame of its team, and the group goes on with every occupied lane that has not exited ready at CONTV, with the
frame's number, the cause and TVAL in its o0, o1 and o2, every register full, and REPI zero. -/
def Obligations.ContvEntry : Prop :=
  ∀ (s : State) (c : Cause) (v : Word) (id : Nat), s.me.sup = false → s.me.taskId = 0 → s.mmaInFlight s.cur = false →
    (c = .empty ∨ c = .vret ∨ c = .vfut) → s.myTeam.contv ≠ 0 → s.myTeam.freeFrame = some id →
    let t := s.raise c v
    (∃ f : Frame, tget id (t.team s.me.team).frames = some f ∧ f.gid = s.cur ∧ f.st = s.me.unmark.toGState ∧ f.tagged = false) ∧
    t.mem = s.mem ∧ t.me.repi = 0 ∧ t.me.qEmpty = [] ∧ t.me.sup = false ∧
    ∀ l, l < s.me.lanes.length → (s.me.lane l).alive = true →
      (t.me.lane l).status = .ready ∧ (t.me.lane l).pcv = s.myTeam.contv ∧ (t.me.lane l).th.empties = [] ∧
      (t.me.lane l).th.v = (s.me.lane l).th.v ∧
      tgetD (t.me.lane l).th.o 0 0 = BitVec.ofNat 64 id ∧ tgetD (t.me.lane l).th.o 1 0 = BitVec.ofNat 64 c.code ∧
      tgetD (t.me.lane l).th.o 2 0 = v
/-! ### Integer instructions -/

/-- N from bit 63 of a result and Z where it is zero, with C and V as given (R60). -/
def Say.nz (r : Word) (c v : Bool) : Nzcv :=
  (if r.getLsbD 63 then 8 else 0) ||| (if r = 0 then 4 else 0) ||| (if c then 2 else 0) ||| (if v then 1 else 0)

/-- A signed number does not fit `n` bits. -/
def Say.beyond (n : Nat) (x : Int) : Bool := decide (x < -(2 ^ (n - 1))) || decide (2 ^ (n - 1) ≤ x)

/-- C of a lane as a number. -/
def Say.carry (s : State) (l : Nat) : Nat := if (s.me.lane l).th.nzcv.getLsbD 1 then 1 else 0

/-- Additions and subtractions (R318, R388, R60): d, the W bit, and result and flags in a lane. -/
def Say.sum (s : State) (l : Nat) : Instr → Option (Spec × BitVec 1 × Word × Nzcv)
  | .add d a b w _ _ =>
    let x := s.rd a l
    let y := s.rd b l
    some (d, w, x + y, Say.nz (x + y) (decide (2 ^ 64 ≤ x.toNat + y.toNat)) (Say.beyond 64 (x.toInt + y.toInt)))
  | .adc d a b w _ _ =>
    let x := s.rd a l
    let y := s.rd b l
    let c := Say.carry s l
    let r : Word := x + y + BitVec.ofNat 64 c
    some (d, w, r, Say.nz r (decide (2 ^ 64 ≤ x.toNat + y.toNat + c)) (Say.beyond 64 (x.toInt + y.toInt + c)))
  | .sub d a b w _ _ =>
    let x := s.rd a l
    let y := s.rd b l
    some (d, w, x - y, Say.nz (x - y) (decide (y.toNat ≤ x.toNat)) (Say.beyond 64 (x.toInt - y.toInt)))
  | .sbc d a b w _ _ =>
    let x := s.rd a l
    let y := s.rd b l
    let c := Say.carry s l
    let r : Word := x + ~~~y + BitVec.ofNat 64 c
    some (d, w, r, Say.nz r (decide (2 ^ 64 ≤ x.toNat + (~~~y).toNat + c)) (Say.beyond 64 (x.toInt - y.toInt - (1 - c))))
  | .addW d a b w _ _ =>
    let x : BitVec 32 := (s.rd a l).setWidth 32
    let y : BitVec 32 := (s.rd b l).setWidth 32
    let r : Word := (x + y).signExtend 64
    some (d, w, r, Say.nz r (decide (2 ^ 32 ≤ x.toNat + y.toNat)) (Say.beyond 32 (x.toInt + y.toInt)))
  | .subW d a b w _ _ =>
    let x : BitVec 32 := (s.rd a l).setWidth 32
    let y : BitVec 32 := (s.rd b l).setWidth 32
    let r : Word := (x - y).signExtend 64
    some (d, w, r, Say.nz r (decide (y.toNat ≤ x.toNat)) (Say.beyond 32 (x.toInt - y.toInt)))
  | _ => none

/-- ADD, ADC, SUB, SBC, ADD.W and SUB.W complete with the results and flags of R318 and R388: exact arithmetic, narrowed. -/
def Obligations.SumResults : Prop :=
  ∀ (i : Instr) (s : State) (d : Spec) (w : BitVec 1) (val : Nat → Word) (fl : Nat → Nzcv),
    (∀ l, Say.sum s l i = some (d, w, val l, fl l)) → Issues i s → Falls s →
    ∃ t, exec i s = .next t ∧ ShortEffect s t d val (fun l => if w = 1 then some (fl l) else none) fun _ => 0

/-- Products, logic and shifts, extrema (R318, R374, R387, R388): d, the W bit and the result in a lane. -/
def Say.plainOp (s : State) (l : Nat) : Instr → Option (Spec × BitVec 1 × Word)
  | .mul d a b w _ _ => some (d, w, s.rd a l * s.rd b l)
  | .mulhS d a b w _ _ => some (d, w, BitVec.ofInt 64 ((s.rd a l).toInt * (s.rd b l).toInt / 2 ^ 64))
  | .mulhZ d a b w _ _ => some (d, w, BitVec.ofNat 64 ((s.rd a l).toNat * (s.rd b l).toNat / 2 ^ 64))
  | .mulW d a b w _ _ =>
    some (d, w, (BitVec.ofNat 32 ((s.rd a l).toNat % 2 ^ 32 * ((s.rd b l).toNat % 2 ^ 32))).signExtend 64)
  | .and d a b w _ _ => some (d, w, s.rd a l &&& s.rd b l)
  | .or d a b w _ _ => some (d, w, s.rd a l ||| s.rd b l)
  | .xor d a b w _ _ => some (d, w, s.rd a l ^^^ s.rd b l)
  | .shl d a b w _ _ => some (d, w, BitVec.ofNat 64 ((s.rd a l).toNat * 2 ^ ((s.rd b l).toNat % 64)))
  | .shr d a b w _ _ => some (d, w, BitVec.ofNat 64 ((s.rd a l).toNat / 2 ^ ((s.rd b l).toNat % 64)))
  | .sar d a b w _ _ => some (d, w, BitVec.ofInt 64 ((s.rd a l).toInt / 2 ^ ((s.rd b l).toNat % 64)))
  | .minS d a b w _ _ => some (d, w, BitVec.ofInt 64 (min (s.rd a l).toInt (s.rd b l).toInt))
  | .maxS d a b w _ _ => some (d, w, BitVec.ofInt 64 (max (s.rd a l).toInt (s.rd b l).toInt))
  | .minZ d a b w _ _ => some (d, w, BitVec.ofNat 64 (min (s.rd a l).toNat (s.rd b l).toNat))
  | .maxZ d a b w _ _ => some (d, w, BitVec.ofNat 64 (max (s.rd a l).toNat (s.rd b l).toNat))
  | _ => none

/-- Quotients and remainders (R211, R339, R374) by exact division of integers, truncating. -/
def Say.division (s : State) (l : Nat) : Instr → Option (Spec × BitVec 1 × Word)
  | .divS d a b w _ _ =>
    some (d, w, if s.rd b l = 0 then 0xFFFFFFFFFFFFFFFF#64 else BitVec.ofInt 64 ((s.rd a l).toInt.tdiv (s.rd b l).toInt))
  | .divZ d a b w _ _ =>
    some (d, w, if s.rd b l = 0 then 0xFFFFFFFFFFFFFFFF#64 else BitVec.ofNat 64 ((s.rd a l).toNat / (s.rd b l).toNat))
  | .remS d a b w _ _ =>
    some (d, w, if s.rd b l = 0 then s.rd a l else BitVec.ofInt 64 ((s.rd a l).toInt.tmod (s.rd b l).toInt))
  | .remZ d a b w _ _ =>
    some (d, w, if s.rd b l = 0 then s.rd a l else BitVec.ofNat 64 ((s.rd a l).toNat % (s.rd b l).toNat))
  | _ => none

/-- DIV.S, DIV.Z, REM.S and REM.Z complete on all operands and never trap: a divisor of zero gives all ones, or the
dividend as remainder; the least number divided by −1 gives itself, with remainder zero (R211). -/
def Obligations.DivisionResults : Prop :=
  (∀ (i : Instr) (s : State) (d : Spec) (w : BitVec 1) (val : Nat → Word), (∀ l, Say.division s l i = some (d, w, val l)) →
    Issues i s → Falls s →
    ∃ t, exec i s = .next t ∧
      ShortEffect s t d val (fun l => if w = 1 then some (Say.nz (val l) false false) else none) fun _ => 0) ∧
  BitVec.ofInt 64 ((0x8000000000000000#64).toInt.tdiv (0xFFFFFFFFFFFFFFFF#64).toInt) = 0x8000000000000000#64 ∧
  BitVec.ofInt 64 ((0x8000000000000000#64).toInt.tmod (0xFFFFFFFFFFFFFFFF#64).toInt) = 0#64

/-- Counts and reversal, bit fields, moves and constants (R318, R319, R322, R330, R374, R376, R377, R390): d, the W bit
and the result in a lane. -/
def Say.moveOp (s : State) (l : Nat) : Instr → Option (Spec × BitVec 1 × Word)
  | .popc d a w _ => some (d, w, BitVec.ofNat 64 ((List.range 64).countP fun i => (s.rd a l).getLsbD i))
  | .clz d a w _ => some (d, w, BitVec.ofNat 64 (if s.rd a l = 0 then 64 else 63 - Nat.log2 (s.rd a l).toNat))
  | .brev d a w _ => some (d, w, (s.rd a l).reverse)
  | .bfx d a b w _ _ =>
    let pos := (s.rd b l).toNat % 64
    let len := (s.rd b l).toNat / 2 ^ 8 % 64
    some (d, w, BitVec.ofNat 64 ((s.rd a l).toNat / 2 ^ pos % 2 ^ len))
  | .bfi d a b w _ _ =>
    let pos := (s.rd b l).toNat % 64
    let len := (s.rd b l).toNat / 2 ^ 8 % 64
    let mask : Word := BitVec.ofNat 64 (2 ^ len - 1)
    some (d, w, (s.rd d l &&& ~~~(mask <<< pos)) ||| ((s.rd a l &&& mask) <<< pos))
  | .mov d a w _ => some (d, w, s.rd a l)
  | .sel d a b c =>
    let f := (s.me.lane l).th.nzcv
    let n := f.getLsbD 3
    let z := f.getLsbD 2
    let k := f.getLsbD 1
    let v := f.getLsbD 0
    let holds : Bool := match c.toNat with
      | 0 => z | 1 => !z | 2 => n != v | 3 => n == v | 4 => !k | 5 => k | 6 => n | _ => v
    some (d, 0, if holds then s.rd a l else s.rd b l)
  | .ccget d => some (d, 0, (s.me.lane l).th.nzcv.setWidth 64)
  | .movi d i => some (d, 0, i.signExtend 64)
  | .movh d i => some (d, 0, BitVec.ofNat 64 ((s.rd d l).toNat * 2 ^ 17 + i.toNat))
  | .adpc d i => some (d, 0, s.me.pc + BitVec.ofInt 64 (i.toInt * 4))
  | _ => none

/-- Immediate forms (R71, R321, R375, R387, R388): d and the result in a lane. -/
def Say.immediate (s : State) (l : Nat) : Instr → Option (Spec × Word)
  | .addi d a i => some (d, BitVec.ofInt 64 ((s.rd a l).toInt + i.toInt))
  | .andi d a i => some (d, s.rd a l &&& i.signExtend 64)
  | .ori d a i => some (d, s.rd a l ||| i.signExtend 64)
  | .xori d a i => some (d, s.rd a l ^^^ i.signExtend 64)
  | .muli d a i => some (d, BitVec.ofInt 64 ((s.rd a l).toInt * i.toInt))
  | .shli d a i => some (d, BitVec.ofNat 64 ((s.rd a l).toNat * 2 ^ i.toNat))
  | .shri d a i => some (d, BitVec.ofNat 64 ((s.rd a l).toNat / 2 ^ i.toNat))
  | .sari d a i => some (d, BitVec.ofInt 64 ((s.rd a l).toInt / 2 ^ i.toNat))
  | _ => none

/-- Products, logic, shifts and extrema, counts and reversal, bit fields, moves and constants, and the immediate forms
complete with the results of their tables (R318, R319, R321, R322, R330, R374 to R377, R387, R388, R390); those with a W
bit write N and Z of the result and clear C and V where it is 1 (R60), and the others write no flag. -/
def Obligations.PlainResults : Prop :=
  (∀ (i : Instr) (s : State) (d : Spec) (w : BitVec 1) (val : Nat → Word), (∀ l, Say.plainOp s l i = some (d, w, val l)) →
    Issues i s → Falls s →
    ∃ t, exec i s = .next t ∧
      ShortEffect s t d val (fun l => if w = 1 then some (Say.nz (val l) false false) else none) fun _ => 0) ∧
  (∀ (i : Instr) (s : State) (d : Spec) (w : BitVec 1) (val : Nat → Word), (∀ l, Say.moveOp s l i = some (d, w, val l)) →
    Issues i s → Falls s →
    ∃ t, exec i s = .next t ∧
      ShortEffect s t d val (fun l => if w = 1 then some (Say.nz (val l) false false) else none) fun _ => 0) ∧
  (∀ (i : Instr) (s : State) (d : Spec) (val : Nat → Word), (∀ l, Say.immediate s l i = some (d, val l)) →
    Issues i s → Falls s →
    ∃ t, exec i s = .next t ∧ ShortEffect s t d val (fun _ => none) fun _ => 0)

/-- Comparisons (R320, R321) and CCSET (R331): what lat receives, and the flags, in a lane. -/
def Say.compares (s : State) (l : Nat) : Instr → Option (Word × Nzcv)
  | .cmpS a b _ _ =>
    let x := s.rd a l
    let y := s.rd b l
    some (x - y, Say.nz (x - y) (decide (y.toNat ≤ x.toNat)) (Say.beyond 64 (x.toInt - y.toInt)))
  | .cmpi a i =>
    let x := s.rd a l
    let y : Word := i.signExtend 64
    some (x - y, Say.nz (x - y) (decide (y.toNat ≤ x.toNat)) (Say.beyond 64 (x.toInt - y.toInt)))
  | .cmpZ a b _ _ =>
    let x := s.rd a l
    let y := s.rd b l
    some (x - y, (if x.toNat < y.toNat then 8 else 0) ||| (if x = y then 4 else 0) ||| (if y.toNat ≤ x.toNat then 2 else 0))
  | .ccset a _ => some (s.rd a l, (s.rd a l).setWidth 4)
  | _ => none

/-- CMP.S, CMP.Z, CMPI and CCSET always write NZCV and lat, and no register. -/
def Obligations.CompareResults : Prop :=
  ∀ (i : Instr) (s : State) (lat : Nat → Word) (fl : Nat → Nzcv), (∀ l, Say.compares s l i = some (lat l, fl l)) →
    Issues i s → Falls s →
    ∃ t, exec i s = .next t ∧ ShortEffect s t 0x79#7 lat (fun l => some (fl l)) fun _ => 0
/-! ### Floating point -/

/-- A lane's result of a format (R204): its word, NZCV (R60) and flags. -/
def Say.of (f : Fmt) (l : Nat) (x : FRes) : FLane := { lane := l, val := BitVec.ofNat 64 x.1, nzcv := fpNzcv f x.1, flags := x.2 }

/-- The operations of R347 in one format, by the constructors' common operands: sources and, for the fused forms, d. -/
def Say.arith (f : Fmt) (s : State) (l : Nat) (d a b : Spec) (op : Rm → Bool → Nat → Nat → Nat → FRes) : FLane :=
  let get (x : Spec) : Nat := (s.rd x l).toNat % 2 ^ f.width
  Say.of f l (op s.fpRm (s.ftz f) (get a) (get b) (get d))

/-- An integral value or a conversion under the rounding code of R78. -/
def Say.coded (src dst : Fmt) (s : State) (l : Nat) (a m : Spec) (op : Rm → Nat → FRes) : FLane :=
  Say.of dst l (op (if m.toNat = 4 then s.fpRm else rmOf m.toNat) ((s.rd a l).toNat % 2 ^ src.width))

/-- A conversion to an integer of `n` bits (R210). -/
def Say.toInt (src : Fmt) (flush signed : Bool) (n : Nat) (s : State) (l : Nat) (a m : Spec) : FLane :=
  let r := ftoInt src (if m.toNat = 4 then s.fpRm else rmOf m.toNat) flush signed n ((s.rd a l).toNat % 2 ^ src.width)
  { lane := l, val := sExt r.1 n, nzcv := 0, flags := r.2 }

/-- A comparison (R349). -/
def Say.fcompare (f : Fmt) (s : State) (l : Nat) (a b : Spec) : FLane :=
  let r := fcmp f (s.ftz f) ((s.rd a l).toNat % 2 ^ f.width) ((s.rd b l).toNat % 2 ^ f.width)
  { lane := l, val := r.1.setWidth 64, nzcv := r.1, flags := r.2 }

/-- What the physical lanes contribute to a floating-point sum: −0 outside E (R219, R381). -/
def Say.addends (f : Fmt) (s : State) (b : Spec) : List Nat :=
  (upTo s.me.W).map fun l => if l ∈ s.me.E then (s.rd b l).toNat % 2 ^ f.width else 2 ^ (f.ew + f.fw)

/-- The floating-point instructions that follow FPCR and its trap enables (R205, R209, R338, R347, R349, R351, R381,
R389): d, the W bit, and a lane's result. -/
def Say.float (s : State) (l : Nat) : Instr → Option (Spec × BitVec 1 × FLane)
  | .faddD d a b w _ _ => some (d, w, Say.arith b64 s l d a b fun rd z x y _ => fadd b64 rd z false x y)
  | .fsubD d a b w _ _ => some (d, w, Say.arith b64 s l d a b fun rd z x y _ => fadd b64 rd z true x y)
  | .fmulD d a b w _ _ => some (d, w, Say.arith b64 s l d a b fun rd z x y _ => fmul b64 rd z x y)
  | .ffmaD d a b w _ _ => some (d, w, Say.arith b64 s l d a b fun rd z x y c => ffma b64 rd z false false x y c)
  | .ffmsD d a b w _ _ => some (d, w, Say.arith b64 s l d a b fun rd z x y c => ffma b64 rd z false true x y c)
  | .ffnmD d a b w _ _ => some (d, w, Say.arith b64 s l d a b fun rd z x y c => ffma b64 rd z true false x y c)
  | .fminD d a b w _ _ => some (d, w, Say.arith b64 s l d a b fun _ z x y _ => fminmax b64 z false x y)
  | .fmaxD d a b w _ _ => some (d, w, Say.arith b64 s l d a b fun _ z x y _ => fminmax b64 z true x y)
  | .fdivD d a b w _ _ => some (d, w, Say.arith b64 s l d a b fun rd z x y _ => fdiv b64 rd z x y)
  | .fsqrtD d a w _ => some (d, w, Say.arith b64 s l d a a fun rd z x _ _ => fsqrt b64 rd z x)
  | .frndD d a m w _ => some (d, w, Say.coded b64 b64 s l a m fun rd x => frnd b64 rd s.ftzD x)
  | .fcmpD a b _ _ => some (0x79, 1, Say.fcompare b64 s l a b)
  | .faddF d a b w _ _ => some (d, w, Say.arith b32 s l d a b fun rd z x y _ => fadd b32 rd z false x y)
  | .fsubF d a b w _ _ => some (d, w, Say.arith b32 s l d a b fun rd z x y _ => fadd b32 rd z true x y)
  | .fmulF d a b w _ _ => some (d, w, Say.arith b32 s l d a b fun rd z x y _ => fmul b32 rd z x y)
  | .ffmaF d a b w _ _ => some (d, w, Say.arith b32 s l d a b fun rd z x y c => ffma b32 rd z false false x y c)
  | .ffmsF d a b w _ _ => some (d, w, Say.arith b32 s l d a b fun rd z x y c => ffma b32 rd z false true x y c)
  | .ffnmF d a b w _ _ => some (d, w, Say.arith b32 s l d a b fun rd z x y c => ffma b32 rd z true false x y c)
  | .fminF d a b w _ _ => some (d, w, Say.arith b32 s l d a b fun _ z x y _ => fminmax b32 z false x y)
  | .fmaxF d a b w _ _ => some (d, w, Say.arith b32 s l d a b fun _ z x y _ => fminmax b32 z true x y)
  | .fdivF d a b w _ _ => some (d, w, Say.arith b32 s l d a b fun rd z x y _ => fdiv b32 rd z x y)
  | .fsqrtF d a w _ => some (d, w, Say.arith b32 s l d a a fun rd z x _ _ => fsqrt b32 rd z x)
  | .frndF d a m w _ => some (d, w, Say.coded b32 b32 s l a m fun rd x => frnd b32 rd s.ftzF x)
  | .fcmpF a b _ _ => some (0x79, 1, Say.fcompare b32 s l a b)
  | .cvtDF d a m => some (d, 0, Say.coded b32 b64 s l a m fun rd x => fcvt b32 b64 rd s.ftzF false x)
  | .cvtFD d a m => some (d, 0, Say.coded b64 b32 s l a m fun rd x => fcvt b64 b32 rd s.ftzD s.ftzF x)
  | .cvtBF d a m => some (d, 0, Say.coded b32 bf16 s l a m fun rd x => fcvt b32 bf16 rd s.ftzF false x)
  | .cvtFB d a m => some (d, 0, Say.coded bf16 b32 s l a m fun rd x => fcvt bf16 b32 rd false false x)
  | .cvtHF d a m => some (d, 0, Say.coded b32 b16 s l a m fun rd x => fcvt b32 b16 rd s.ftzF false x)
  | .cvtFH d a m => some (d, 0, Say.coded b16 b32 s l a m fun rd x => fcvt b16 b32 rd false false x)
  | .cvtDS64 d a m => some (d, 0, Say.coded b64 b64 s l a m fun rd _ => intToF b64 rd (s.rd a l).toInt)
  | .cvtDZ64 d a m => some (d, 0, Say.coded b64 b64 s l a m fun rd _ => intToF b64 rd (s.rd a l).toNat)
  | .cvtFS32 d a m => some (d, 0, Say.coded b32 b32 s l a m fun rd _ => intToF b32 rd ((s.rd a l).setWidth 32).toInt)
  | .cvtS64D d a m => some (d, 0, Say.toInt b64 s.ftzD true 64 s l a m)
  | .cvtZ64D d a m => some (d, 0, Say.toInt b64 s.ftzD false 64 s l a m)
  | .cvtS32F d a m => some (d, 0, Say.toInt b32 s.ftzF true 32 s l a m)
  | .redFaddD d b _ => some (d, 0, Say.of b64 l (treeSum (fadd b64 s.fpRm s.ftzD false) (Say.addends b64 s b)))
  | .redFaddF d b _ => some (d, 0, Say.of b32 l (treeSum (fadd b32 s.fpRm s.ftzF false) (Say.addends b32 s b)))
  | .scanFaddD d b _ =>
    let r := scanSum (fadd b64 s.fpRm s.ftzD false) (Say.addends b64 s b)
    some (d, 0, Say.of b64 l (r.1.getD l 0, r.2))
  | _ => none

/-- No lane of E raises a flag whose trap FPCR enables (R209). -/
def Say.quiet (s : State) (r : Nat → FLane) : Prop := ∀ l ∈ s.me.E, (r l).flags &&& s.fpTe = 0

/-- A floating-point instruction none of whose lanes raises an enabled flag completes: result, flags of FPSR, lat, and with
W = 1 NZCV. -/
def Obligations.FloatResults : Prop :=
  ∀ (i : Instr) (s : State) (d : Spec) (w : BitVec 1) (r : Nat → FLane), (∀ l, Say.float s l i = some (d, w, r l)) →
    Issues i s → Falls s → Say.quiet s r →
    ∃ t, exec i s = .next t ∧
      ShortEffect s t d (fun l => (r l).val) (fun l => if w = 1 then some (r l).nzcv else none) fun l => (r l).flags

/-- Where a lane of E would raise an enabled flag the instruction raises FPX, with no effect in any lane; TVAL is the OR of
the flags over the lanes of E (R209). -/
def Obligations.FloatTraps : Prop :=
  ∀ (i : Instr) (s : State) (d : Spec) (w : BitVec 1) (r : Nat → FLane), (∀ l, Say.float s l i = some (d, w, r l)) →
    Issues i s → ¬Say.quiet s r →
    ∃ fl : FpFlags, exec i s = .next (s.raise .fpx (fl.setWidth 64)) ∧
      ∀ n, n < 5 → (fl.getLsbD n = true ↔ ∃ l ∈ s.me.E, (r l).flags.getLsbD n = true)

/-- FABS, FNEG, FCPYS and FCLS (R347, R350): d, the W bit, the result, and NZCV. -/
def Say.signs (s : State) (l : Nat) : Instr → Option (Spec × BitVec 1 × Word × Nzcv) :=
  let sgn (f : Fmt) (d a : Spec) (w : BitVec 1) (neg : Bool) : Option (Spec × BitVec 1 × Word × Nzcv) :=
    let r := (s.rd a l).toNat % 2 ^ (f.ew + f.fw) + (if neg then 2 ^ (f.ew + f.fw) else 0)
    some (d, w, BitVec.ofNat 64 r, fpNzcv f r)
  let cls (f : Fmt) (d a : Spec) (w : BitVec 1) : Option (Spec × BitVec 1 × Word × Nzcv) :=
    let r : Word := BitVec.ofNat 64 (fcls f (s.ftz f) ((s.rd a l).toNat % 2 ^ f.width))
    some (d, w, r, Say.nz r false false)
  fun
  | .fabsD d a w _ => sgn b64 d a w false
  | .fnegD d a w _ => sgn b64 d a w (!(s.rd a l).getLsbD 63)
  | .fcpysD d a b w _ _ => sgn b64 d a w ((s.rd b l).getLsbD 63)
  | .fclsD d a w _ => cls b64 d a w
  | .fabsF d a w _ => sgn b32 d a w false
  | .fnegF d a w _ => sgn b32 d a w (!(s.rd a l).getLsbD 31)
  | .fcpysF d a b w _ _ => sgn b32 d a w ((s.rd b l).getLsbD 31)
  | .fclsF d a w _ => cls b32 d a w
  | _ => none

/-- FABS, FNEG and FCPYS change the sign alone and FCLS classes; none raises a flag or traps, whatever FPCR holds (R206,
R350). -/
def Obligations.SignResults : Prop :=
  ∀ (i : Instr) (s : State) (d : Spec) (w : BitVec 1) (val : Nat → Word) (fl : Nat → Nzcv),
    (∀ l, Say.signs s l i = some (d, w, val l, fl l)) → Issues i s → Falls s →
    ∃ t, exec i s = .next t ∧ ShortEffect s t d val (fun l => if w = 1 then some (fl l) else none) fun _ => 0

/-- One rounding to a multiple of 2^q (R205): RZ truncates; RP and RM go up or down, toward the sign that they name;
RNE goes to the nearest multiple, a tie to the even one; and the result is inexact exactly where it differs from the
value. A finite value that the format represents is delivered as it is, without a flag, in every mode (R203). -/
def Obligations.RoundsAsItsModeSays : Prop :=
  (∀ (rd : Rm) (neg : Bool) (m : Nat) (e q : Int),
    (q ≤ e → roundAt rd neg m e false q = (m * 2 ^ (e - q).toNat, false)) ∧
    (e < q →
      let u := 2 ^ (q - e).toNat
      let n := (roundAt rd neg m e false q).1
      ((roundAt rd neg m e false q).2 = true ↔ n * u ≠ m) ∧
      (rd = .rz ∨ rd = .rp ∧ neg = true ∨ rd = .rm ∧ neg = false → n * u ≤ m ∧ m < n * u + u) ∧
      (rd = .rp ∧ neg = false ∨ rd = .rm ∧ neg = true → m ≤ n * u ∧ n * u < m + u) ∧
      (rd = .rne → 2 * m ≤ 2 * (n * u) + u ∧ 2 * (n * u) ≤ 2 * m + u ∧
        (2 * m = 2 * (n * u) + u ∨ 2 * (n * u) = 2 * m + u → n % 2 = 0)))) ∧
  (∀ (f : Fmt) (rd : Rm) (x : Nat), f = b64 ∨ f = b32 ∨ f = bf16 ∨ f = b16 → x < 2 ^ f.width → f.expo x ≠ 2 ^ f.ew - 1 →
    roundF f rd false (f.sign x) (f.mag x) (f.lsb x) false = (x, 0))

/-- The NaN rule (R207) for the sums, products and quotients of a format: the result of a NaN operand is the first NaN
operand with its quiet bit set, and IV is raised exactly where an operand is signalling, or, in a fused operation, where
the product is zero by infinity. FMIN and FMAX give the other operand, or the default NaN where both are NaNs. -/
def Obligations.NanOperands : Prop :=
  ∀ (f : Fmt) (rd : Rm) (ftz b c : Bool) (x y z n : Nat), f = b64 ∨ f = b32 →
    (f.isNaN x = true ∧ n = x ∨ f.isNaN x = false ∧ f.isNaN y = true ∧ n = y →
      let r : FRes := (f.quiet n, if f.isSNaN x = true ∨ f.isSNaN y = true then fIV else 0)
      fadd f rd ftz b x y = r ∧ fmul f rd ftz x y = r ∧ fdiv f rd ftz x y = r) ∧
    (f.isNaN x = true ∧ n = x ∨ f.isNaN x = false ∧ f.isNaN y = true ∧ n = y ∨
        f.isNaN x = false ∧ f.isNaN y = false ∧ f.isNaN z = true ∧ n = z →
      ffma f rd ftz b c x y z = (f.quiet n,
        if f.isSNaN x = true ∨ f.isSNaN y = true ∨ f.isSNaN z = true ∨
            f.isInf x = true ∧ f.isZero (f.flush ftz y) = true ∨ f.isZero (f.flush ftz x) = true ∧ f.isInf y = true
        then fIV else 0)) ∧
    (f.isNaN x = true → f.isNaN y = true → (fminmax f ftz b x y).1 = f.defNaN) ∧
    (f.isNaN x = true → f.isNaN y = false → (fminmax f ftz b x y).1 = f.flush ftz y) ∧
    (f.isNaN x = false → f.isNaN y = true → (fminmax f ftz b x y).1 = f.flush ftz x)

/-- The special functions (R341, R342): d, the W bit, the format and a lane's result, of the operand flushed under R206.
Where the manual bounds a result and does not fix it, the value is the model's free one (log entry 5). -/
def Say.special (s : State) (l : Nat) : Instr → Option (Spec × BitVec 1 × FLane) :=
  let one (f : Fmt) (z : Bool) (d a : Spec) (w : BitVec 1) (op : Nat → FRes) : Option (Spec × BitVec 1 × FLane) :=
    some (d, w, Say.of f l (op (f.flush z ((s.rd a l).toNat % 2 ^ f.width))))
  fun
  | .frcpF d a w _ => one b32 s.ftzF d a w fun x => rcpOf b32 0 s.ftzF (.ulp 1) x
  | .frsqF d a w _ => one b32 s.ftzF d a w fun x => rsqOf b32 1 s.ftzF (.ulp 1) x
  | .fex2F d a w _ => one b32 s.ftzF d a w fun x => ex2Of s.ftzF x
  | .flg2F d a w _ => one b32 s.ftzF d a w fun x => lg2Of s.ftzF x
  | .fsinF d a w _ => one b32 s.ftzF d a w fun x => trigOf false s.ftzF x
  | .fcosF d a w _ => one b32 s.ftzF d a w fun x => trigOf true s.ftzF x
  | .drca d a w _ => one b64 s.ftzD d a w fun x => rcpOf b64 6 true .rel28 x
  | .drsa d a w _ => one b64 s.ftzD d a w fun x => rsqOf b64 7 true .rel28 x
  | _ => none

/-- The unit in the last place of a format at a real number: that of its binade, at least that of the subnormals. -/
def Say.ulpAt (f : Fmt) (t u : ℝ) : Prop :=
  |t| < 2 ^ (2 - (f.bias : ℤ)) ∧ u = 2 ^ (1 - (f.bias : ℤ) - f.fw) ∨
    ∃ e : ℤ, 1 - (f.bias : ℤ) ≤ e ∧ (2 : ℝ) ^ e ≤ |t| ∧ |t| < 2 ^ (e + 1) ∧ u = 2 ^ (e - f.fw)

/-- A finite number of the format lies within a bound of R220 of a real number. -/
def Say.inBound (b : Bound) (f : Fmt) (c : Nat) (t : ℝ) : Prop :=
  c < 2 ^ f.width ∧ f.isNaN c = false ∧ f.isInf c = false ∧
    let off : ℝ := |(f.sval c : ℝ) * 2 ^ f.lsb c - t|
    match b with
    | .ulp n => ∃ u, Say.ulpAt f t u ∧ off ≤ n * u
    | .ulpOr22 n => (∃ u, Say.ulpAt f t u ∧ off ≤ n * u) ∨ off ≤ 2 ^ (-22 : ℤ)
    | .rel28 => off < 2 ^ (-28 : ℤ) * |t|

/-- What is delivered for an exact value (R220, R342): a number within the bound; ±∞ with OF where the value overflows; and
where results are flushed, for a subnormal number within the bound the zero of its sign with UF. -/
def Say.delivers (b : Bound) (f : Fmt) (flush : Bool) (r : FRes) (t : ℝ) : Prop :=
  f.isInf r.1 = true ∧ r.2 = fOF ∧ (2 - 2 ^ (-(f.fw : ℤ) - 1)) * 2 ^ (f.bias : ℤ) ≤ |t| ∨
    ∃ c, Say.inBound b f c t ∧
      (r.1 = c ∧ (flush = true → f.isSub c = false) ∧ (r.2 = fUF ↔ f.isSub c = true ∨ f.isZero c = true ∧ t ≠ 0) ∨
        flush = true ∧ f.isSub c = true ∧ r = (f.zero (f.sign c), fUF))

/-- A special function none of whose lanes raises an enabled flag completes: d takes the result, lat stays, FPSR takes the
flags, and NZCV is written where W is 1; one that would raise an enabled flag raises FPX (R209, R341). The special operands
of R342; and no special function ever raises NX (R220). The bounds of R220, for every finite operand that R342 does not list:
FRCP.F and DRCA against 1 ÷ x, FRSQ.F and DRSA against 1 ÷ √x; the other four against the model's own approximation of the
exact value (`apxEx2`, `apxLg2`, `apxTrig`), whose error lies far below the bound; FEX2.F from 2^9 on overflows or is zero;
FSIN.F and FCOS.F beyond 2^20 lie in [−1, 1]. (Within the bound the value is the model's free one, log entry 5.) -/
def Obligations.SpecialResults : Prop :=
  (∀ (i : Instr) (s : State) (d : Spec) (w : BitVec 1) (r : Nat → FLane), (∀ l, Say.special s l i = some (d, w, r l)) →
    Issues i s → Falls s →
    (Say.quiet s r → ∃ t, exec i s = .next t ∧
      DirectEffect s t d (fun l => (r l).val) (fun l => if w = 1 then some (r l).nzcv else none) fun l => (r l).flags) ∧
    (¬Say.quiet s r → ∃ fl : FpFlags, exec i s = .next (s.raise .fpx (fl.setWidth 64)) ∧
      ∀ n, n < 5 → (fl.getLsbD n = true ↔ ∃ l ∈ s.me.E, (r l).flags.getLsbD n = true))) ∧
  ((∀ (f : Fmt) (op : Nat) (z neg : Bool) (b : Bound), f = b64 ∨ f = b32 →
    rcpOf f op z b (f.zero neg) = (f.inf neg, fDZ) ∧ rcpOf f op z b (f.inf neg) = (f.zero neg, 0) ∧
    rsqOf f op z b (f.zero neg) = (f.inf neg, fDZ) ∧ rsqOf f op z b (f.inf true) = (f.defNaN, fIV) ∧
    rsqOf f op z b (f.inf false) = (0, 0)) ∧
  (∀ z, ex2Of z (b32.inf false) = (b32.inf false, 0) ∧ ex2Of z (b32.inf true) = (0, 0) ∧
    (∀ neg, lg2Of z (b32.zero neg) = (b32.inf true, fDZ)) ∧ lg2Of z (b32.inf true) = (b32.defNaN, fIV) ∧
    lg2Of z 0x3F800000 = (0, 0) ∧ lg2Of z (b32.inf false) = (b32.inf false, 0) ∧
    ∀ neg c, trigOf c z (b32.inf neg) = (b32.defNaN, fIV) ∧
      trigOf c z (b32.zero neg) = (if c then 0x3F800000 else b32.zero neg, 0)) ∧
  ∀ (s : State) (l : Nat) (i : Instr) (d : Spec) (w : BitVec 1) (r : FLane), Say.special s l i = some (d, w, r) →
    r.flags.getLsbD 0 = false) ∧
  (∀ (f : Fmt) (op : Nat) (z : Bool) (b : Bound) (x : Nat), (f = b32 ∧ b = .ulp 1 ∨ f = b64 ∧ b = .rel28 ∧ z = true) →
    x < 2 ^ f.width → f.isNaN x = false → f.isInf x = false → f.isZero x = false →
    let v : ℝ := (f.sval x : ℝ) * 2 ^ f.lsb x
    Say.delivers b f z (rcpOf f op z b x) (1 / v) ∧
    (f.sign x = false → Say.delivers b f z (rsqOf f op z b x) (1 / Real.sqrt v))) ∧
  ∀ (z : Bool) (x : Nat), x < 2 ^ 32 → b32.isNaN x = false → b32.isInf x = false →
    let num (a : Apx) : ℝ := (a.v : ℝ) * 2 ^ a.e
    (b32.expo x < 136 → Say.delivers (.ulp 2) b32 z (ex2Of z x) (num (apxEx2 x))) ∧
    (136 ≤ b32.expo x → ex2Of z x = if b32.sign x then (0, fUF) else (b32.inf false, fOF)) ∧
    (b32.sign x = false → b32.isZero x = false → x ≠ 0x3F800000 →
      Say.delivers (if 0x3F000000 ≤ x ∧ x ≤ 0x40000000 then .ulpOr22 2 else .ulp 2) b32 z (lg2Of z x) (num (apxLg2 x))) ∧
    ∀ c, (b32.isZero x = false → x % 2 ^ 31 ≤ 0x49800000 →
        Say.delivers (.ulp 2) b32 z (trigOf c z x) (num (apxTrig c x))) ∧
      (0x49800000 < x % 2 ^ 31 → (trigOf c z x).1 % 2 ^ 31 ≤ 0x3F800000)

/-- QDX and DQX (R214 to R216): d and a lane's value. A block of QDX is 32 physical lanes, in E or not. -/
def Say.quantise (s : State) (l : Nat) : Instr → Option (Spec × Word × FpFlags) :=
  let q (x8 : Bool) (d a g : Spec) (c : BitVec 3) : Option (Spec × Word × FpFlags) :=
    let k := l / 32
    let r := if k < s.me.W / 32 then qdxBlock x8 g.toNat c.toNat ((upTo 32).map fun i => (s.rd a (32 * k + i)).toNat % 2 ^ 32)
      else (0, [], 0)
    some (d, BitVec.ofNat 64 (r.1 * 2 ^ 16 + r.2.1.getD (l % 32) 0), r.2.2)
  let v (x8 : Bool) (d a b : Spec) : Option (Spec × Word × FpFlags) :=
    some (d, BitVec.ofNat 64 (dqxValue x8 ((s.rd a l).toNat % (if x8 then 256 else 16)) ((s.rd b l).toNat / 2 ^ 16 % 2 ^ 16)), 0)
  fun
  | .qdxX8 d a g c => q true d a g c
  | .qdxX4 d a g c => q false d a g c
  | .dqxX8 d a b => v true d a b
  | .dqxX4 d a b => v false d a b
  | _ => none

/-- QDX and DQX complete with lat and without NZCV, and no trap enable stops them (R209). The example of R216:
`QDX.X8 v4, v2, #4, #1` over 100.0, 3.0, −1.5, 0.25, 0.01, 0.1 and zeros gives the header 0x7D81 and the codes of the manual's
table, with NX; and DQX reads them back as 3.9375 and 0.01171875. -/
def Obligations.QuantiseResults : Prop :=
  (∀ (i : Instr) (s : State) (d : Spec) (val : Nat → Word) (fl : Nat → FpFlags),
    (∀ l, Say.quantise s l i = some (d, val l, fl l)) → Issues i s → Falls s →
    ∃ t, exec i s = .next t ∧ ShortEffect s t d val (fun _ => none) fl) ∧
  (qdxBlock true 4 1 ([0x42C80000, 0x40400000, 0xBFC00000, 0x3E800000, 0x3C23D70A, 0x3DCCCCCD] ++ List.replicate 26 0) =
    (0x7D81, [0x3F, 0x30, 0x58, 0x04, 0x83, 0x9A] ++ List.replicate 26 0x80, fNX) ∧
  dqxValue true 0x3F 0x7D81 = 0x407C0000 ∧ dqxValue true 0x83 0x7D81 = 0x3C400000)

/-! ### Lanes -/

/-- Instructions across lanes (R323, R378, R381, R389, R391, R404): d and a lane's value. A lane that no thread occupies
reads as zero (R34). -/
def Say.lanes (s : State) (l : Nat) : Instr → Option (Spec × Word) :=
  let wd := s.me.W
  let shfl (d a b : Spec) (src : Nat → Int) : Option (Spec × Word) :=
    let n := src ((s.rd b l).toNat % 64)
    some (d, s.rd a (if 0 ≤ n ∧ n < wd then n.toNat else l))
  let part (b : Spec) (m : Nat) : Word := if m ∈ s.me.E then s.rd b m else 0
  fun
  | .shflIdx d a b _ _ => shfl d a b fun k => (k % wd : Nat)
  | .shflXor d a b _ _ => shfl d a b fun k => (Nat.xor l k : Nat)
  | .shflUp d a b _ _ => shfl d a b fun k => (l : Int) - k
  | .shflDn d a b _ _ => shfl d a b fun k => (l : Int) + k
  | .bcst d a b _ _ => some (d, s.rd a ((s.rd b s.me.lowE).toNat % 64 % wd))
  | .vote d a _ => some (d, BitVec.ofNat 64 (maskOf (s.me.E.filter fun m => s.rd a m != 0)))
  | .mtch d a _ => some (d, BitVec.ofNat 64 (maskOf (s.me.E.filter fun m => s.rd a m == s.rd a l)))
  | .redAdd d b _ => some (d, ((upTo wd).map (part b)).sum)
  | .redMin d b _ =>
    some (d, ((upTo wd).filter fun m => s.me.E.contains m).foldl (fun x m => if (s.rd b m).slt x then s.rd b m else x)
      0x7FFFFFFFFFFFFFFF#64)
  | .redMax d b _ =>
    some (d, ((upTo wd).filter fun m => s.me.E.contains m).foldl (fun x m => if x.slt (s.rd b m) then s.rd b m else x)
      0x8000000000000000#64)
  | .scanAdd d b _ => some (d, (((upTo wd).take (l + 1)).map (part b)).sum)
  | _ => none

/-- SHFL, BCST, VOTE, MTCH, RED.ADD, RED.MIN, RED.MAX and SCAN.ADD complete with their values in the lanes of E, in lat too,
and write no flag. XRD (R45, R412): a lane whose b names a live thread on this core, with the register there, receives it as
a long-class write and has V cleared; one whose b does not has V set and keeps d; a register that is empty holds the
group, its own d empty meanwhile (R58); N, Z and C stay, lat stays. Where d names a q register (R56), that receives what the
lowest lane of E finds, and nothing where it finds no thread; V is each lane's own. -/
def Obligations.LaneResults : Prop :=
  (∀ (i : Instr) (s : State) (d : Spec) (val : Nat → Word), (∀ l, Say.lanes s l i = some (d, val l)) →
    Issues i s → Falls s →
    ∃ t, exec i s = .next t ∧ ShortEffect s t d val (fun _ => none) fun _ => 0) ∧
  (∀ (s : State) (d a b : Spec) (g : BitVec 1) (found : Nat → Option (Group × Nat)), Issues (.xrd d a b g) s → Falls s →
    (∀ l, found l = (s.remap (s.rd b l).toNat).filter fun h => decide (0x60 ≤ a.toNat) || decide (h.1.wbase + a.toNat < h.1.R)) →
    ((∃ l ∈ s.me.E, ∃ h, found l = some h ∧ h.1.fullKey h.2 (h.1.key a) = false) →
      ∃ t, exec (.xrd d a b g) s = .next t ∧ OnlyMe s t ∧ t.me.wait = .xrd ∧ t.me.pc = s.me.pc ∧ t.me.E = s.me.E ∧
        ∀ l ∈ s.me.E, s.me.key d ≠ .none → t.me.fullKey l (s.me.key d) = false) ∧
    ((∀ l ∈ s.me.E, ∀ h, found l = some h → h.1.fullKey h.2 (h.1.key a) = true) →
      ∃ t, exec (.xrd d a b g) s = .next t ∧ OnlyMe s t ∧ (∀ l, l ∉ s.me.E → t.me.lane l = s.me.lane l) ∧
        t.me = { s.me with lanes := t.me.lanes, qEmpty := t.me.qEmpty, qPend := t.me.qPend, readyAt := t.me.readyAt,
                           boosted := none, wait := .none, waitingSince := t.me.waitingSince, latched := none, fetched := [],
                           last := false } ∧
        ((∀ q, s.me.key d ≠ .q q) ∨ found s.me.lowE = none → t.me.qEmpty = s.me.qEmpty ∧ t.me.qPend = s.me.qPend) ∧
        (∀ q h, s.me.key d = .q q → found s.me.lowE = some h → t.me.qEmpty = q :: s.me.qEmpty.filter (· != q) ∧
          t.me.qPend = s.me.qPend ++ [{ key := .q q, val := h.1.readKey h.2 (h.1.key a),
                                        lanes := maskOf (s.me.E.filter fun l => (found l).isSome) }]) ∧
        ∀ l ∈ s.me.E,
          (found l = none → t.me.lane l = { s.me.lane l with pcv := s.me.pc + 4, freed := none, th := { (s.me.lane l).th with
            nzcv := ((s.me.lane l).th.nzcv &&& 14) ||| 1 } }) ∧
          ∀ h, found l = some h → t.me.lane l =
            { ({ s.me.lane l with th := { (s.me.lane l).th with nzcv := (s.me.lane l).th.nzcv &&& 14 } } : Lane).awaits
                { key := s.me.key d, val := h.1.readKey h.2 (h.1.key a) } with pcv := s.me.pc + 4, freed := none }))

/-! ### Memory -/

/-- A long-class write (R58): in each lane of E the register that d names is empty until the lane's value arrives (a q
register for the value of the lowest lane of E; z takes nothing), the lane goes on at the next word, and nothing else
changes: no lat, no flag, no other register, no memory. -/
def Obligations.LongClass : Prop :=
  ∀ (s : State) (d : Spec) (val : Nat → Word),
    let t := (s.putLong d (s.me.E.map fun l => (l, val l))).goneTo s.nextWord
    OnlyMe s t ∧
    (∀ l, l ∉ s.me.E → t.me.lane l = s.me.lane l) ∧
    (∀ l ∈ s.me.E, t.me.lane l = { (s.me.lane l).awaits { key := s.me.key d, val := val l } with
      pcv := s.me.pc + 4, freed := none }) ∧
    t.me = { s.me with lanes := t.me.lanes, qEmpty := t.me.qEmpty, qPend := t.me.qPend, readyAt := t.me.readyAt,
                       boosted := none, wait := .none, waitingSince := t.me.waitingSince, latched := none, fetched := [],
                       last := false } ∧
    (∀ n, s.me.key d = .q n → s.me.E ≠ [] → t.me.qEmpty = n :: s.me.qEmpty.filter (· != n) ∧
      t.me.qPend = s.me.qPend ++ [{ key := .q n, val := val s.me.lowE, lanes := maskOf s.me.E }]) ∧
    ((∀ n, s.me.key d ≠ .q n) → t.me.qEmpty = s.me.qEmpty ∧ t.me.qPend = s.me.qPend)

/-- A load as the manual's tables give it: bytes, alignment required, address of a lane, and what becomes of the lanes'
numbers. -/
structure Say.Load where
  n : Nat
  al : Nat
  va : Nat → Word
  fin : (Nat → Nat) → State → State

/-- A load of one register: the numbers of the lanes, extended to 64 bits. -/
def Say.into (s : State) (d : Spec) (ext : Nat → Word) (v : Nat → Nat) (u : State) : State :=
  u.putLoad d (s.me.E.map fun l => (l, ext (v l)))

/-- The version that a lane of an LDV names (R166). -/
def Say.version (s : State) : Instr → Nat → Option Nat
  | .ldv _ _ b _, l => some ((s.rd b l).toNat % 2 ^ 32)
  | _, _ => none

/-- The signed offset of an I10 form in units of the access (R364). -/
def Say.offset (i : BitVec 10) (n : Nat) : Word := BitVec.ofInt 64 (i.toInt * n)

/-- Loads (R363, R364, R367 to R370). A pending value keeps what brings it: an LDA (R369), and of an LDV of a versioned page
its context, domain and version (R170). -/
def Say.load (s : State) (tgt : Nat → Target) : Instr → Option Say.Load
  | .ldS8 d a i => some ⟨1, 1, fun l => s.rd a l + Say.offset i 1, Say.into s d fun x => sExt x 8⟩
  | .ldZ8 d a i => some ⟨1, 1, fun l => s.rd a l + Say.offset i 1, Say.into s d fun x => BitVec.ofNat 64 x⟩
  | .ldS16 d a i => some ⟨2, 1, fun l => s.rd a l + Say.offset i 2, Say.into s d fun x => sExt x 16⟩
  | .ldZ16 d a i => some ⟨2, 1, fun l => s.rd a l + Say.offset i 2, Say.into s d fun x => BitVec.ofNat 64 x⟩
  | .ldS32 d a i => some ⟨4, 1, fun l => s.rd a l + Say.offset i 4, Say.into s d fun x => sExt x 32⟩
  | .ldZ32 d a i => some ⟨4, 1, fun l => s.rd a l + Say.offset i 4, Say.into s d fun x => BitVec.ofNat 64 x⟩
  | .ld64 d a i => some ⟨8, 1, fun l => s.rd a l + Say.offset i 8, Say.into s d fun x => BitVec.ofNat 64 x⟩
  | .ldx64 d a b _ _ => some ⟨8, 1, fun l => s.rd a l + s.rd b l * 8, Say.into s d fun x => BitVec.ofNat 64 x⟩
  | .ldxS32 d a b _ _ => some ⟨4, 1, fun l => s.rd a l + s.rd b l * 4, Say.into s d fun x => sExt x 32⟩
  | .ldq d a _ => some ⟨16, 16, fun l => s.rd a l, fun v u => Say.into s (d + 1) (fun x => BitVec.ofNat 64 (x / 2 ^ 64)) v
      (Say.into s d (fun x => BitVec.ofNat 64 (x % 2 ^ 64)) v u)⟩
  | .lda d a x => some ⟨8, 8, fun l => s.rd a l, fun v u => (u.acquire x.toNat).putLoad d
      (s.me.E.map fun l => (l, BitVec.ofNat 64 (v l))) .lda⟩
  | .ldv d a b x =>
    let n := match x.toNat with | 0 => 8 | 1 | 2 => 4 | 3 | 4 => 2 | _ => 1
    let ext (v : Nat) : Word := match x.toNat with | 1 => sExt v 32 | 3 => sExt v 16 | 5 => sExt v 8 | _ => BitVec.ofNat 64 v
    some ⟨n, n, fun l => s.rd a l, fun v u => u.modMe fun g => g.pendAll (g.key d) (s.me.E.map fun l => (l, ext (v l))) fun l =>
      { by_ := .load, ldv := match tgt l with
          | .mem _ _ (some dom) _ => some (s.ctxOf s.me, dom, (s.rd b l).toNat % 2 ^ 32)
          | _ => none }⟩
  | _ => none

/-- The issuing core's cluster reads a line of a type in place: through its copy, or, on a DEV page, from a home that has
every byte (R120). -/
def Say.inPlace (s : State) (x : Nat) : MType → Prop
  | .coh => ∃ st, s.lineSt (clusterOf s.me.core) x = some st ∧ (st = .M ∨ st = .O ∨ st = .E ∨ st = .S)
  | .sco => s.scoLine (clusterOf s.me.core) x ≠ none
  | .ro => s.roLine (clusterOf s.me.core) x ≠ none
  | .dev => (s.dirOf x).st = .I

/-- What a byte of package memory is for a guarded task (task 0: for none), from the committed bytes (R198, R199): a byte that
the task stored, or one of a delta of the task combined with the committed bytes that it covers, or the committed byte. -/
def Say.sees (s : State) (task : Nat) (com : Nat → Byte) (a : Nat) (b : Byte) : Prop :=
  let x := ((s.task task).lines.find? fun x => x.line == a / 128).getD { line := a / 128 }
  (task = 0 → b = com a) ∧
  (task ≠ 0 →
    (∀ y, tget (a % 128) x.bytes = some y → b = y) ∧
    (tget (a % 128) x.bytes = none → x.deltaAt (a % 128) = none → b = com a) ∧
    ∀ off op v, tget (a % 128) x.bytes = none → x.deltaAt (a % 128) = some (off, op, v) →
      b = (toBytes op.size (op.new (ofBytes ((upTo op.size).map fun i => com (a / 128 * 128 + off + i))) v 0)).getD
        (a % 128 - off) 0)

/-- The bytes that a lane reads at a target in place: a team's local store, or package memory, as the task sees it. -/
def Say.reads (s : State) (task n : Nat) (bs : List Byte) : Target → Prop
  | .store tm off => bs = mread (s.team tm).lstore off n
  | .mem pa ty _ _ => (∀ x ∈ linesOf pa n, Say.inPlace s x ty) ∧ bs.length = n ∧
    ∀ i, i < n → Say.sees s task (s.clusterByte (clusterOf s.me.core) ty) (pa + i) (bs.getD i 0)
  | _ => False

/-- What a load of a lane reads, an LDV of a versioned page that of the version it names (R166, R370): the open version as
another load does; an older one in the frame of the newest record that serves it, where no line of a task covers it. -/
def Say.loads (s : State) (n : Nat) (bs : List Byte) (ver : Option Nat) (t : Target) : Prop :=
  match ver, t with
  | some v, .mem pa ty (some dom) va =>
    s.domOldest (s.ctxOf s.me) dom ≤ v ∧ v ≤ s.domOpen (s.ctxOf s.me) dom ∧
    ∃ r, (s.vrecs (s.pageEntry (s.ctxOf s.me) dom va)).find? (fun r => decide (r.ver ≤ v)) = some r ∧
      if v = s.domOpen (s.ctxOf s.me) dom then Say.reads s s.me.taskId n bs t
      else Say.reads s 0 n bs (.mem (r.frame + pa % 65536) ty (some dom) va)
  | _, _ => Say.reads s s.me.taskId n bs t

/-- Every load whose lanes find their bytes in place completes: d (for LDQ d and d + 1, for LDA after the acquire) awaits the
little-endian number of the lane's bytes, extended as its mnemonic says; memory, local store and every other register
stay; of the rest only the threads' anchors change. RBOX reads the first 96 bytes of a node of 128 and RTRI 40 of a record of
48, aligned to 16 (R384 to R386): where every lane finds them in place on a page that is not DEV, d awaits the result. Loads
in a guarded task read its own lines (R198), and an LDV the version that it names (R166). -/
def Obligations.LoadsComplete : Prop :=
  (∀ (i : Instr) (s : State) (x : Say.Load) (tgt : Nat → Target) (bs : Nat → List Byte),
    Say.load s tgt i = some x → Issues i s → Falls s → s.me.wait ≠ .remote → s.bad = [] →
    (∀ l ∈ s.me.E, s.prefetch (s.who s.me l) (x.va l) x.n = s ∧
      s.targets (s.who s.me l) (x.va l) x.n x.al .load = .ok [(tgt l, x.n)] ∧
        Say.loads s x.n (bs l) (Say.version s i l) (tgt l)) →
    ∃ an, exec i s = .next ((x.fin (fun l => ofBytes (bs l)) { s with anchors := an }).goneTo s.nextWord)) ∧
  (∀ (i : Instr) (s : State) (d a : Spec) (f : BitVec 1) (n al used : Nat) (res : RayRegs → List Byte → Word)
    (tgt : Nat → Target) (bs : Nat → List Byte),
    (i = .rbox d a f ∧ n = 128 ∧ al = 128 ∧ used = 96 ∧ res = boxResult ∨
      i = .rtri d a f ∧ n = 48 ∧ al = 16 ∧ used = 40 ∧ res = triResult) →
    Issues i s → Falls s → s.bad = [] →
    (∀ l ∈ s.me.E, s.prefetch (s.who s.me l) (s.rd a l) n = s ∧
      s.targets (s.who s.me l) (s.rd a l) n al .load = .ok [(tgt l, n)] ∧ (∀ pa dom v, tgt l ≠ .mem pa .dev dom v) ∧
      Say.reads s s.me.taskId used (bs l) (tgt l)) →
    ∃ an, exec i s = .next ((({ s with anchors := an } : State).putLoad d
      (s.me.E.map fun l => (l, res (s.ray l) (bs l)))).goneTo s.nextWord))

/-- A store: bytes, alignment required, address and value of a lane (R393 to R398). -/
def Say.store (s : State) : Instr → Option (Nat × Nat × (Nat → Word) × (Nat → Nat))
  | .st8 d a i => some (1, 1, fun l => s.rd a l + Say.offset i 1, fun l => (s.rd d l).toNat)
  | .st16 d a i => some (2, 1, fun l => s.rd a l + Say.offset i 2, fun l => (s.rd d l).toNat)
  | .st32 d a i => some (4, 1, fun l => s.rd a l + Say.offset i 4, fun l => (s.rd d l).toNat)
  | .st64 d a i => some (8, 1, fun l => s.rd a l + Say.offset i 8, fun l => (s.rd d l).toNat)
  | .stx64 d a b _ _ => some (8, 1, fun l => s.rd a l + s.rd b l * 8, fun l => (s.rd d l).toNat)
  | .stx32 d a b _ _ => some (4, 1, fun l => s.rd a l + s.rd b l * 4, fun l => (s.rd d l).toNat)
  | .stq d a _ => some (16, 16, fun l => s.rd a l, fun l => (s.rd d l).toNat + (s.rd (d + 1) l).toNat * 2 ^ 64)
  | .str d a _ => some (8, 8, fun l => s.rd a l, fun l => (s.rd d l).toNat)
  | _ => none

/-- A lane's store lands in place: in a team's local store, or in package memory on a page that needs no copy first (R172),
with the line held in M where the page is COH. -/
def Say.writable (s : State) (n : Nat) : Target → Prop
  | .store _ _ => True
  | .mem pa ty dom va => ty ≠ .sco ∧ (∀ d, dom = some d → s.needsCow (s.ctxOf s.me) d va = false) ∧
    (ty = .coh → ∀ x ∈ linesOf pa n, s.lineSt (clusterOf s.me.core) x = some .M)
  | _ => False

/-- A byte of memory, or of a team's local store, lies outside a lane's access. -/
def Say.clear (n a : Nat) : Target → Prop
  | .mem pa _ _ _ => a < pa ∨ pa + n ≤ a
  | _ => True
def Say.clearStore (n tm a : Nat) : Target → Prop
  | .store u off => u = tm → a < off ∨ off + n ≤ a
  | _ => True

/-- Two lanes' accesses share no byte. -/
def Say.apart (n : Nat) : Target → Target → Prop
  | .mem p _ _ _, .mem q _ _ _ => p + n ≤ q ∨ q + n ≤ p
  | .store t p, .store u q => t = u → p + n ≤ q ∨ q + n ≤ p
  | _, _ => True

/-- Only memory, local store, and what watches them differ; every team is otherwise as it was. -/
def Say.onlyBytes (s t : State) : Prop :=
  t = { s with mem := t.mem, teams := t.teams, monitors := t.monitors, anchors := t.anchors } ∧
  ∀ n, ({ t.team n with lstore := [] } : Team) = { s.team n with lstore := [] }

/-- The bytes at a lane's target. -/
def Say.at_ (s : State) (n : Nat) : Target → List Byte
  | .mem pa _ _ _ => mread s.mem pa n
  | .store t off => mread (s.team t).lstore off n
  | _ => []

/-- Every byte outside the lanes' accesses reads as before. -/
def Say.restKept (s t : State) (n : Nat) (tgt : Nat → Target) : Prop :=
  (∀ a, (∀ l ∈ s.me.E, Say.clear n a (tgt l)) → mget a t.mem = mget a s.mem) ∧
  ∀ tm a, (∀ l ∈ s.me.E, Say.clearStore n tm a (tgt l)) → mget a (t.team tm).lstore = mget a (s.team tm).lstore

/-- Every lane of the group executes, and the accesses cover one line of a COH page, each aligned (R130). -/
def Say.wholeLine (s : State) (n : Nat) (tgt : Nat → Target) (x : Nat) : Prop :=
  s.me.E.length = s.me.W ∧ s.me.W * n = 128 ∧
    ∀ l ∈ s.me.E, ∃ pa dom va, tgt l = .mem pa .coh dom va ∧ pa / 128 = x ∧ pa % n = 0

/-- Nothing is open on a line, no cluster holds it, and its slice has room for it (R13, R133). -/
def Say.freeLine (s : State) (x : Nat) : Prop :=
  (∀ m ∈ s.coh.msgs, m.line ≠ x) ∧ tget x s.coh.dir = none ∧ s.coh.spill = [] ∧ s.sliceFull x = false ∧
    s.sliceHas x (fun d => d.inLlc) 16384 = false

/-- No store of a lane needs a copy first (R172). -/
def Say.noCow (s : State) : Target → Prop
  | .mem _ _ dom va => ∀ d, dom = some d → s.needsCow (s.ctxOf s.me) d va = false
  | _ => True

/-- The lines of a guarded task that an access needs are there (R198): the task has them, or a lone lane's access of one line
brings one for which its set has room. -/
def Say.taskHas (s : State) (n : Nat) (tgt : Nat → Target) (k : Task) : Prop :=
  (∀ l ∈ s.me.E, ∀ pa ty dom va, tgt l = .mem pa ty dom va → ∀ x ∈ linesOf pa n, ∃ y ∈ k.lines, y.line = x) ∨
    ∃ l pa ty dom va, s.me.E = [l] ∧ tgt l = .mem pa ty dom va ∧ pa % 128 + n ≤ 128 ∧ s.specRoom (pa / 128) = true ∧
      ∀ y ∈ k.lines, y.line ≠ pa / 128

/-- Of the whole device only the lines of the present task change, and what watches memory. -/
def Say.onlyTask (s u : State) : Prop :=
  u = { s with tasks := u.tasks, anchors := u.anchors } ∧ (∀ j, j ≠ s.me.taskId → tget j u.tasks = tget j s.tasks) ∧
    u.task s.me.taskId = { s.task s.me.taskId with lines := (u.task s.me.taskId).lines }

/-- Every store outside a task whose lanes' accesses land in place and share no byte completes, but for the store that covers
a whole line of 128 bytes: the bytes at each lane's target, computed as the meaning computes it, are the low bytes of
its value, the least significant first; every other byte of memory and of local store reads as before, and every
register stays. A plain store that covers a whole line of a COH page goes to the line's home and leaves its bytes there
(R130). A store on SCO pages leaves the bytes dirty in its cluster's copies, and memory and every other copy as they were
(R121). In a guarded task the bytes are in the task's lines and memory is as it was (R198); to local store it is PROT
there (R197). -/
def Obligations.StoresComplete : Prop :=
  (∀ (i : Instr) (s : State) (n al : Nat) (va : Nat → Word) (val : Nat → Nat) (tgt : Nat → Target),
    Say.store s i = some (n, al, va, val) → Issues i s → Falls s → s.me.wait ≠ .remote → s.me.taskId = 0 → s.sco = [] →
    (al = 1 → ∀ x, ¬Say.wholeLine s n tgt x) →
    (∀ l ∈ s.me.E, s.prefetch (s.who s.me l) (va l) n = s ∧ s.walkHeld (s.who s.me l) (va l) n = false ∧
      s.targets (s.who s.me l) (va l) n al .store = .ok [(tgt l, n)] ∧ Say.writable s n (tgt l)) →
    (∀ l ∈ s.me.E, ∀ m ∈ s.me.E, l ≠ m → Say.apart n (tgt l) (tgt m)) →
    ∃ u : State, exec i s = .next (u.goneTo s.nextWord) ∧ Say.onlyBytes s u ∧
      (∀ l ∈ s.me.E, Say.at_ u n (tgt l) = toBytes n (val l)) ∧ Say.restKept s u n tgt) ∧
  ∀ (i : Instr) (s : State) (n al : Nat) (va : Nat → Word) (val : Nat → Nat) (tgt : Nat → Target),
    Say.store s i = some (n, al, va, val) → Issues i s → Falls s → s.me.wait ≠ .remote →
    (∀ l ∈ s.me.E, s.prefetch (s.who s.me l) (va l) n = s ∧ s.walkHeld (s.who s.me l) (va l) n = false ∧
      s.targets (s.who s.me l) (va l) n al .store = .ok [(tgt l, n)]) →
    (∀ l ∈ s.me.E, ∀ m ∈ s.me.E, l ≠ m → Say.apart n (tgt l) (tgt m)) →
    let cl := clusterOf s.me.core
    (∀ x, al = 1 → s.me.taskId = 0 → Say.wholeLine s n tgt x → Say.freeLine s x → (∀ l ∈ s.me.E, Say.noCow s (tgt l)) →
      ∃ u : State, exec i s = .next (u.goneTo s.nextWord) ∧
        u = { s with mem := u.mem, coh := u.coh, monitors := u.monitors, anchors := u.anchors } ∧
        (∀ l ∈ s.me.E, Say.at_ u n (tgt l) = toBytes n (val l)) ∧ ∀ a, a / 128 ≠ x → mget a u.mem = mget a s.mem) ∧
    (s.me.taskId = 0 → (∀ d a e, i = .str d a e → ¬(2 ≤ e.toNat ∨ e.toNat = 0 ∧ s.spans s.me.team = true)) →
      (∀ l ∈ s.me.E, Say.noCow s (tgt l) ∧ ∃ pa dom va, tgt l = .mem pa .sco dom va ∧
        ∀ x ∈ linesOf pa n, ∃ y, s.scoLine cl x = some y ∧ y.data.length = 128) →
      ∃ u : State, exec i s = .next (u.goneTo s.nextWord) ∧ u = { s with sco := u.sco, anchors := u.anchors } ∧
        (∀ l ∈ s.me.E, ∀ pa ty dom va, tgt l = .mem pa ty dom va → ∀ j, j < n →
          ∃ y, u.scoLine cl ((pa + j) / 128) = some y ∧ y.data.getD ((pa + j) % 128) 0 = BitVec.ofNat 8 (val l / 2 ^ (8 * j)) ∧
            y.dirty.testBit ((pa + j) % 128) = true) ∧
        (∀ c x, c ≠ cl → u.scoLine c x = s.scoLine c x) ∧
        ∀ x y, s.scoLine cl x = some y → ∃ z, u.scoLine cl x = some z ∧ z.data.length = y.data.length ∧
          ∀ j, j < 128 → (∀ l ∈ s.me.E, Say.clear n (x * 128 + j) (tgt l)) →
            z.data.getD j 0 = y.data.getD j 0 ∧ z.dirty.testBit j = y.dirty.testBit j) ∧
    ∀ k, s.me.taskId ≠ 0 → tget s.me.taskId s.tasks = some k → (∀ y ∈ k.lines, y.deltas = []) → Say.taskHas s n tgt k →
      ∃ u : State, exec i s = .next (u.goneTo s.nextWord) ∧ Say.onlyTask s u ∧
        (∀ l ∈ s.me.E, ∀ pa ty dom va, tgt l = .mem pa ty dom va → ∀ j, j < n →
          ∃ y, ((u.task s.me.taskId).lines.find? fun y => y.line == (pa + j) / 128) = some y ∧ y.deltas = [] ∧
            tget ((pa + j) % 128) y.bytes = some (BitVec.ofNat 8 (val l / 2 ^ (8 * j)))) ∧
        ∀ a b com, (∀ l ∈ s.me.E, Say.clear n a (tgt l)) → Say.sees s s.me.taskId com a b → Say.sees u s.me.taskId com a b

/-- Atomics (R309, R310): the operation, whether it is an .AR form, and d, a, b. -/
def Say.atomic : Instr → Option (AOp × Bool × Spec × Spec × Spec)
  | .aadd d a b _ => some (.add, false, d, a, b)
  | .aaddW d a b _ => some (.addW, false, d, a, b)
  | .aminS d a b _ => some (.minS, false, d, a, b)
  | .amaxS d a b _ => some (.maxS, false, d, a, b)
  | .aminZ d a b _ => some (.minZ, false, d, a, b)
  | .amaxZ d a b _ => some (.maxZ, false, d, a, b)
  | .aand d a b _ => some (.and, false, d, a, b)
  | .aor d a b _ => some (.or, false, d, a, b)
  | .axor d a b _ => some (.xor, false, d, a, b)
  | .axch d a b _ => some (.xch, false, d, a, b)
  | .acas d a b _ => some (.cas, false, d, a, b)
  | .acasW d a b _ => some (.casW, false, d, a, b)
  | .afaddF d a b _ => some (.faddF, false, d, a, b)
  | .afaddD d a b _ => some (.faddD, false, d, a, b)
  | .ainc d a b _ => some (.inc, false, d, a, b)
  | .adec d a b _ => some (.dec, false, d, a, b)
  | .aaddAr d a b _ => some (.add, true, d, a, b)
  | .aaddWAr d a b _ => some (.addW, true, d, a, b)
  | .aminSAr d a b _ => some (.minS, true, d, a, b)
  | .amaxSAr d a b _ => some (.maxS, true, d, a, b)
  | .aminZAr d a b _ => some (.minZ, true, d, a, b)
  | .amaxZAr d a b _ => some (.maxZ, true, d, a, b)
  | .aandAr d a b _ => some (.and, true, d, a, b)
  | .aorAr d a b _ => some (.or, true, d, a, b)
  | .axorAr d a b _ => some (.xor, true, d, a, b)
  | .axchAr d a b _ => some (.xch, true, d, a, b)
  | .acasAr d a b _ => some (.cas, true, d, a, b)
  | .acasWAr d a b _ => some (.casW, true, d, a, b)
  | .afaddFAr d a b _ => some (.faddF, true, d, a, b)
  | .afaddDAr d a b _ => some (.faddD, true, d, a, b)
  | .aincAr d a b _ => some (.inc, true, d, a, b)
  | .adecAr d a b _ => some (.dec, true, d, a, b)
  | _ => none

/-- Bytes of an atomic: 4 for the .W and .F forms, else 8. -/
def Say.atomicSize : AOp → Nat
  | .addW | .casW | .faddF => 4
  | _ => 8

/-- The new value of an atomic on an old one, with b and, for ACAS, d (R310, R313). -/
def Say.atomicNew (op : AOp) (old b e : Nat) : Nat :=
  let signed (x : Nat) : Int := (BitVec.ofNat 64 x).toInt
  match op with
  | .add => (old + b) % 2 ^ 64
  | .addW => (old + b) % 2 ^ 32
  | .minS => if signed b < signed old then b else old
  | .maxS => if signed old < signed b then b else old
  | .minZ => min old b
  | .maxZ => max old b
  | .and => Nat.land old b
  | .or => Nat.lor old b
  | .xor => Nat.xor old b
  | .xch => b
  | .cas | .casW => if old = e then b else old
  | .faddF => (fadd b32 .rne false false old b).1
  | .faddD => (fadd b64 .rne false false old b).1
  | .inc => if b ≤ old then 0 else old + 1
  | .dec => if old = 0 ∨ b < old then b else old - 1
  | _ => old

/-- A lane's atomic is performed in place: in local store, or on a COH page of package memory whose line no cache and no
directory holds, and that needs no copy first. -/
def Say.atomicPlace (s : State) : Target → Prop
  | .store _ _ => True
  | .mem pa ty dom va => ty = .coh ∧ tget (lineOf pa) s.coh.dir = none ∧
    ∀ d, dom = some d → s.needsCow (s.ctxOf s.me) d va = false
  | _ => False

/-- The coherent byte at an address of package memory: that of the one cluster's copy that has it dirty, or, where none has,
memory's. -/
def Say.coherentByte (s : State) (a : Nat) (b : Byte) : Prop :=
  (∃ y ∈ s.sco, y.line = a / 128 ∧ y.dirty.testBit (a % 128) = true ∧ y.data.getD (a % 128) 0 = b ∧
    ∀ z ∈ s.sco, z.line = a / 128 → z.dirty.testBit (a % 128) = true → z = y) ∨
  (∀ y ∈ s.sco, y.line = a / 128 → y.dirty.testBit (a % 128) = false) ∧ mget a s.mem = b

/-- Every atomic outside a task whose lanes' places share no byte completes: d awaits the old value (sign-extended for the
.W forms), the place holds the new one, every other byte reads as before. A reduction form (d = z, relaxed, R127) on a
COH page goes where R127 lets it be performed; a lone lane's completes with the home or a partial changed so. Where
clusters have SCO copies of the lines, these are recalled first (R127): the old value is the coherent one, the new one is
at the home, no copy of the line is left, and every other byte keeps its coherent value. In a guarded task (R198, R199)
memory is as it was: the old value is what the task sees, and the task sees the new one from then on; a lone lane's reduction
form becomes a delta of the task where no byte of its element is stored and no other delta meets it. -/
def Obligations.AtomicsComplete : Prop :=
  (∀ (i : Instr) (s : State) (op : AOp) (ar : Bool) (d a b : Spec) (tgt : Nat → Target),
    Say.atomic i = some (op, ar, d, a, b) → Issues i s → Falls s → s.me.wait ≠ .remote → s.me.taskId = 0 → s.sco = [] →
    s.bad = [] →
    let n := Say.atomicSize op
    let part (c : Spec) (l : Nat) : Nat := (s.rd c l).toNat % 2 ^ (8 * n)
    let red : Prop := ar = false ∧ d = 0x79 ∧ op ≠ .xch ∧ op ≠ .cas ∧ op ≠ .casW ∧ op ≠ .inc ∧ op ≠ .dec
    (∀ l ∈ s.me.E, s.prefetch (s.who s.me l) (s.rd a l) n = s ∧
      s.targets (s.who s.me l) (s.rd a l) n n .atomic = .ok [(tgt l, n)] ∧ Say.atomicPlace s (tgt l)) →
    (∀ l ∈ s.me.E, ∀ m ∈ s.me.E, l ≠ m → Say.apart n (tgt l) (tgt m)) →
    ((¬red ∨ ∀ l ∈ s.me.E, ∃ tm off, tgt l = .store tm off) →
      let old (l : Nat) : Nat := ofBytes (Say.at_ s n (tgt l))
      ∃ u, exec i s = .next ((u.putLong d (s.me.E.map fun l =>
          (l, if op = .addW ∨ op = .casW then sExt (old l) 32 else BitVec.ofNat 64 (old l)))).goneTo s.nextWord) ∧
        Say.onlyBytes s u ∧
        (∀ l ∈ s.me.E, Say.at_ u n (tgt l) = toBytes n (Say.atomicNew op (old l) (part b l) (part d l))) ∧
        Say.restKept s u n tgt) ∧
    (red → ∀ l pa ty dom va, s.me.E = [l] → tgt l = .mem pa ty dom va →
      ∃ an, exec i s = .next (({ s.reduce (clusterOf s.me.core) op pa (part b l) with anchors := an } : State).goneTo s.nextWord))) ∧
  ∀ (i : Instr) (s : State) (op : AOp) (ar : Bool) (d a b : Spec) (tgt : Nat → Target) (bs : Nat → List Byte),
    Say.atomic i = some (op, ar, d, a, b) → Issues i s → Falls s → s.me.wait ≠ .remote → s.bad = [] →
    let n := Say.atomicSize op
    let part (c : Spec) (l : Nat) : Nat := (s.rd c l).toNat % 2 ^ (8 * n)
    let red : Prop := ar = false ∧ d = 0x79 ∧ op ≠ .xch ∧ op ≠ .cas ∧ op ≠ .casW ∧ op ≠ .inc ∧ op ≠ .dec
    let old (l : Nat) : Nat := ofBytes (bs l)
    let out (l : Nat) : Word := if op = .addW ∨ op = .casW then sExt (old l) 32 else BitVec.ofNat 64 (old l)
    let new (l : Nat) : List Byte := toBytes n (Say.atomicNew op (old l) (part b l) (part d l))
    (∀ l ∈ s.me.E, s.prefetch (s.who s.me l) (s.rd a l) n = s ∧
      s.targets (s.who s.me l) (s.rd a l) n n .atomic = .ok [(tgt l, n)] ∧ (bs l).length = n) →
    (∀ l ∈ s.me.E, ∀ m ∈ s.me.E, l ≠ m → Say.apart n (tgt l) (tgt m)) →
    (s.me.taskId = 0 →
      (∀ l ∈ s.me.E, ∃ pa ty dom va, tgt l = .mem pa ty dom va ∧ (ty = .coh ∧ ¬red ∨ ty = .sco) ∧
        tget (lineOf pa) s.coh.dir = none ∧ Say.noCow s (tgt l) ∧
        ∀ j, j < n → Say.coherentByte s (pa + j) ((bs l).getD j 0)) →
      ∃ u, exec i s = .next ((u.putLong d (s.me.E.map fun l => (l, out l))).goneTo s.nextWord) ∧
        u = { s with mem := u.mem, sco := u.sco, monitors := u.monitors, anchors := u.anchors } ∧
        (∀ l ∈ s.me.E, Say.at_ u n (tgt l) = new l ∧ ∀ pa ty dom va, tgt l = .mem pa ty dom va → ∀ y ∈ u.sco, y.line ≠ pa / 128) ∧
        (∀ p v, (∀ l ∈ s.me.E, Say.clear n p (tgt l)) → Say.coherentByte s p v → Say.coherentByte u p v) ∧
        (ar = false → ∀ y ∈ s.sco, (∀ l ∈ s.me.E, ∀ pa ty dom va, tgt l = .mem pa ty dom va → y.line ≠ pa / 128) → y ∈ u.sco)) ∧
    ∀ k, s.me.taskId ≠ 0 → tget s.me.taskId s.tasks = some k →
      (∀ ty, ¬red → Say.taskHas s n tgt k → (∀ l ∈ s.me.E, ∃ pa dom va, tgt l = .mem pa ty dom va) →
        (∀ l ∈ s.me.E, Say.reads s s.me.taskId n (bs l) (tgt l)) → (ar = true → s.sco = []) →
        let com := s.clusterByte (clusterOf s.me.core) ty
        ∃ u, exec i s = .next ((u.putLong d (s.me.E.map fun l => (l, out l))).goneTo s.nextWord) ∧ Say.onlyTask s u ∧
          (∀ l ∈ s.me.E, ∀ pa dom va, tgt l = .mem pa ty dom va → ∀ j, j < n →
            Say.sees u s.me.taskId com (pa + j) ((new l).getD j 0)) ∧
          ∀ p v, (∀ m ∈ s.me.E, Say.clear n p (tgt m)) → Say.sees s s.me.taskId com p v → Say.sees u s.me.taskId com p v) ∧
      (red → ∀ l pa ty dom va y, s.me.E = [l] → tgt l = .mem pa ty dom va →
        (k.lines.find? fun y => y.line == pa / 128) = some y → (∀ j, j < n → tget (pa % 128 + j) y.bytes = none) →
        (∀ e ∈ y.deltas, e.1 + e.2.1.size ≤ pa % 128 ∨ pa % 128 + n ≤ e.1 ∨ e.1 = pa % 128 ∧ e.2.1 = op) →
        ∃ u z, exec i s = .next (u.goneTo s.nextWord) ∧ Say.onlyTask s u ∧
          ((u.task s.me.taskId).lines.find? fun y => y.line == pa / 128) = some z ∧ z.bytes = y.bytes ∧
          tget (pa % 128) z.deltas = some (op, Say.atomicNew op (match tget (pa % 128) y.deltas with
            | some v => v.2
            | none => op.ident) (part b l) 0) ∧
          ∀ o, o ≠ pa % 128 → tget o z.deltas = tget o y.deltas)

/-- Bytes, alignment and address of a memory access, and its kind, for the checks of R116. -/
def Say.access (s : State) (i : Instr) : Option (Nat × Nat × (Nat → Word) × AKind) :=
  match Say.load s (fun _ => .device 0) i, Say.store s i, Say.atomic i with
  | some x, _, _ => some (x.n, x.al, x.va, .load)
  | _, some (n, al, va, _), _ => some (n, al, va, .store)
  | _, _, some (op, _, _, a, _) => some (Say.atomicSize op, Say.atomicSize op, fun l => s.rd a l, .atomic)
  | _, _, _ => none

/-- The state after the walks that an access of every lane makes (R119). -/
def Say.walked (s : State) (n : Nat) (va : Nat → Word) : State :=
  s.me.E.foldl (fun u l => u.prefetch (u.who s.me l) (va l) n) s

/-- Faults of loads, stores and atomics (R116, R166): a cause that stops the lowest lane of E is raised with that lane's
address as TVAL, and no lane has an effect; an LDV of a version below the oldest raises VRET, of one above the open one VFUT.
An access of a lone lane to a device register, whose behaviour the manual does not give, stops with a refusal. The checks
of an address in their order (R109, R110, R116): a window other than the global, the private and the local one, an access
beyond the private slot or beyond the local store, is NOADDR; then a misaligned address is ALIGN; then translation
decides. -/
def Obligations.AccessTraps : Prop :=
  (∀ (i : Instr) (s u : State) (n al : Nat) (va : Nat → Word) (k : AKind) (l : Nat) (rest : List Nat),
    Say.access s i = some (n, al, va, k) → Issues i s → s.me.wait ≠ .remote → s.bad = [] → s.me.E = l :: rest →
    u = Say.walked s n va →
    (∀ c, u.targets (u.who s.me l) (va l) n al k = .error c → exec i s = .next (u.raise c (va l))) ∧
    (∀ d a b x pa ty dom v, i = .ldv d a b x → u.targets (u.who s.me l) (va l) n al k = .ok [(.mem pa ty (some dom) v, n)] →
      ((s.rd b l).toNat % 2 ^ 32 < u.domOldest (u.ctxOf s.me) dom → exec i s = .next (u.raise .vret (va l))) ∧
      (u.domOldest (u.ctxOf s.me) dom ≤ (s.rd b l).toNat % 2 ^ 32 →
        u.domOpen (u.ctxOf s.me) dom < (s.rd b l).toNat % 2 ^ 32 → exec i s = .next (u.raise .vfut (va l)))) ∧
    ∀ pa, rest = [] → u.targets (u.who s.me l) (va l) n al k = .ok [(.device pa, n)] →
      exec i s = .refused (.deviceRegister pa)) ∧
  (∀ (s : State) (w : Who) (va : Word) (n al : Nat) (k : AKind),
    let off := va.toNat % 2 ^ 56
    let priv := (s.grid (s.team w.team).grid).pkt.priv
    (va.toNat / 2 ^ 56 ≠ 0 → va.toNat / 2 ^ 56 ≠ 0xFE → va.toNat / 2 ^ 56 ≠ 0xFF → s.targets w va n al k = .error .noaddr) ∧
    (va.toNat / 2 ^ 56 = 0xFE → priv < off + n → s.targets w va n al k = .error .noaddr) ∧
    (va.toNat / 2 ^ 48 = 0xFF00 → (s.team w.team).lsize < va.toNat % 2 ^ 48 + n → s.targets w va n al k = .error .noaddr) ∧
    (va.toNat / 2 ^ 48 = 0xFF00 → va.toNat % 2 ^ 48 + n ≤ (s.team w.team).lsize → k ≠ .fetch → va.toNat % al ≠ 0 →
      s.targets w va n al k = .error .align) ∧
    (va.toNat / 2 ^ 48 = 0xFF00 → va.toNat % 2 ^ 48 + n ≤ (s.team w.team).lsize → k = .load → va.toNat % al = 0 →
      s.targets w va n al k = .ok [(.store w.team (va.toNat % 2 ^ 48), n)]) ∧
    (va.toNat / 2 ^ 56 = 0 → off + n ≤ 2 ^ 56 → va.toNat % al ≠ 0 → s.targets w va n al k = .error .align) ∧
    ∀ c, va.toNat / 2 ^ 56 = 0 → va.toNat % al = 0 → off % 65536 + n ≤ 65536 → off + n ≤ 2 ^ 56 →
      s.globalAt w.core w.ctx off k = .error c → s.targets w va n al k = .error c)

/-- The global address behind a pointer of a lane (R111, R112): a global one itself, a private one that of the thread's slot;
none for every other window and beyond the slot. -/
def Say.global (s : State) (l : Nat) (x : Word) : Option Word :=
  let gr := s.grid s.myTeam.grid
  let off := x.toNat % 2 ^ 56
  if x.toNat / 2 ^ 56 = 0 then some x
  else if x.toNat / 2 ^ 56 = 0xFE ∧ off < gr.pkt.priv then
    some (BitVec.ofNat 64 ((gr.arena.toNat + (s.myTeam.tix * s.myTeam.cap + (s.me.lane l).th.tid) * gr.pkt.priv + off) % 2 ^ 56))
  else none

/-- The scopes at which SCO actions are taken (R121): .die and wider, and .team of a team that spans clusters. -/
def Say.scoped (s : State) (x : BitVec 3) : Prop := 2 ≤ x.toNat ∨ x.toNat = 0 ∧ s.spans s.me.team = true

/-- Every dirty byte of a cluster's SCO copies is at its home, and every byte that no copy of it has dirty is as it was; only
memory, the SCO copies, and the monitors and anchors that watch memory change. -/
def Say.wroteBack (s t : State) (cl : Nat) : Prop :=
  t = { s with mem := t.mem, sco := t.sco, monitors := t.monitors, anchors := t.anchors } ∧
  (∀ y ∈ s.sco, y.cl = cl → (∀ z ∈ s.sco, z.cl = cl → z.line = y.line → z = y) → ∀ n, n < 128 → y.dirty.testBit n = true →
    mget (y.line * 128 + n) t.mem = y.data.getD n 0) ∧
  ∀ a, (∀ y ∈ s.sco, y.cl = cl → y.line = a / 128 → y.dirty.testBit (a % 128) = false) → mget a t.mem = mget a s.mem

/-- The partials of a line that pend (R128, R129): of copies in U in use, and on their way to the home. -/
def Say.partials (s : State) (x : Nat) : List (AOp × Tab Nat) :=
  (s.coh.lines.filterMap fun y => match y.st with
    | .U k => if y.line = x ∧ y.wb = false then some (k, y.part) else none
    | _ => none) ++
  s.coh.msgs.filterMap fun m => match m.kind with
    | .partial_ p k | .wbu p k => if m.line = x then some (k, p) else none
    | _ => none

/-- A whole-line store (R130) of a line is on its way to the home, or waits there. -/
def Say.lineStoreOut (s : State) (x : Nat) : Prop :=
  (∃ m ∈ s.coh.msgs, m.line = x ∧ ∃ v, m.kind = .req (.wrL v)) ∨
  (∃ e ∈ s.coh.spill, ∃ r ∈ e.2, r.1 = x ∧ ∃ v, r.2.2 = .wrL v) ∨
  (∃ c v, (c, Req.wrL v) ∈ (s.dirOf x).waiting) ∨ ∃ c v, (s.dirOf x).txn = some (c, .wrL v)

/-- A line on which nothing is open, with the copies in U that its directory lists and no two of one cluster (R131). -/
def Say.stillLine (s : State) (x : Nat) : Prop :=
  (∀ m ∈ s.coh.msgs, m.line ≠ x) ∧ (∀ e ∈ s.coh.spill, ∀ r ∈ e.2, r.1 ≠ x) ∧
  (s.dirOf x).txn = none ∧ (s.dirOf x).waiting = [] ∧ (s.dirOf x).held = none ∧
  ((s.coh.lines.filter fun y => y.line == x).map fun y => y.cl).Nodup ∧
  ∀ y ∈ s.coh.lines, y.line = x → y.wb = false ∧
    ∀ k, y.st = .U k → (∃ j, (s.dirOf x).st = .U j) ∧ y.cl ∈ (s.dirOf x).holders

/-- PTOG (R112) completes with the global address behind each lane's pointer in d, or raises NOADDR for the lowest lane that
has none. FLSH (R121, R356) completes: at the scopes that ask for it every dirty SCO byte of the issuing core's cluster is
written back and the copies stay, clean; at the others it only goes on. INVL (R121, R356) completes: at those scopes the
bytes are written back and every SCO copy of the cluster is gone. PREF (R380) completes whatever its addresses and hint: no
register, flag or other part of a group changes, and of the rest only memory's caches, translations and what watches
memory; and it stores nothing. On a line of which no partial is pending but empty ones, and no whole-line store, every
byte keeps its coherent value: the dirty byte of a cluster's copy, or memory's. On a line with partials on which nothing is
open, and no SCO copy dirty, memory has its old bytes with some of these partials combined (R128), and the others still
pend. -/
def Obligations.CacheResults : Prop :=
  (∀ (s : State) (d a : Spec) (f : BitVec 1) (val : Nat → Word), Issues (.ptog d a f) s → Falls s →
    (∀ l ∈ s.me.E, Say.global s l (s.rd a l) = some (val l)) →
    ∃ t, exec (.ptog d a f) s = .next t ∧ DirectEffect s t d val (fun _ => none) fun _ => 0) ∧
  (∀ (s : State) (d a : Spec) (f : BitVec 1) (before rest : List Nat) (l : Nat), Issues (.ptog d a f) s →
    s.me.E = before ++ l :: rest → (∀ m ∈ before, Say.global s m (s.rd a m) ≠ none) → Say.global s l (s.rd a l) = none →
    exec (.ptog d a f) s = .next (s.raise .noaddr (s.rd a l))) ∧
  (∀ (s : State) (x : BitVec 3), Issues (.flsh x) s → Falls s →
    (Say.scoped s x → ∃ t, exec (.flsh x) s = .next (t.goneTo s.nextWord) ∧ Say.wroteBack s t (clusterOf s.me.core) ∧
      t.sco = s.sco.map fun y => if y.cl = clusterOf s.me.core then { y with dirty := 0 } else y) ∧
    (¬Say.scoped s x → exec (.flsh x) s = .next (s.goneTo s.nextWord))) ∧
  (∀ (s : State) (x : BitVec 3), Issues (.invl x) s → Falls s →
    (Say.scoped s x → ∃ t, exec (.invl x) s = .next (t.goneTo s.nextWord) ∧ Say.wroteBack s t (clusterOf s.me.core) ∧
      t.sco = s.sco.filter fun y => y.cl != clusterOf s.me.core) ∧
    (¬Say.scoped s x → exec (.invl x) s = .next (s.goneTo s.nextWord))) ∧
  ∀ (s : State) (a : Spec) (h : BitVec 3), Issues (.pref a h) s → Falls s →
    ∃ t : State, exec (.pref a h) s = .next (t.goneTo s.nextWord) ∧
      t = { s with mem := t.mem, coh := t.coh, sco := t.sco, ro := t.ro, tlb := t.tlb, monitors := t.monitors, anchors := t.anchors } ∧
      (∀ x, (∀ y ∈ s.coh.lines, y.line = x → y.part = []) → (∀ p ∈ Say.partials s x, p.2 = []) → ¬Say.lineStoreOut s x →
        ∀ p v, p / 128 = x → Say.coherentByte s p v → Say.coherentByte t p v) ∧
      ∀ x, Say.stillLine s x → (∀ y ∈ s.sco, y.line = x → y.dirty = 0) →
        ∃ done open_ : List (AOp × Tab Nat), (done ++ open_).Perm (Say.partials s x) ∧ open_.Perm (Say.partials t x) ∧
          ∀ p, p / 128 = x → mget p t.mem = mget p (done.foldl (fun (u : State) y => u.combine x y.1 y.2) s).mem
/-! ### Control flow -/

/-- The flags on which a condition code holds (R77). -/
def Say.cond (c : Nat) (f : Nzcv) : Bool :=
  let n := f.getLsbD 3
  let z := f.getLsbD 2
  let k := f.getLsbD 1
  let v := f.getLsbD 0
  match c with
  | 0 => z | 1 => !z | 2 => k | 3 => !k | 4 => n | 5 => !n | 6 => v | 7 => !v
  | 8 => k && !z | 9 => !k || z | 10 => n == v | 11 => n != v | 12 => !z && n == v | 13 => z || n != v | 15 => true
  | _ => false

/-- Transfers (R324, R326, R357, R382): where a lane goes on, and the register that takes the return address. -/
def Say.transfer (s : State) (l : Nat) : Instr → Option (Word × Option Spec)
  | .br c p => some (if Say.cond c.toNat (s.me.lane l).th.nzcv then s.me.pc + BitVec.ofInt 64 (p.toInt * 4) else s.me.pc + 4, none)
  | .call p => some (s.me.pc + BitVec.ofInt 64 (p.toInt * 4), some 0x6F)
  | .ret => some (s.rd 0x6F l, none)
  | .jmp a => some (s.rd a l, none)
  | .jmpl d a => some (s.rd a l, some d)
  | _ => none

/-- BR, CALL, RET, JMP and JMPL whose lanes stay in the segment complete: each lane of E goes on at its own target, read
before any write; CALL and JMPL leave the next word's address in their register, with lat as it was; nothing else
changes. -/
def Obligations.TransferResults : Prop :=
  ∀ (i : Instr) (s : State) (tgt : Nat → Word) (link : Option Spec), (∀ l, Say.transfer s l i = some (tgt l, link)) →
    Issues i s → StaysAt s false (s.me.E.map fun l => (l, tgt l)) →
    ∃ t, exec i s = .next t ∧ OnlyMe s t ∧ GroupKept s.me t.me ∧ (∀ l, l ∉ s.me.E → t.me.lane l = s.me.lane l) ∧
      (∀ l ∈ s.me.E, t.me.lane l = { s.me.lane l with pcv := tgt l, freed := none, th := { (s.me.lane l).th with
        v := (t.me.lane l).th.v, o := (t.me.lane l).th.o } }) ∧
      (∀ l k, (∀ d, link = some d → k ≠ s.me.key d) → t.me.readKey l k = s.me.readKey l k) ∧
      ∀ d, link = some d → ∀ l ∈ s.me.E, t.me.readKey l (s.me.key d) = if s.me.key d = .none then 0 else s.me.pc + 4

/-- BRG (R44): with an open task, a parked frame of the group or a lane that waits it raises ILL; while an MMA of the group
is in flight it waits, and keeps its address and E; otherwise every ready lane, at its branch target or, outside E, at its own pcv, goes into bins, and
where all of them stay on the core and the first fits the group's lanes are sent one after the other. The record of a lone
lane, outside a Bramble kernel and with nothing waiting before it, joins the bin of its team and target, or starts one in
the lowest empty bin (R40), with the thread's whole state (R42); the lane has departed. -/
def Obligations.BrgResults : Prop :=
  ∀ (s : State) (c : BitVec 4) (p : BitVec 20), Issues (.brg c p) s →
    let ls := s.brgLanes c.toNat p
    (s.brgBarred = true → exec (.brg c p) s = .next (s.raise .ill (wordVal (.brg c p)))) ∧
    (s.brgBarred = false → s.mmaInFlight s.cur = true →
      ∃ t, exec (.brg c p) s = .next t ∧ OnlyMe s t ∧ t.me = { s.me.latch with wait := .brg }) ∧
    (∀ l, (∃ T b, (l, T, b) ∈ ls) ↔ l < s.me.W ∧ (s.me.lane l).occ = true ∧ (s.me.lane l).status = .ready) ∧
    (∀ l T b, (l, T, b) ∈ ls → T = if l ∈ s.me.E then
        (if Say.cond c.toNat (s.me.lane l).th.nzcv then s.me.pc + BitVec.ofInt 64 (p.toInt * 4) else s.me.pc + 4)
      else (s.me.lane l).pcv) ∧
    (s.brgBarred = false → s.mmaInFlight s.cur = false → (∀ x ∈ ls, x.2.2 = true) → s.brgFits ls = true →
      exec (.brg c p) s = .next ((s.modMe fun g => { g with
        depart := some (ls, []), before := ls.map fun x => (x.1, s.me.lane x.1), wait := .none, force := false,
        latched := none }).runDepart (ls.length + 2))) ∧
    ∀ l T, s.brgBarred = false → s.mmaInFlight s.cur = false → ls = [(l, T, true)] → s.brgFits ls = true →
      s.myGrid.bramble = false → s.ringGrids s.me.core = [] → (s.core s.me.core).arrive = [] → (s.core s.me.core).spill = [] →
      let r : Rec := { team := s.me.team, tgt := T, th := (s.me.lane l).th, lv := s.me.R, lo := 16, came := s.tick }
      let bins := (s.core s.me.core).bins
      let same := bins.find? fun e => e.2.team == s.me.team && e.2.addr == T && decide (e.2.recs.length < 64)
      (∀ n b, same = some (n, b) → ∃ t, exec (.brg c p) s = .next t ∧
        tget n (t.core s.me.core).bins = some { b with recs := b.recs ++ [r] } ∧
        (tget s.cur t.groups = none ∨ ((t.grp s.cur).lane l).status = .departed)) ∧
      (same = none → tfree 0 bins < 16 → ∃ t, exec (.brg c p) s = .next t ∧
        tget (tfree 0 bins) (t.core s.me.core).bins = some
          { team := s.me.team, addr := T, recs := [r], expires := s.tick + s.myGrid.pkt.bint, since := s.tick, due := false } ∧
        (tget s.cur t.groups = none ∨ ((t.grp s.cur).lane l).status = .departed))

/-- SPAWN (R43): in supervisor mode or with an open task it raises ILL; an entry that is no multiple of 4 in a lane of E
raises ALIGN, and no lane spawns. In a team that is full every lane's d is −1 and nothing else changes. A lone lane whose
team has a free tid receives the lowest, which is live from then on, and the new thread's record has gone to a bin, a
buffer, a ring or a spill. EXIT (R344): the lanes of E have exited, and their tids are free. -/
def Obligations.SpawnAndExit : Prop :=
  (∀ (s : State) (d a b : Spec), Issues (.spawn d a b) s →
    let bad := ∃ l ∈ s.me.E, (s.rd a l).toNat % 4 ≠ 0
    let off := ∃ l ∈ s.me.E, s.spawnBad (s.rd a l) = true
    (s.me.sup = true ∨ s.me.taskId ≠ 0 → exec (.spawn d a b) s = .next (s.raise .ill (wordVal (.spawn d a b)))) ∧
    (s.me.sup = false → s.me.taskId = 0 → bad →
      ∃ l ∈ s.me.E, (s.rd a l).toNat % 4 ≠ 0 ∧ exec (.spawn d a b) s = .next (s.raise .align (s.rd a l))) ∧
    (s.me.sup = false → s.me.taskId = 0 → ¬bad → ¬off → Falls s → s.myTeam.freeTid = none →
      ∃ t, exec (.spawn d a b) s = .next t ∧ DirectEffect s t d (fun _ => BitVec.allOnes 64) (fun _ => none) fun _ => 0) ∧
    ∀ l n u, s.me.sup = false → s.me.taskId = 0 → ¬bad → ¬off → Falls s → s.me.E = [l] → s.myTeam.freeTid = some n →
      (s.modTeam s.me.team fun x => { x with live := x.live ++ [n] }).spawnRec n (s.rd a l) (s.rd b l) = some u →
      exec (.spawn d a b) s = .next ((u.putDirect d [(l, BitVec.ofNat 64 n)]).goneTo s.nextWord)) ∧
  ∀ s : State, Issues .exit s → s.me.sup = false → s.me.taskId = 0 → (∀ e ∈ s.myTeam.frames, e.2.gid ≠ s.cur) →
    ∃ t, exec .exit s = .next t ∧
      (t.team s.me.team).live = s.myTeam.live.filter (fun x => !(s.me.E.map fun l => (s.me.lane l).th.tid).contains x) ∧
      (tget s.cur t.groups = none ∨ ∀ l ∈ s.me.E, ((t.grp s.cur).lane l).status = .exited)

/-- TRAP, SVC and BKPT raise their causes with the code as TVAL, whatever the mode (R329, R400). BKPT is the word
0xCE00_0000 with its code in the b field; it raises BKPT with EPC at its own address and TVAL its code, and in supervisor
mode the trap ends the grid (R329). -/
def Obligations.SoftwareTraps : Prop :=
  (∀ c : BitVec 7, encode (.bkpt c) = some (0xCE000000#32 ||| c.setWidth 32 <<< 3)) ∧ encode (.bkpt 5) = some 0xCE000028#32 ∧
  ∀ (s : State) (c : BitVec 7),
    (Issues (.trap c) s → exec (.trap c) s = .next (s.raise .trap (c.setWidth 64))) ∧
    (Issues (.svc c) s → exec (.svc c) s = .next (s.raise .svc (c.setWidth 64))) ∧
    (Issues (.bkpt c) s → let t := s.raise .bkpt (c.setWidth 64)
      exec (.bkpt c) s = .next t ∧
      (s.mmaInFlight s.cur = false → s.me.sup = false → s.me.taskId = 0 → (s.ctx (s.ctxOf s.me)).tvec ≠ 0 →
        t.me.sup = true ∧ t.me.epc = s.me.pc ∧ t.me.tval = c.setWidth 64 ∧ t.me.cause = 0x19#64) ∧
      (s.mmaInFlight s.cur = false → s.me.sup = true → s.me.taskId = 0 → s.canPost (dieOf s.me.core) 3 = true →
        t = (s.dropTry s.cur).gridFatal s.myTeam.grid s.me.core .bkpt (c.setWidth 64) s.me.pc s.me.team))

/-- ERET (R223, R265, R434): unless E is TLANES it raises ILL; while an MMA of the group, or of another handler on the store
that the supervisor holds, is in flight it waits. Otherwise,
where the lanes stay on the core, the group is in user mode, and the lanes of TLANES go to EPC, ready, all others staying as
they are; after a trap that reached the group at no instruction the lanes of TLANES have the status and pcv that were kept
for them. An accumulator store that the supervisor holds is free. Where the lanes depart, the steps of R93 come in their order:
with no task, no parked frame of the group, a listed entry whose registers fit the main file (steps 1 to 3) and are full
(step 4), a segment without a replica raises BRENTRY at step 5; with a parked frame it is ILL before that (R268). -/
def Obligations.TrapReturn : Prop :=
  ∀ s : State, Issues .eret s →
    (s.me.eMask ≠ s.me.tlanes.toNat → exec .eret s = .next (s.raise .ill (wordVal .eret))) ∧
    (s.me.eMask = s.me.tlanes.toNat → s.mmaInFlight s.cur = true ∨ s.supMma s.me = true →
      ∃ t, exec .eret s = .next t ∧ OnlyMe s t ∧ t.me = { s.me.latch with wait := .mma }) ∧
    (s.me.eMask = s.me.tlanes.toNat → s.mmaInFlight s.cur = false → s.supMma s.me = false →
      (s.me.kept ≠ none ∨ StaysAt s false (s.me.E.map fun l => (l, s.me.epc)) →
        ∃ t, exec .eret s = .next t ∧ t.me.sup = false ∧ t.me.kept = none ∧ t.mem = s.mem ∧
          (t.core (s.tileCoreOf s.me)).owner =
            (if (s.core (s.tileCoreOf s.me)).owner = .sup then .free else (s.core (s.tileCoreOf s.me)).owner) ∧
          (s.me.kept = none → ∀ l, t.me.lane l =
            if l ∈ s.me.E then { s.me.lane l with status := .ready, pcv := s.me.epc, freed := none } else s.me.lane l) ∧
          ∀ old, s.me.kept = some old → ∀ l ∈ s.me.E, ∀ pc fr, old[l]? = some (.ready, pc, fr) →
            (t.me.lane l).status = .ready ∧ (t.me.lane l).pcv = pc) ∧
      ∀ x i e lv lo least, s.me.kept = none → s.localSeg s.me = some x → s.departs s.me x s.me.pc false s.me.epc = true →
        s.segOf (s.smap s.myTeam.grid) s.me.epc.toNat = some i →
        s.entryAt (s.smap s.myTeam.grid) s.me.epc.toNat = some (i, e, lv, lo, least) →
        ((s.me.taskId ≠ 0 ∨ ∃ f ∈ s.myTeam.frames, f.2.gid = s.cur) → exec .eret s = .next (s.raise .ill (wordVal .eret))) ∧
        (s.me.taskId = 0 → (∀ f ∈ s.myTeam.frames, f.2.gid ≠ s.cur) →
          (s.me.R < s.me.wbase + lv → exec .eret s = .next (s.raise .winov (wordVal .eret))) ∧
          (s.me.wbase + lv ≤ s.me.R →
            (∀ l ∈ s.me.E, (∀ n, n < lv → s.me.fullKey l (.v (s.me.wbase + n)) = true) ∧
              ∀ n, n < lo → s.me.fullKey l (.o n) = true) →
            s.replicas (s.smap s.myTeam.grid) i = [] → exec .eret s = .next (s.raise .brentry s.me.epc))))

/-- NOP (R379) is the word 0xCB00_0000. A word of its OP with a field that is not zero is no instruction and raises ILL.
NOP advances pcv in the lanes of E, and has no other effect: no register, flag, lat, mask or byte changes. -/
def Obligations.NopOnlyAdvances : Prop :=
  encode .nop = some 0xCB000000#32 ∧
  (∀ w : IWord, w.toNat / 2 ^ 24 = 0xCB → w ≠ 0xCB000000#32 → (∃ e, decode w = .error e) ∧
    ∀ s : State, Stands s → exec (.reservedEncoding w) s = .next (s.raise .ill (w.setWidth 64))) ∧
  ∀ s : State, Issues .nop s → Falls s →
    ∃ t, exec .nop s = .next t ∧ OnlyMe s t ∧ GroupKept s.me t.me ∧ t.me.q = s.me.q ∧
      ∀ l, t.me.lane l = if l ∈ s.me.E then { s.me.lane l with pcv := s.me.pc + 4, freed := none } else s.me.lane l

/-- WINB (R410) moves the window for the whole group, or raises WINOV beyond the main file. YIELD
(R270) without a request, or in supervisor mode, only goes on; with one it waits while a register is empty or an MMA in
flight, and then, with no task, the group stands behind it, where its lanes have still to issue (R92), and leaves its core.
RESM (R269): with E short of the group's lanes,
or a frame that is not the group's, it raises ILL; a frame that is not ready leaves Z clear and d awaiting zero; a ready
frame waits for the group's own MMA (R223), and then is discarded, and its state is the group's. -/
def Obligations.YieldAndResume : Prop :=
  ((∀ (s : State) (m : BitVec 7), Issues (.winb m) s → Falls s →
    (s.me.R ≤ 16 * m.toNat → exec (.winb m) s = .next (s.raise .winov (wordVal (.winb m)))) ∧
    (16 * m.toNat < s.me.R →
      exec (.winb m) s = .next ((s.modMe fun g => { g with wbase := 16 * m.toNat }).goneTo s.nextWord))) ∧
  ∀ s : State, Issues .yield s →
    (s.myTeam.preq = none ∨ s.me.sup = true → Falls s → exec .yield s = .next (s.goneTo s.nextWord)) ∧
    ∀ p, s.myTeam.preq = some p → s.me.sup = false → s.me.wait ≠ .yield → s.me.taskId = 0 →
      (s.canYield = false → ∃ t, exec .yield s = .next t ∧ OnlyMe s t ∧ t.me = { s.me.latch with wait := .regs }) ∧
      (s.canYield = true → exec .yield s = .next (((s.modMe fun g => g.modLanes (fun l => s.me.E.contains l) fun _ x =>
        { x with pcv := x.pcv + 4, freed := some (x.pcv + 4) }).yieldLeave p.deadline).touch))) ∧
  (∀ (s : State) (d a : Spec), Issues (.resm d a) s →
    let id := (s.rd a s.me.lowE).toNat
    ((∀ f, tget id s.myTeam.frames = some f → f.gid ≠ s.cur) →
      exec (.resm d a) s = .next (s.raise .ill (wordVal (.resm d a)))) ∧
    ∀ f, tget id s.myTeam.frames = some f → f.gid = s.cur →
      (s.me.E ≠ s.me.aliveLanes → exec (.resm d a) s = .next (s.raise .ill (wordVal (.resm d a)))) ∧
      (s.me.E = s.me.aliveLanes → s.frameReady f = false → Falls s →
        exec (.resm d a) s = .next (((s.modMe fun h => h.writeFlags (s.me.E.map fun l => (l, (s.me.lane l).th.nzcv &&& 11))).putLong
          d (s.me.E.map fun l => (l, 0))).goneTo s.nextWord)) ∧
      (s.me.E = s.me.aliveLanes → s.frameReady f = true → s.mmaInFlight s.cur = true →
        ∃ t, exec (.resm d a) s = .next t ∧ OnlyMe s t ∧ t.me.wait = .mma ∧ t.me.pc = s.me.pc ∧ t.me.E = s.me.E) ∧
      (s.me.E = s.me.aliveLanes → s.frameReady f = true → s.mmaInFlight s.cur = false → (∀ x ∈ f.st.lanes, x.status = .ready ∨ x.status = .exited) →
        ∃ t, exec (.resm d a) s = .next t ∧ t.me.toGState = f.st ∧ tget id (t.team s.me.team).frames = none))

/-! ### Masks and barriers -/

/-- CheckRelease (R37) on a mask of a group: where every member waits at it, the lanes that wait at it go on behind (where
they have still to issue, R92). -/
def Say.released (g : Group) (k : Nat) (l : Nat) : Lane :=
  if (∀ i, i < g.W → (g.mask k).testBit i = true → (g.lane i).status = .waitK k) ∧ (g.lane l).status = .waitK k then
    { g.lane l with status := .ready, pcv := (g.lane l).pcv + 4, freed := some ((g.lane l).pcv + 4) }
  else g.lane l

/-- Mask instructions that write a mask (R358, R360, R361, R372): which, its value, and whether CheckRelease follows. -/
def Say.maskOp (s : State) : Instr → Option (Nat × Nat × Bool)
  | .join k => some (k.toNat, Nat.lor (s.me.mask k.toNat) s.me.eMask, false)
  | .leave k => some (k.toNat, Nat.land (s.me.mask k.toNat) (2 ^ 64 - 1 - s.me.eMask), true)
  | .kset k a => some (k.toNat, Nat.land (s.rd a s.me.lowE).toNat (maskOf s.me.aliveLanes), true)
  | .klog k j m op =>
    let x := s.me.mask j.toNat
    let y := s.me.mask m.toNat
    let r := match op.toNat with
      | 0 => Nat.land x y | 1 => Nat.lor x y | 2 => Nat.xor x y | 3 => Nat.land x (2 ^ 64 - 1 - y) | _ => 2 ^ 64 - 1 - x
    some (k.toNat, Nat.land r (maskOf s.me.aliveLanes), true)
  | _ => none

/-- All of a group stays but its lanes and masks, and the clocks of the scheduler and what a wait keeps, as a completed
instruction leaves them. -/
def Say.masksOnly (g h : Group) : Prop :=
  h = { g with lanes := h.lanes, k := h.k, readyAt := h.readyAt, boosted := none, wait := .none, waitingSince := h.waitingSince,
               latched := none, fetched := [], last := false }

/-- JOIN, LEAVE and KSET are the words that R358, R372 and R360 give. JOIN, LEAVE, KSET and KLOG complete: they write their
mask, its bits at W and above zero; then, but for JOIN, CheckRelease; the lanes of E go on at the next word, and every other
mask, every register and flag stays. WAITK completes: the members of E wait, the others pass, and then CheckRelease runs;
no mask, register or flag changes. KGET completes: every lane of E has the mask in its register. -/
def Obligations.MaskResults : Prop :=
  (∀ (k : BitVec 7) (a : Spec), encode (.join k) = some (0xD0000000#32 ||| k.setWidth 32 <<< 17) ∧
    encode (.leave k) = some (0xD1000000#32 ||| k.setWidth 32 <<< 17) ∧
    encode (.kset k a) = some (0xD4000000#32 ||| k.setWidth 32 <<< 17 ||| a.setWidth 32 <<< 10)) ∧
  encode (.join 1) = some 0xD0020000#32 ∧ encode (.leave 3) = some 0xD1060000#32 ∧ encode (.kset 2 4) = some 0xD4041000#32 ∧
  (∀ (i : Instr) (s : State) (k m : Nat) (check : Bool), Say.maskOp s i = some (k, m, check) → Issues i s → Falls s →
    s.me.W ≤ 64 →
    let h := s.me.setMask k m
    ∃ t, exec i s = .next t ∧ OnlyMe s t ∧ Say.masksOnly s.me t.me ∧ t.me.mask k = m % 2 ^ s.me.W ∧ (∀ j, j ≠ k → t.me.mask j = s.me.mask j) ∧
      (∀ l, l ∉ s.me.E → t.me.lane l = if check then Say.released h k l else s.me.lane l) ∧
      ∀ l ∈ s.me.E, t.me.lane l = { s.me.lane l with pcv := s.me.pc + 4, freed := none }) ∧
  (∀ (s : State) (k : BitVec 7), Issues (.waitk k) s → Falls s →
    let h := s.me.modLanes (fun l => s.me.E.contains l) fun l x =>
      if (s.me.mask k.toNat).testBit l then { x with status := .waitK k.toNat } else { x with pcv := x.pcv + 4 }
    ∃ t, exec (.waitk k) s = .next t ∧ OnlyMe s t ∧ Say.masksOnly s.me t.me ∧ (∀ j, t.me.mask j = s.me.mask j) ∧
      ∀ l, t.me.lane l =
        let x := Say.released h k.toNat l
        if l ∈ s.me.E then { x with freed := if x.pcv = s.me.pc then x.freed else none } else x) ∧
  ∀ (s : State) (k : BitVec 7) (a : Spec), Issues (.kget k a) s → Falls s →
    ∃ t, exec (.kget k a) s = .next t ∧
      DirectEffect s t a (fun _ => BitVec.ofNat 64 (s.me.mask k.toNat)) (fun _ => none) fun _ => 0

/-- BART (R46, R327) and BARG (R260, R328): with an open task, and BARG outside a cooperative grid, they raise ILL.
Otherwise, while some live thread has not arrived, the lanes of E wait at the barrier and their threads have arrived; an
arrival at a Bramble team's other core goes to the home core (R100). BART blocks while a write to a register of its group is
in flight (R426). With the last live thread's arrival the phase of BART
is over, and the lanes of E stand behind it. -/
def Obligations.BarrierResults : Prop :=
  (∀ s : State, Stands s → preCheck .bart s.me s.myTeam.tix = none →
    (s.me.qPend ≠ [] ∨ ∃ x ∈ s.me.lanes, x.th.pend ≠ []) → exec .bart s = .next s.latch) ∧
  (∀ s : State, Issues .bart s →
    (s.me.taskId ≠ 0 → exec .bart s = .next (s.raise .ill (wordVal .bart))) ∧
    (s.me.taskId = 0 →
      let tids := s.me.E.map fun l => (s.me.lane l).th.tid
      let far := s.myGrid.bramble = true ∧ s.me.core ≠ s.myTeam.home
      (far → ∃ t, exec .bart s = .next t ∧ t.bartMsgs = s.bartMsgs ++ tids.map (fun x => (s.me.team, x)) ∧
        ∀ l ∈ s.me.E, (t.me.lane l).status = .waitB false s.myTeam.bartPhase) ∧
      (¬far → (∃ x ∈ s.myTeam.live, x ∉ s.myTeam.bartAt ∧ x ∉ tids) →
        ∃ t, exec .bart s = .next t ∧ (∀ l ∈ s.me.E, (t.me.lane l).status = .waitB false s.myTeam.bartPhase ∧
            (t.me.lane l).pcv = s.me.pc) ∧
          ∀ x, x ∈ (t.team s.me.team).bartAt ↔ x ∈ s.myTeam.bartAt ∨ x ∈ tids ∧ x ∈ s.myTeam.live) ∧
      (¬far → s.myTeam.live ≠ [] → (∀ x ∈ s.myTeam.live, x ∈ s.myTeam.bartAt ∨ x ∈ tids) → Falls s →
        ∃ t, exec .bart s = .next t ∧ (∀ l ∈ s.me.E, (t.me.lane l).status = .ready ∧ (t.me.lane l).pcv = s.me.pc + 4) ∧
          (t.team s.me.team).bartPhase = s.myTeam.bartPhase + 1 ∧ (t.team s.me.team).bartAt = []))) ∧
  ∀ s : State, Issues .barg s →
    (s.myGrid.cooperative = false ∨ s.me.taskId ≠ 0 → exec .barg s = .next (s.raise .ill (wordVal .barg))) ∧
    (s.myGrid.cooperative = true → s.me.taskId = 0 →
      let tids := s.me.E.map fun l => (s.me.lane l).th.tid
      s.me.team ∈ s.myGrid.teams → s.myTeam.ending = false → (∃ x ∈ s.myTeam.live, x ∉ s.myTeam.bargAt ∧ x ∉ tids) →
      ∃ t, exec .barg s = .next t ∧ (∀ l ∈ s.me.E, (t.me.lane l).status = .waitB true s.myGrid.bargPhase ∧
          (t.me.lane l).pcv = s.me.pc) ∧
        ∀ x, x ∈ (t.team s.me.team).bargAt ↔ x ∈ s.myTeam.bargAt ∨ x ∈ tids)

/-- WAITA over local store (R406, R407): in a task it raises ILL. A lone lane whose word, read at its own place with no
anchor, lets it go (op 0 where it differs from the comparand, op 1 where it equals it) takes the word into d at once and
goes on; otherwise it waits, under a monitor. FENCE (R352, R353) waits, but for kind 3, while a read of E is out, and then
goes on: kind 3 has no SCO action, 2 that of a release, 0 and 1 that of an acquire, at its scope. -/
def Obligations.WaitAndFence : Prop :=
  (∀ (s : State) (d a b : Spec) (op : BitVec 3), Issues (.waita d a b op) s →
    (s.me.taskId ≠ 0 → exec (.waita d a b op) s = .next (s.raise .ill (wordVal (.waita d a b op)))) ∧
    ∀ l off, s.me.taskId = 0 → s.me.E = [l] → (s.rd a l).toNat = 0xFF00 * 2 ^ 48 + off → off % 8 = 0 →
      off + 8 ≤ s.myTeam.lsize → off < 2 ^ 48 →
      (∀ x ∈ s.anchors, x.place ≠ .store s.me.team off) → (∀ m ∈ s.monitors, m.gid = s.cur → m.denied = none) →
      Falls s → s.sco = [] →
      let w : Word := BitVec.ofNat 64 (ofBytes (mread s.myTeam.lstore off 8))
      let go : Prop := if op = 1 then w = s.rd b l else w ≠ s.rd b l
      (go → ∃ t, exec (.waita d a b op) s = .next t ∧ t.monitors = s.monitors ∧
        t.me.readKey l (s.me.key d) = (if s.me.key d = .none then 0 else w) ∧ (t.me.lane l).pcv = s.me.pc + 4) ∧
      (¬go → ∃ t, exec (.waita d a b op) s = .next t ∧ (t.me.lane l).status = .waitA ∧ (t.me.lane l).pcv = s.me.pc ∧
        ∃ m, t.monitors = s.monitors ++ [m] ∧ m.gid = s.cur ∧ m.lane = l ∧ m.place = .store s.me.team off ∧ m.cmp = s.rd b l)) ∧
  ∀ (s : State) (k : BitVec 7) (x : BitVec 3), Issues (.fence k x) s → Falls s →
    (k.toNat < 3 → s.readsOut = true → ∃ t, exec (.fence k x) s = .next t ∧ OnlyMe s t ∧ t.me = { s.me.latch with wait := .fence }) ∧
    (k.toNat = 3 → exec (.fence k x) s = .next (s.goneTo s.nextWord)) ∧
    (k.toNat < 3 → s.readsOut = false →
      exec (.fence k x) s = .next ((if k.toNat = 2 then s.release x.toNat else s.acquire x.toNat).goneTo s.nextWord))

/-! ### Control registers -/

/-- The registers that CSRW writes (R62, R64), each with the bits that it keeps; FPSR is each lane's own, and LKMAT0 and
LKMAT1 take effect at the home slices. -/
def Say.csrBits : Nat → Option Word
  | 0x00 => some 0x1FF
  | 0x02 | 0x04 | 0x40 | 0x42 | 0x43 | 0x44 | 0x46 => some 0xFFFFFFFFFFFFFFFF
  | 0x03 => some 0x7F
  | 0x41 => some 0xFF
  | 0x45 | 0x4A | 0x4C => some 0xFFFFFFFF
  | _ => none

/-- CSRR gives every lane of E the register's value (R62 to R64, R332); TAGS off the home core of a Bramble team raises
ILL. CSRW (R333) replaces the register by the lowest lane's value, the reserved bits zero, and no other control register;
CONTV and WNDV take only a multiple of 4 in the global window; each lane of E writes its own FPSR; a write of LKMAT0 or
LKMAT1 waits for the home slices, and goes on once they have taken the new matrix. (That YLIM keeps all 64 bits is the
model's choice, log entry 63.) -/
def Obligations.ControlRegisters : Prop :=
  (∀ (s : State) (d : Spec) (n : BitVec 7), Issues (.csrr d n) s → Falls s →
    (n = 6 → s.myGrid.bramble = true → s.me.core ≠ s.myTeam.home →
      exec (.csrr d n) s = .next (s.raise .ill (wordVal (.csrr d n)))) ∧
    ((n ≠ 6 ∨ s.myGrid.bramble = false ∨ s.me.core = s.myTeam.home) →
      ∃ t, exec (.csrr d n) s = .next t ∧ DirectEffect s t d (fun l => s.csr n.toNat l) (fun _ => none) fun _ => 0)) ∧
  (∀ (s : State) (a : Spec) (n : BitVec 7) (bits : Word), Say.csrBits n.toNat = some bits → Issues (.csrw a n) s → Falls s →
    tget s.me.team s.teams ≠ none → tget (s.ctxOf s.me) s.ctxs ≠ none →
    let x := s.rd a s.me.lowE
    let ok : Prop := (n = 2 ∨ n = 4 → x.toNat % 4 = 0 ∧ x.toNat < 2 ^ 56) ∧
      (n = 3 → x.toNat / 64 % 2 = 1 → x.toNat % 64 < s.myTeam.ntags)
    (¬ok → ∃ c v, exec (.csrw a n) s = .next (s.raise c v)) ∧
    (ok → ∃ t, exec (.csrw a n) s = .next t ∧ t.mem = s.mem ∧ (∀ l, t.csr n.toNat l = x &&& bits) ∧
      (∀ m l, m ≠ n.toNat → t.csr m l = s.csr m l) ∧ ∀ l k, t.me.readKey l k = s.me.readKey l k)) ∧
  (∀ (s : State) (a : Spec), Issues (.csrw a 1) s → Falls s →
    ∃ t, exec (.csrw a 1) s = .next t ∧ OnlyMe s t ∧ (∀ l, l ∉ s.me.E → t.me.lane l = s.me.lane l) ∧
      ∀ l ∈ s.me.E, t.me.lane l = { s.me.lane l with pcv := s.me.pc + 4, freed := none, th := { (s.me.lane l).th with
        fpsr := (s.rd a l).setWidth 5 } }) ∧
  ∀ (s : State) (a : Spec) (n : BitVec 7), n = 0x47 ∨ n = 0x48 → Issues (.csrw a n) s → (s.myCtx).lkNew = none →
    tget (s.ctxOf s.me) s.ctxs ≠ none →
    let x := s.rd a s.me.lowE
    (s.me.wait ≠ .lkmat → ∃ t, exec (.csrw a n) s = .next t ∧ t.me.wait = .lkmat ∧ t.mem = s.mem ∧
      (t.ctx (s.ctxOf s.me)).lkNew = some (if n = 0x47 then ((x &&& 0x7F7F7F00) ||| 0x7F, s.myCtx.lkmat1)
        else (s.myCtx.lkmat0, x &&& 0x7F7F7F))) ∧
    (s.me.wait = .lkmat → Falls s → exec (.csrw a n) s = .next (s.goneTo s.nextWord))
/-! ### The matrix engine -/

/-- What a group that may use the accumulator store finds there (R221, R222), and the core whose store it is. -/
def Say.tile (s : State) (n : Nat) : List Word := (s.core (s.tileCoreOf s.me)).tile n

/-- The second B of an MMA: none in a team that is not paired; in a paired one that of the partner group on its core, its
fragment full, for a group of the even core and an even tile (R228). -/
def Say.second (s : State) (d b : Spec) (x : Nat) : Option (List Word) → Prop
  | none => s.myTeam.paired = false
  | some f => s.myTeam.paired = true ∧ s.me.core % 2 = 0 ∧ d.toNat % 2 = 0 ∧ ∃ h, s.partner = some h ∧ h.loc = .onCore ∧
      (∀ r ∈ span b (fragRegs x h.W), h.wbase + r.toNat < h.R) ∧ fragFull h b x = true ∧ f = h.frag s.myTeam.tix b x

/-- MMA, MZRO, MFIL and MDRN. Where the group may not use the accumulator store they raise MOWN (R222). An MMA whose fragments
are full, and those of its partner in a paired team, joins the queue of the array with its fragments as they stand, behind
the MMAs of the pair's other core that it shares an array with (R227, R228); one that is held waits, and is counted once
as held (R15, R16; log entry 42); one whose fragments are not full waits. MZRO zeroes its tile and
MFIL fills it, slot i + 16 j the element (i, j); other tiles and every register stay. MDRN leaves the registers of its
destination awaiting the tile's elements, scaled and converted (R229, R230), and the tiles as they are. -/
def Obligations.MatrixResults : Prop :=
  (∀ (s : State) (d a b : Spec) (x : BitVec 3), s.claim = none →
    (Issues (.mma d a b x) s → s.myTeam.paired = false → exec (.mma d a b x) s = .next (s.raise .mown 0)) ∧
    (Issues (.mzro d) s → exec (.mzro d) s = .next (s.raise .mown 0)) ∧
    (Issues (.mfil d a) s → exec (.mfil d a) s = .next (s.raise .mown 0)) ∧
    (Issues (.mdrn d a b x) s → exec (.mdrn d a b x) s = .next (s.raise .mown 0))) ∧
  (∀ (s u : State) (d a b : Spec) (x : BitVec 3) (b2 : Option (List Word)), Issues (.mma d a b x) s → s.claim = some u →
    Say.second s d b x.toNat b2 →
    let tc := s.tileCoreOf s.me
    let other := (u.core (mateOf tc)).mmaQ
    (fragFull s.me a x.toNat = true → fragFull s.me b x.toNat = true → Falls s → u.mmaHeld = false →
      ∃ t, exec (.mma d a b x) s = .next t ∧ t.groups = (s.goneTo s.nextWord).groups ∧
        (t.core tc).mmaQ = (u.core tc).mmaQ ++
          [{ gid := s.cur, team := s.me.team, tile := d.toNat, shape := x.toNat, a := s.me.frag s.myTeam.tix a x.toNat,
             b := s.me.frag s.myTeam.tix b x.toNat, b2 := b2, lanes := s.me.eMask,
             behind := if b2 = none then (other.filter fun m => m.b2.isSome).length else other.length }]) ∧
    (fragFull s.me a x.toNat = true → fragFull s.me b x.toNat = true → u.mmaHeld = true →
      ∃ t, exec (.mma d a b x) s = .next t ∧ t.me.wait = .mma ∧ t.me.lanes = s.me.lanes ∧
        (t.core tc).mmaQ = (u.core tc).mmaQ ∧
        (t.core s.me.core).holds = (u.core s.me.core).holds + (if s.me.wait = .mma then 0 else 1)) ∧
    (fragFull s.me a x.toNat = false ∨ fragFull s.me b x.toNat = false →
      ∃ t, exec (.mma d a b x) s = .next t ∧ OnlyMe u t ∧ t.me = { u.me.latch with wait := .regs })) ∧
  (∀ (s u : State) (d a : Spec), Falls s → s.claim = some u → u.tileBusy d.toNat = false →
    (Issues (.mzro d) s → ∃ t, exec (.mzro d) s = .next t ∧ t.groups = (s.goneTo s.nextWord).groups ∧
      Say.tile t d.toNat = List.replicate 256 0 ∧ ∀ n, n ≠ d.toNat → Say.tile t n = Say.tile u n) ∧
    (Issues (.mfil d a) s → ∃ t, exec (.mfil d a) s = .next t ∧ t.groups = (s.goneTo s.nextWord).groups ∧
      (∀ n, n ≠ d.toNat → Say.tile t n = Say.tile u n) ∧
      ∀ i j, i < 16 → j < 16 → (Say.tile t d.toNat).getD (16 * i + j) 0 =
        s.rd (BitVec.ofNat 7 (a.toNat + (i + 16 * j) / s.me.W)) ((i + 16 * j) % s.me.W))) ∧
  ∀ (s u : State) (d a b : Spec) (c : BitVec 3), Issues (.mdrn d a b c) s → Falls s → s.claim = some u →
    u.tileBusy d.toNat = false → (s.me.W = 16 ∨ s.me.W = 32 ∨ s.me.W = 64) → (∀ n, n < 256 / s.me.W → ∃ m, s.me.key (BitVec.ofNat 7 (a.toNat + n)) = .v m) →
    ∃ t, exec (.mdrn d a b c) s = .next t ∧ t.cores = u.cores ∧
      ∀ l ∈ s.me.E, ∀ i j n, i < 16 → j < 16 → i + 16 * j = n * s.me.W + l → l < s.me.W →
        ∃ p ∈ (t.me.lane l).th.pend, p.key = s.me.key (BitVec.ofNat 7 (a.toNat + n)) ∧
          p.val = (mdrnEl c.toNat ((Say.tile u d.toNat).getD (16 * i + j) 0)
            (if b = 0x79 then none else some (s.rd b i, s.rd (b + 1) j))).1

/-- MSAV and MRST (R231, R232), where the group may use the store, no MMA is in flight on it, and the image's 32 KiB lie in
place: the image holds element e of tile n at byte 2048 n + 8 e; after MSAV the store is free, after MRST it is the
team's with the image's elements, and memory is as it was. -/
def Obligations.TileImages : Prop :=
  ∀ (s : State) (a : Spec) (tgt : Target),
    let va := s.rd a s.me.lowE
    let tc := s.tileCoreOf s.me
    (s.core tc).mmaQ = [] → s.me.wait ≠ .remote → s.bad = [] → Falls s → s.prefetch (s.who s.me s.me.lowE) va 32768 = s →
    (Issues (.msav a) s → s.imageBar (wordVal (.msav a)) = none →
      s.targets (s.who s.me s.me.lowE) va 32768 128 .store = .ok [(tgt, 32768)] → Say.writable s 32768 tgt →
      ∃ t, exec (.msav a) s = .next t ∧ (t.core tc).owner = .free ∧ Say.restKept s t 32768 (fun _ => tgt) ∧
        ∀ n e, n < 16 → e < 256 → ((Say.at_ t 32768 tgt).drop (2048 * n + 8 * e)).take 8 =
          toBytes 8 (((s.core tc).tile n).getD e 0).toNat) ∧
    ∀ bs, Issues (.mrst a) s → s.imageBar (wordVal (.mrst a)) = none →
      s.targets (s.who s.me s.me.lowE) va 32768 128 .load = .ok [(tgt, 32768)] → Say.reads s s.me.taskId 32768 bs tgt →
      ∃ t, exec (.mrst a) s = .next t ∧ t.mem = s.mem ∧ (t.core tc).owner = .team s.me.team ∧
        ∀ n e, n < 16 → e < 256 → ((t.core tc).tile n).getD e 0 =
          BitVec.ofNat 64 (ofBytes ((bs.drop (2048 * n + 8 * e)).take 8))

/-! ### Engines, tags and counters -/

/-- The tag instructions (R241, R354, R401). One that is barred raises ILL. WTAL waits until every tag that its mask names is
ready; WTAN until one is, and gives the lowest; FFRT never waits, and gives all ones where none is. An error on an observed
tag is raised, that of the lowest; otherwise the observation acquires at .team. TGCL clears what it names, but for a tag
whose operation is in flight. -/
def Obligations.TagResults : Prop :=
  ∀ (s : State) (d a : Spec) (m : Nat), m = (s.rd a s.me.lowE).toNat → Falls s →
    let named (n : Nat) : Prop := n < 64 ∧ m.testBit n = true
    let ready (n : Nat) : Prop := (s.myTeam.tag n).ready = true
    (s.tagBar m false = true →
      (Issues (.wtal a) s → exec (.wtal a) s = .next (s.raise .ill (wordVal (.wtal a)))) ∧
      (Issues (.wtan d a) s → exec (.wtan d a) s = .next (s.raise .ill (wordVal (.wtan d a)))) ∧
      (Issues (.tgcl a) s → exec (.tgcl a) s = .next (s.raise .ill (wordVal (.tgcl a))))) ∧
    (s.tagBar m true = true → Issues (.ffrt d a) s → exec (.ffrt d a) s = .next (s.raise .ill (wordVal (.ffrt d a)))) ∧
    (s.tagBar m false = false →
      (Issues (.wtal a) s →
        ((∃ n, named n ∧ ¬ready n) → ∃ t, exec (.wtal a) s = .next t ∧ OnlyMe s t ∧ t.me = { s.me.latch with wait := .tag }) ∧
        ((∀ n, named n → ready n) → (∀ n, named n → (s.myTeam.tag n).err = none) →
          exec (.wtal a) s = .next ((s.acquire 0).goneTo s.nextWord)) ∧
        ∀ n c v, (∀ n, named n → ready n) → named n → (s.myTeam.tag n).err = some (c, v) →
          (∀ k, k < n → named k → (s.myTeam.tag k).err = none) → exec (.wtal a) s = .next (s.raise c v)) ∧
      (Issues (.wtan d a) s → (∀ n, named n → ¬ready n) →
        ∃ t, exec (.wtan d a) s = .next t ∧ OnlyMe s t ∧ t.me = { s.me.latch with wait := .tag }) ∧
      (Issues (.tgcl a) s → ∃ t, exec (.tgcl a) s = .next t ∧ t.groups = (s.goneTo s.nextWord).groups ∧
        ∀ n, (t.team s.me.team).tag n = if n < 64 ∧ m.testBit n = true ∧ (s.myTeam.tag n).busy = false
          then { s.myTeam.tag n with ready := false, err := none } else s.myTeam.tag n)) ∧
    (∀ n, named n → ready n → (∀ k, k < n → named k → ¬ready k) →
      ∀ i, (i = .wtan d a ∧ s.tagBar m false = false ∨ i = .ffrt d a ∧ s.tagBar m true = false) → Issues i s →
        ((s.myTeam.tag n).err = none → exec i s = .next (((s.acquire 0).putDirect d
          (s.me.E.map fun l => (l, BitVec.ofNat 64 n))).goneTo s.nextWord)) ∧
        ∀ c v, (s.myTeam.tag n).err = some (c, v) → exec i s = .next (s.raise c v)) ∧
    (s.tagBar m true = false → Issues (.ffrt d a) s → (∀ n, named n → ¬ready n) →
      ∃ t, exec (.ffrt d a) s = .next t ∧ DirectEffect s t d (fun _ => BitVec.allOnes 64) (fun _ => none) fun _ => 0)

/-- The issue of BCPY and COLL (R233, R292) by a group outside a task, on the home core of a Bramble team, whose lowest lane
names a descriptor in place, with a free tag: the tag is in flight from then on and the operation handed over with the
descriptor's 128 bytes; a COLL whose group the package does not know sets the tag with ENGERR at
once (R296; that it does so in the issuing step is log entry 44), and one in order takes the next sequence number. A descriptor that is no multiple of 128 raises ALIGN. CDEC
(R335) hands the CP the counters of its lanes, in lane order, once every one is the context's, or raises PROT. -/
def Obligations.EngineIssue : Prop :=
  (∀ (s : State) (a : Spec) (tgt : Target) (bs : List Byte),
    let va := s.rd a s.me.lowE
    let g := s.me
    Falls s → g.taskId = 0 → (s.myGrid.bramble = true → g.core = s.myTeam.home) →
    (va.toNat % 128 ≠ 0 → (Issues (.bcpy a) s → exec (.bcpy a) s = .next (s.raise .align va)) ∧
      (Issues (.coll a) s → exec (.coll a) s = .next (s.raise .align va))) ∧
    (va.toNat % 128 = 0 → g.wait ≠ .remote → g.wait ≠ .tag → s.bad = [] →
      s.prefetch (s.who g g.lowE) va 128 = s → s.targets (s.who g g.lowE) va 128 1 .load = .ok [(tgt, 128)] →
      Say.reads s 0 128 bs tgt →
      (∀ n, n = ofBytes (bs.drop 16) / 2 ^ 20 % 64 → n < s.myTeam.ntags → (s.myTeam.tag n).busy = false → Issues (.bcpy a) s →
        ∃ t, exec (.bcpy a) s = .next t ∧ t.mem = s.mem ∧ (t.team g.team).tag n = { busy := true } ∧
          t.bce = s.bce ++ [{ team := g.team, tag := n, desc := va, bytes := bs, core := g.core, tid := (g.lane g.lowE).th.tid }] ∧
          ∀ l ∈ g.E, t.me.lane l = { g.lane l with pcv := g.pc + 4, freed := none }) ∧
      ∀ n, n = ofBytes (bs.drop 6) % 64 → n < s.myTeam.ntags → (s.myTeam.tag n).busy = false → Issues (.coll a) s →
        (tget (cGroup bs) s.collGroups = none →
          ∃ t, exec (.coll a) s = .next t ∧ (∀ l ∈ g.E, t.me.lane l = { g.lane l with pcv := g.pc + 4, freed := none }) ∧
            (t.team g.team).tag n = { ready := true, err := some (.engerr, BitVec.ofNat 64 (va.toNat + 1)) }) ∧
        ∀ c, tget (cGroup bs) s.collGroups = some c → c.ctx = s.ctxOf g → cSeq bs = c.next →
          ∃ t e, exec (.coll a) s = .next t ∧ tget (cGroup bs) t.collGroups = some e ∧ e.next = (c.next + 1) % 65536 ∧
            ∀ l ∈ g.E, t.me.lane l = { g.lane l with pcv := g.pc + 4, freed := none })) ∧
  ∀ (s : State) (a : Spec), Issues (.cdec a) s → Falls s → s.me.taskId = 0 →
    let mine (l : Nat) : Prop := (s.rd a l).toNat < 4096 ∧ s.myCtx.ctrLo ≤ (s.rd a l).toNat ∧
      (s.rd a l).toNat < s.myCtx.ctrLo + s.myCtx.ctrN
    ((∀ l ∈ s.me.E, mine l) → ∃ t, exec (.cdec a) s = .next t ∧ t.groups = (s.goneTo s.nextWord).groups ∧
      t.decs = s.decs ++ s.me.E.map fun l => (s.rd a l).toNat) ∧
    ((∃ l ∈ s.me.E, ¬mine l) → ∃ l ∈ s.me.E, ¬mine l ∧ exec (.cdec a) s = .next (s.raise .prot (s.rd a l)))

/-! ### Locks, tasks and versions -/

/-- A lone lane's lock instruction: d, a, the mode, and whether it is a LUPG or a LCKT. -/
def Say.lock : Instr → Option (Spec × Spec × Nat × Bool × Bool)
  | .lock d a m => some (d, a, m.toNat, false, false)
  | .lckt d a m => some (d, a, m.toNat, false, true)
  | .lupg d a m => some (d, a, m.toNat, true, false)
  | _ => none

/-- LOCK, LCKT and LUPG of a lone lane (R182, R184, R186, R190, R191). In supervisor mode, or for a descriptor that is not
legal, ILL; where the parent's mode does not suffice, or a LUPG finds nothing held, LKHIER. A mode that is covered, or that
passes the test of R184, is granted: the team holds the join, and d is 0. A LCKT that does not pass leaves d 1 and the
holds as they are; a LOCK or LUPG that no younger team blocks waits in the queue, a LOCK's d empty meanwhile (R58), a LUPG's, which is of the direct class (R75), as it was. ULCK of a lone lane outside a task (R192):
in supervisor mode ILL; without a mode (NL) the team holds nothing in its context any more; with a mode that the held one
covers, and no child held, the resource is lowered to it, or released where it is the mode held. -/
def Obligations.LockResults : Prop :=
  (∀ (i : Instr) (s : State) (d a : Spec) (m l : Nat) (lupg try_ : Bool), Say.lock i = some (d, a, m, lupg, try_) → Issues i s →
    s.me.E = [l] → Falls s → s.me.wait ≠ .lock →
    let D := (s.rd a l).toNat
    let ctx := s.ctxOf s.me
    let team := s.me.team
    let h := s.heldMode ctx D team
    let m' := if h = 0 then m else join h m
    (s.me.sup = true → exec i s = .next (s.raise .ill (wordVal i))) ∧
    (s.me.sup = false → descOk D = false → exec i s = .next (s.raise .ill (s.rd a l))) ∧
    (s.me.sup = false → descOk D = true →
      (s.lockHier lupg m D = true → exec i s = .next (s.raise .lkhier (s.rd a l))) ∧
      (s.lockHier lupg m D = false →
        (h ≠ 0 → covers h m = true → ∃ t, exec i s = .next t ∧ t.holds = s.holds ∧ t.me.readKey l (s.me.key d) = 0) ∧
        ((h = 0 ∨ covers h m = false) → (s.hasEntry ctx D team = true ∨ s.locksFull ctx D = false) →
          (s.lockPasses ctx D team m' lupg = true →
            ∃ t, exec i s = .next t ∧ t.heldMode ctx D team = m' ∧ t.me.readKey l (s.me.key d) = 0) ∧
          (s.lockPasses ctx D team m' lupg = false → try_ = true →
            ∃ t, exec i s = .next t ∧ t.holds = s.holds ∧
              t.me.readKey l (s.me.key d) = if s.me.key d = .none then 0 else 1) ∧
          (s.lockPasses ctx D team m' lupg = false → try_ = false →
            (∀ k ∈ s.holds, k.ctx = ctx → k.desc = D → k.team ≠ team → (s.ctx ctx).compat k.mode m' = false →
              s.age k.team ≤ s.age team) →
            ∃ t, exec i s = .next t ∧ t.me.wait = .lock ∧ t.holds = s.holds ∧
              (s.me.key d ≠ .none → t.me.fullKey l (s.me.key d) = lupg) ∧ t.lockWaits = s.lockWaits ++
              [{ ctx := ctx, desc := D, team := team, gid := s.cur, mode := m', lupg := lupg, mat := (s.ctx ctx).matrix }]))))) ∧
  (∀ (s : State) (d a : Spec) (m : BitVec 3) (l : Nat), Issues (.ulck d a m) s → Falls s → s.me.E = [l] →
    let D := (s.rd a l).toNat
    let ctx := s.ctxOf s.me
    let team := s.me.team
    let h := s.heldMode ctx D team
    (s.me.sup = true → exec (.ulck d a m) s = .next (s.raise .ill (wordVal (.ulck d a m)))) ∧
    (s.me.sup = false → s.me.taskId = 0 → (∀ w ∈ s.lockWaits, w.team ≠ team) →
      (m = 0 → ∃ t, exec (.ulck d a m) s = .next t ∧ (∀ e, t.heldMode ctx e team = 0) ∧ t.me.readKey l (s.me.key d) = 0) ∧
      (m ≠ 0 → descOk D = false → exec (.ulck d a m) s = .next (s.raise .ill (s.rd a l))) ∧
      (m ≠ 0 → descOk D = true → h ≠ 0 → covers h m.toNat = true → tget 0 s.tasks = none →
        (∀ k ∈ s.holds, k.ctx = ctx → k.team = team → dParent k.desc ≠ some D) →
        ∃ t, exec (.ulck d a m) s = .next t ∧ t.heldMode ctx D team = (if h = m.toNat then 0 else m.toNat) ∧
          ∀ e, e ≠ D → t.heldMode ctx e team = s.heldMode ctx e team)))

/-- A line of a task: bytes of the line, each listed once, and deltas that meet neither them nor one another (R198, R199). -/
def Say.taskLine (x : SpecLine) : Prop :=
  (x.bytes.map fun c => c.1).Nodup ∧ (∀ c ∈ x.bytes, c.1 < 128) ∧
  (∀ e ∈ x.deltas, e.1 + e.2.1.size ≤ 128 ∧ ∀ j, j < e.2.1.size → tget (e.1 + j) x.bytes = none) ∧
  x.deltas.Pairwise fun e f => e.1 + e.2.1.size ≤ f.1 ∨ f.1 + f.2.1.size ≤ e.1

/-- Guarded tasks (R196, R200 to R202, R402). TSKB and TSKE raise ILL in supervisor mode or where E is not the whole group,
TSKB also with a task open, TSKE and TSKA without one. TSKB opens a task with the abort address, or gives 0 where the
package has no room. TSKA aborts it: every lane of the group stands ready at the abort address with 0 in o0, and memory is
as it was where the task took no lock. TSKE, once the group's reads are back and no page needs a copy, commits: the task is over, and memory holds at every
address what the task saw there (R198 to R200), where no cache held the lines. -/
def Obligations.TaskResults : Prop :=
  (∀ (s : State) (d a : Spec), Issues (.tskb d a) s → Falls s →
    let x := s.rd a s.me.lowE
    (s.me.sup = true ∨ s.me.E ≠ s.me.aliveLanes ∨ s.me.taskId ≠ 0 →
      exec (.tskb d a) s = .next (s.raise .ill (wordVal (.tskb d a)))) ∧
    (s.me.sup = false → s.me.E = s.me.aliveLanes → s.me.taskId = 0 →
      (x.toNat % 4 ≠ 0 → exec (.tskb d a) s = .next (s.raise .align x)) ∧
      (x.toNat % 4 = 0 → 2 ^ 56 ≤ x.toNat → exec (.tskb d a) s = .next (s.raise .noaddr x)) ∧
      (x.toNat % 4 = 0 → x.toNat < 2 ^ 56 → Config.liveTasks ≤ s.tasks.length →
        ∃ t, exec (.tskb d a) s = .next t ∧ DirectEffect s t d (fun _ => 0) (fun _ => none) fun _ => 0) ∧
      (x.toNat % 4 = 0 → x.toNat < 2 ^ 56 → s.tasks.length < Config.liveTasks →
        ∃ t, exec (.tskb d a) s = .next t ∧ t.me.taskId = s.freeTask ∧ t.mem = s.mem ∧
          tget s.freeTask t.tasks = some { gid := s.cur, ctx := s.ctxOf s.me, abort := x } ∧
          ∀ l ∈ s.me.E, t.me.readKey l (s.me.key d) = if s.me.key d = .none then 0 else BitVec.ofNat 64 s.freeTask))) ∧
  (∀ s : State, Issues .tska s →
    (s.me.sup = true ∨ s.me.taskId = 0 → exec .tska s = .next (s.raise .ill (wordVal .tska))) ∧
    ∀ k, s.me.sup = false → s.me.taskId ≠ 0 → tget s.me.taskId s.tasks = some k →
      ∃ t, exec .tska s = .next t ∧ t.me.taskId = 0 ∧ t.me.repi = 0 ∧ tget s.me.taskId t.tasks = none ∧
        (k.locks = [] → t.mem = s.mem) ∧
        ∀ l, l < s.me.lanes.length → (s.me.lane l).alive = true →
          (t.me.lane l).status = .ready ∧ (t.me.lane l).pcv = k.abort ∧ t.me.readKey l (.o 0) = 0) ∧
  ∀ s : State, Issues .tske s → Falls s →
    (s.me.sup = true ∨ s.me.E ≠ s.me.aliveLanes ∨ s.me.taskId = 0 →
      exec .tske s = .next (s.raise .ill (wordVal .tske))) ∧
    (s.me.sup = false → s.me.E = s.me.aliveLanes → s.me.taskId ≠ 0 →
      (s.readsOut = true → ∃ t, exec .tske s = .next t ∧ OnlyMe s t ∧ t.me = { s.me.latch with wait := .regs }) ∧
      (s.readsOut = false → (s.release 3).commitCopies (s.task s.me.taskId) = [] →
        exec .tske s = .next (((s.release 3).commitTask s.me.taskId).goneTo s.nextWord)) ∧
      ∀ k, s.readsOut = false → tget s.me.taskId s.tasks = some k → k.gid = s.cur → s.coh.dir = [] → s.sco = [] →
        (k.lines.map fun x => x.line).Nodup → (∀ x ∈ k.lines, Say.taskLine x ∧
          ∀ d p, x.ver = some (d, p) → s.needsCow k.ctx d (p * 65536 + x.line * 128 % 65536) = false) →
        ∃ t, exec .tske s = .next t ∧ t.me.taskId = 0 ∧ tget s.me.taskId t.tasks = none ∧
          ∀ a b, Say.sees s s.me.taskId (fun p => mget p s.mem) a b → mget a t.mem = b)

/-- Version domains (R168 to R171): with a task open a domain instruction raises ILL; a number above 255, or of a domain that
is not enabled, raises PROT. VQRY gives the newest published version, O − 1. PUBL gives O and leaves O + 1, and raises
VFUT at the last version. RETV gives L, raised to b where that is above; b above O raises VFUT. No cache holds a line
here, so that memory's words are the domain's. -/
def Obligations.VersionResults : Prop :=
  ∀ (i : Instr) (s : State) (d a b : Spec), (i = .publ d a ∨ i = .retv d a b ∨ i = .vqry d a) → Issues i s → Falls s →
    s.coh.dir = [] → s.sco = [] →
    let n := (s.rd a s.me.lowE).toNat
    let ctx := s.ctxOf s.me
    let o := s.domOpen ctx n
    let v := (s.rd b s.me.lowE).toNat % 2 ^ 32
    (s.me.taskId ≠ 0 → exec i s = .next (s.raise .ill (wordVal i))) ∧
    (s.me.taskId = 0 → 255 < n ∨ s.domOn ctx n = false → exec i s = .next (s.raise .prot (s.rd a s.me.lowE))) ∧
    (s.me.taskId = 0 → n ≤ 255 → s.domOn ctx n = true →
      (i = .vqry d a → ∃ t, exec i s = .next t ∧
        DirectEffect s t d (fun _ => BitVec.ofNat 64 ((o + 2 ^ 32 - 1) % 2 ^ 32)) (fun _ => none) fun _ => 0) ∧
      (i = .publ d a → o = 0xFFFFFFFF → ∃ x, exec i s = .next (s.raise .vfut x)) ∧
      (i = .publ d a → o ≠ 0xFFFFFFFF → ∃ t, exec i s = .next t ∧ t.domOpen ctx n = o + 1 ∧
        ∀ l ∈ s.me.E, t.me.readKey l (s.me.key d) = if s.me.key d = .none then 0 else BitVec.ofNat 64 o) ∧
      (i = .retv d a b → o < v → ∃ x, exec i s = .next (s.raise .vfut x)) ∧
      (i = .retv d a b → v ≤ o → v ≤ s.domOldest ctx n → s.me.wait ≠ .ldv → ∃ t, exec i s = .next t ∧
        DirectEffect s t d (fun _ => BitVec.ofNat 64 (s.domOldest ctx n)) (fun _ => none) fun _ => 0) ∧
      (i = .retv d a b → v ≤ o → s.domOldest ctx n < v → s.ldvOut ctx n v = false → ∃ t, exec i s = .next t ∧
        t.domOldest ctx n = v ∧
        ∀ l ∈ s.me.E, t.me.readKey l (s.me.key d) = if s.me.key d = .none then 0 else BitVec.ofNat 64 v))

/-! ### REP, and words that are none -/

/-- REP (R81 to R84), at its first issue, where N may be repeated, or once it has begun: a repeat of the next word N, its
stepped fields moved on by REPI times the stride, is performed as N's own meaning has it; before the last, REPI counts on
and the group stays; after the last, REPI is 0 and the lanes of E stand behind N. A word N that may not be repeated stops
the first issue. The word that is no instruction raises ILL (R80), and the fetch that fails its cause at the address (R69). -/
def Obligations.RepAndReserved : Prop :=
  (∀ (s t u : State) (n : BitVec 6) (p q r : BitVec 1) (x : BitVec 2) (N : IWord) (i : Instr) (f : State → Res),
    Issues (.rep n p q r x) s → s.fetch s.me (s.me.pc + 4) = (.word N, t) → s.me.repi ≤ n.toNat →
    decode (N + BitVec.ofNat 32 (s.me.repi * 2 ^ x.toNat *
      ((if p = 1 then 2 ^ 17 else 0) + (if q = 1 then 2 ^ 10 else 0) + (if r = 1 then 2 ^ 3 else 0)))) = .ok i →
    i.wf s.me.W = true → t.me = s.me →
    let begun : Prop := s.me.repPc = some s.me.pc ∧ s.me.repSup = s.me.sup
    let free : Prop := t.repCheck N (p == 1) (q == 1) (r == 1) n.toNat (2 ^ x.toNat) = none
    (∀ v : State, (begun ∧ v = t ∨ ¬begun ∧ free ∧ v = t.modMe fun h =>
        { h with repPc := some s.me.pc, repE := s.me.eMask, repSup := s.me.sup }) →
      v.ready i = .go → semOf i = some f → f v = .done u →
      (s.me.repi < n.toNat →
        exec (.rep n p q r x) s = .next (u.modMe fun g => { g with repi := s.me.repi + 1 }).touch) ∧
      (s.me.repi = n.toNat → StaysAt v true (v.me.E.map fun l => (l, v.me.pc + 8)) →
        exec (.rep n p q r x) s = .next ((u.modMe fun g => { g with repi := 0, repPc := none, repE := 0, repSup := false }).goneTo
          (v.me.E.map fun l => (l, v.me.pc + 8))))) ∧
    ∀ c, ¬begun →
      t.repCheck N (p == 1) (q == 1) (r == 1) n.toNat (2 ^ x.toNat) = some c →
      exec (.rep n p q r x) s = .next (t.raise c (wordVal (.rep n p q r x)))) ∧
  (∀ (s : State) (w : IWord), s.canIssue = true → ((∃ e, decode w = .error e) ∨ ∃ i, decode w = .ok i ∧ i.wf s.me.W = false) →
    exec (.reservedEncoding w) s = .next (s.raise .ill (w.setWidth 64))) ∧
  ∀ (s t : State) (c : Cause), s.canIssue = true → s.fetch s.me s.me.pc = (.fail c, t) →
    exec .fetchFault s = .next (t.raise c t.me.pc)

/-! ### Events: thread records and groups -/

/-- Only the cores change. -/
def Say.onlyCores (s t : State) : Prop := t = { s with cores := t.cores }
/-- Only the groups change. -/
def Say.onlyGroups (s t : State) : Prop := t = { s with groups := t.groups }
/-- One group becomes `g`, and nothing else changes. -/
def Say.onlyGroup (s t : State) (gid : Nat) (g : Group) : Prop :=
  Say.onlyGroups s t ∧ t.grp gid = g ∧ ∀ n, n ≠ gid → tget n t.groups = tget n s.groups

/-- A segment's waiting records, averaged over the window that ends now, exceed its threshold times its replicas (R105). -/
def Say.hot (s : State) (gr : Grid) (m : SMap) (i : Nat) : Bool :=
  s.segThr m i != 0 && decide (s.segThr m i * (s.replicas m i).length * (s.tick - gr.window) < s.segOccupancy gr m i)

/-- What befalls thread records (R40, R41, R44, R93, R95 to R98, R105 to R107). A record that arrives enters its core, or, off
its pinned segment, ends the grid; a refill loses no record; a ring's oldest record comes in while there is room, and a
corrupt ring, or a record in it whose target lies in a segment that the core does not pin, is BROVF; a wait for room ends after 4,096 clocks, not before; a
bin's timer marks it, and a bin whose condition holds launches a group of its oldest records at their targets; the
occupancy of a core goes to every core of the placement; a window counts each hot segment, and a segment hot for four in a
row starts a replication on the idle or cold core that it finds (of several the lowest-numbered, whose run starts again:
log entry 66), a cold core's slot cleared at once; and a replica is added once its core has drained, its code loaded, in
the lowest-numbered free slot (log entry 67). -/
def Obligations.RecordEvents : Prop :=
  (∀ (s : State) (core n : Nat) (r : Rec), (s.core core).transit[n]? = some r →
    let u := s.modCore core fun c => { c with transit := c.transit.eraseIdx n }
    (r.bramble = true → u.pins (s.team r.team).grid core r.seg = false → exec (.recordArrival core n) s = .next (u.brovf r.team core)) ∧
    (r.bramble = false → (∀ g ∈ s.ringGrids core, (s.ring (s.smap g) core).count = 0) →
      ∃ t, exec (.recordArrival core n) s = .next t ∧ Say.onlyCores s t ∧
      { r with came := s.tick } ∈ (t.core core).allRecs ∧ (t.core core).transit = (s.core core).transit.eraseIdx n ∧ ∀ c, c ≠ core → t.core c = s.core c) ∧
    (r.bramble = true → u.pins (s.team r.team).grid core r.seg = true → u.arriveRoom core r = true → (u.core core).arrive = [] → (u.core core).spill = [] →
      (∀ g ∈ s.ringGrids core, (s.ring (s.smap g) core).count = 0) →
      ∃ t, exec (.recordArrival core n) s = .next t ∧ Say.onlyCores s t ∧ { r with came := s.tick } ∈ (t.core core).allRecs)) ∧
  (∀ (s : State) (core : Nat), s.ringGrids core = [] → tsorted (s.core core).bins = true →
    ∃ t, exec (.arrivalBufferRefill core) s = .next t ∧ Say.onlyCores s t ∧ (∀ c, c ≠ core → t.core c = s.core c) ∧
      ∀ r, r ∈ (t.core core).allRecs ↔ r ∈ (s.core core).allRecs) ∧
  (∀ (s : State) (grid core : Nat),
    ((s.ringGrids core).contains grid = false → exec (.overflowRingDrain grid core) s = .next s) ∧
    ((s.ringGrids core).contains grid = true → s.fromRing grid core = none →
      exec (.overflowRingDrain grid core) s = .next (s.brovfGrid grid core 0)) ∧
    ∀ r u, (s.ringGrids core).contains grid = true → s.fromRing grid core = some (some r, u) →
      (s.grid grid).teams.contains r.team = true →
      let here : Prop := s.pins grid core r.seg = true ∨ s.segOf (s.smap grid) r.tgt.toNat = none
      (¬here → exec (.overflowRingDrain grid core) s = .next (s.brovfGrid grid core 0)) ∧
      (here → s.arriveRoom core r = false → exec (.overflowRingDrain grid core) s = .next s) ∧
      (here → s.arriveRoom core r = true → tsorted (s.core core).bins = true →
        ∃ t, exec (.overflowRingDrain grid core) s = .next t ∧ t.mem = u.mem ∧ { r with came := s.tick } ∈ (t.core core).allRecs)) ∧
  (∀ (s : State) (gid : Nat), let g := s.grp gid
    (g.waitedOut s.tick = false → exec (.departureWaitTimeout gid) s = .next s ∧ exec (.brgWaitTimeout gid) s = .next s) ∧
    (∀ c k, g.wait = .room c k → k + 4096 ≤ s.tick →
      (∀ x, g.depart = some x → exec (.brgWaitTimeout gid) s = .next s ∧ exec (.departureWaitTimeout gid) s = .next
        { ((({ s with cur := gid } : State).modMe fun h => { h with force := true }).runDepart (g.W + 2)) with cur := s.cur }) ∧
      (g.depart = none → exec (.departureWaitTimeout gid) s = .next s ∧
        ∃ t, exec (.brgWaitTimeout gid) s = .next t ∧ Say.onlyGroup s t gid { g with force := true, readyAt := s.tick }))) ∧
  (∀ (s : State) (core bin : Nat) (b : Bin), tget bin (s.core core).bins = some b →
    (s.tick < b.expires → exec (.binTimerExpire core bin) s = .next s) ∧
    (b.expires ≤ s.tick → ∃ t, exec (.binTimerExpire core bin) s = .next t ∧ Say.onlyCores s t ∧
      tget bin (t.core core).bins = some { b with due := true } ∧
      ∀ n, n ≠ bin → tget n (t.core core).bins = tget n (s.core core).bins) ∧
    (s.canLaunch core b = false → exec (.binLaunch core bin) s = .next s) ∧
    (s.canLaunch core b = true → (∀ e ∈ (s.core core).bins, s.canLaunch core e.2 = true → b.since ≤ e.2.since) →
      let p := (s.grid (s.team b.team).grid).pkt
      ∃ t, exec (.binLaunch core bin) s = .next t ∧ t.mem = s.mem ∧ t.nextGid = s.nextGid + 1 ∧
        let g := t.grp s.nextGid
        g.team = b.team ∧ g.core = core ∧ g.W = p.gw ∧ g.R = p.regs * 16 ∧ g.mask 0 = (2 ^ (b.recs.take p.gw).length - 1) % 2 ^ 64 % 2 ^ p.gw ∧
        g.readKey 0 (.q 0) = BitVec.ofNat 64 p.argp ∧
        (∀ i r, (b.recs.take p.gw)[i]? = some r → g.lane i = { occ := true, status := .ready, pcv := r.tgt, th := r.th }) ∧
        ∀ i, (b.recs.take p.gw).length ≤ i → (g.lane i).occ = false)) ∧
  (∀ (s : State) (core : Nat), ∃ t, exec (.occupancyReport core) s = .next t ∧ Say.onlyCores s t ∧
    ∀ e ∈ s.maps, e.2.contains core = true → ∀ c ∈ e.2, tgetD (t.core c).occSeen core 0 = s.occupancy core) ∧
  (∀ (s : State) (grid : Nat), let gr := s.grid grid
    let m := s.smap grid
    (s.tick < gr.window + 4096 → exec (.replicationWindow grid) s = .next s) ∧
    (gr.bramble = true → gr.admitted = true → gr.window + 4096 ≤ s.tick →
      ((∀ i, i < m.nseg → Say.hot s gr m i = true → tgetD gr.hotRun i 0 < 3) →
        ∃ t, exec (.replicationWindow grid) s = .next t ∧ t = { s with grids := t.grids } ∧ (t.grid grid).window = s.tick ∧
          ∀ i, i < m.nseg → tgetD (t.grid grid).hotRun i 0 = if Say.hot s gr m i then tgetD gr.hotRun i 0 + 1 else 0) ∧
      ∀ i c old, i < m.nseg → Say.hot s gr m i = true → 3 ≤ tgetD gr.hotRun i 0 → (s.replicas m i).length < 8 →
        (∀ j, j < i → Say.hot s gr m j = true → 3 ≤ tgetD gr.hotRun j 0 → (s.replicas m j).length < 8 →
          s.freeReplica grid gr m (s.segThr m j) = none) → gr.repl = none →
        s.freeReplica grid gr m (s.segThr m i) = some (c, old) →
        ∃ t, exec (.replicationWindow grid) s = .next t ∧ (t.grid grid).repl = some (i, c) ∧
          (t.grid grid).window = s.tick ∧ tgetD (t.grid grid).hotRun i 0 = 0 ∧
          (old = none → t = { s with grids := t.grids }) ∧
          ∀ j k, old = some (j, k) → ∃ gs, t.mem = (({ s with grids := gs } : State).setSlot m j k 0).mem)) ∧
  ∀ (s : State) (grid i c : Nat), (s.grid grid).repl = some (i, c) → let m := s.smap grid
    (s.drained grid c = false → exec (.replicaAdd grid) s = .next s) ∧
    ∀ j, s.drained grid c = true → j < 8 → (∀ r ∈ s.replicas m i, r.1 ≠ j) → (∀ k, k < j → ∃ r ∈ s.replicas m i, r.1 = k) →
      let x : Seg := { grid := grid, seg := i, base := s.segCode m i, len := s.segLen m i,
                       code := (s.devRead m.ctx (s.segCode m i) (s.segLen m i)).getD [] }
      ∃ t, exec (.replicaAdd grid) s = .next t ∧ (t.grid grid).repl = none ∧ (t.core c).seg = some x ∧
        t.mem = ((s.modCore c fun y => { y with seg := some x }).setSlot m i j (32768 + c)).mem

/-- What befalls groups, teams and their frames (R46, R47, R58, R100, R159, R185, R193, R194, R258, R264, R266, R267, R270,
R271, R273): parking after 16,384 clocks of waiting and re-forming with the lanes as they were; the boost; a BART arrival,
which counts, and with the last one of the phase releases it; a long-class value, which fills its register; a trap or an
entry that waited; a frame that is ready and its tag; the service reply, which takes
the record out of the event queue (the model's choice, log entry 53); a wound, after the loads in flight of its group (R371),
at WNDV or by aborting the task, and its deadline, which revokes; a revocation at a group; pre-emption, of every team of a cooperative grid together (R26), and
the forced save. -/
def Obligations.GroupEvents : Prop :=
  (∀ (s : State) (gid k : Nat), let g := s.grp gid
    g.waitingSince = some k →
    (s.tick < k + 16384 → exec (.groupPark gid) s = .next s) ∧
    (k + 16384 ≤ s.tick → g.loc = .onCore → g.depart = none → g.trapDue = none → s.mmaInFlight gid = false →
      ∃ t, exec (.groupPark gid) s = .next t ∧
        Say.onlyGroup s t gid { g.settle with loc := .parkArea, waitingSince := none })) ∧
  (∀ (s : State) (gid sl : Nat), let g := s.grp gid
    (g.reformDue = false → exec (.groupReform gid) s = .next s) ∧
    (g.reformDue = true → s.resident g.team = false → exec (.groupReform gid) s = .next s) ∧
    (g.reformDue = true → s.resident g.team = true → s.groupRoom g.core g.W g.R = true → s.freeSlot g.core = some sl →
      ∃ t, exec (.groupReform gid) s = .next t ∧ Say.onlyGroup s t gid
        { g with loc := .onCore, slot := sl, readyAt := s.tick, boosted := none, waitingSince := none })) ∧
  (∀ (s : State) (gid : Nat), let g := s.grp gid
    g.boosted = none → g.loc = .onCore → (s.readyGroup gid = true ∨ g.able = true) →
    (s.tick < g.readyAt + 256 → exec (.groupBoost gid) s = .next s) ∧
    (g.readyAt + 256 ≤ s.tick →
      ∃ t, exec (.groupBoost gid) s = .next t ∧ Say.onlyGroup s t gid { g with boosted := some s.tick })) ∧
  (∀ (s : State) (team tid : Nat), (team, tid) ∈ s.bartMsgs → tid ∈ (s.team team).live →
    ∃ t, exec (.bartArrival team tid) s = .next t ∧ t.bartMsgs = s.bartMsgs.erase (team, tid) ∧
      if (s.team team).live.all (fun x => x == tid || (s.team team).bartAt.contains x)
        then (t.team team).bartPhase = (s.team team).bartPhase + 1 ∧ (t.team team).bartAt = []
        else (t.team team).bartPhase = (s.team team).bartPhase ∧ tid ∈ (t.team team).bartAt ∧
          t = { s with bartMsgs := t.bartMsgs, teams := t.teams }) ∧
  (∀ (s : State) (gid l reg : Nat) (p : Pend) (r : List Pend), gid ≠ 0 → reg < 512 → let k := regKey reg
    let g := s.grp gid
    g.fullKey l k = false → takeFirst (fun x => x.key == k) (g.lane l).th.pend = some (p, r) →
    ∃ t, exec (.registerFill gid 0 l reg) s = .next t ∧ Say.onlyGroups s t ∧ (t.grp gid).readKey l k = p.val ∧
      (t.grp gid).fullKey l k = true ∧ ((t.grp gid).lane l).th.pend = r ∧ (∀ m, m ≠ l → (t.grp gid).lane m = g.lane m) ∧
      ∀ j, j ≠ k → (t.grp gid).readKey l j = g.readKey l j ∧ (t.grp gid).fullKey l j = g.fullKey l j) ∧
  (∀ (s : State) (gid l n : Nat) (p : Pend) (r : List Pend), gid ≠ 0 → let g := s.grp gid
    g.fullKey l (.q n) = false → takeFirst (fun x => x.key == .q n) g.qPend = some (p, r) →
    ∃ t, exec (.registerFill gid 0 l (512 + n)) s = .next t ∧ Say.onlyGroups s t ∧ (t.grp gid).readKey l (.q n) = p.val ∧
      (t.grp gid).fullKey l (.q n) = true ∧ (t.grp gid).qPend = r ∧ (t.grp gid).lanes = g.lanes) ∧
  (∀ (s : State) (gid : Nat) (d : TrapDue), (s.grp gid).trapDue = some d →
    (s.canEnter gid d.cause = false → exec (.tvecEntry gid) s = .next s ∧ exec (.contvEntry gid) s = .next s) ∧
    (s.canEnter gid d.cause = true →
      ((s.team (s.grp gid).team).dest d.cause = .tvec →
        exec (.tvecEntry gid) s = .next (s.enterTrap gid d) ∧ exec (.contvEntry gid) s = .next s) ∧
      ((s.team (s.grp gid).team).dest d.cause ≠ .tvec →
        exec (.contvEntry gid) s = .next (s.enterTrap gid d) ∧ exec (.tvecEntry gid) s = .next s))) ∧
  (∀ (s : State) (gid frame : Nat) (f : Frame), let tm := s.team (s.grp gid).team
    let n := tm.contt.toNat % 64
    tget frame tm.frames = some f → f.gid = gid →
    (f.tagged = true ∨ s.frameReady f = false → exec (.frameReady gid frame) s = .next s) ∧
    (f.tagged = false → s.frameReady f = true →
      ∃ t, exec (.frameReady gid frame) s = .next t ∧ t = { s with teams := t.teams } ∧
        tget frame (t.team (s.grp gid).team).frames = some { f with tagged := true } ∧
        ∀ j, (t.team (s.grp gid).team).tag j = if tm.contt.toNat / 64 % 2 = 1 ∧ j = n
          then (if (tm.tag j).busy then tm.tag j else { tm.tag j with ready := true }) else tm.tag j)) ∧
  (∀ (s : State) (seq : Nat), ((∀ r ∈ s.evq, r.seq ≠ seq) → exec (.serviceReply seq) s = .next s) ∧
    ((∃ r ∈ s.evq, r.seq = seq) → ∃ t, exec (.serviceReply seq) s = .next t ∧ t.evq = s.evq.filter (fun r => r.seq != seq) ∧
      t.mem = s.mem ∧ ∀ gid, t.grp gid = if (s.grp gid).wait = .page seq
        then { s.grp gid with wait := .none, readyAt := s.tick } else s.grp gid)) ∧
  (∀ (s : State) (gid : Nat), let g := s.grp gid
    (s.canDeliver gid = false → exec (.woundDelivery gid) s = .next s) ∧
    (s.canDeliver gid = true → g.revokeDue = true → g.taskId = 0 →
      exec (.woundDelivery gid) s = .next ((((s.modGrp gid Group.settleLoads).withdraw gid).modGrp gid fun x =>
        { x with woundDue := false, revokeDue := false, lockSt := [] }).raiseAsync gid .lkrevoke 0)) ∧
    (s.canDeliver gid = true → g.revokeDue = false → g.woundDue = true →
      let u := (s.modGrp gid Group.settleLoads).modGrp gid fun x => { x with woundDue := false }
      (g.taskId ≠ 0 → exec (.woundDelivery gid) s = .next (u.abortTask gid 0x0D)) ∧
      (g.taskId = 0 → (s.team g.team).canPark (s.team g.team).wndv = false →
        exec (.woundDelivery gid) s = .next (u.raiseAsync gid .wound 0)) ∧
      (g.taskId = 0 → ∀ id, (s.team g.team).wndv ≠ 0 → (s.team g.team).freeFrame = some id →
        ∃ t, exec (.woundDelivery gid) s = .next t ∧ t.mem = s.mem ∧
          ∀ l, l < g.lanes.length → (g.lane l).alive = true →
            ((t.grp gid).lane l).status = .ready ∧ ((t.grp gid).lane l).pcv = (s.team g.team).wndv ∧
            (t.grp gid).readKey l (.o 0) = BitVec.ofNat 64 id ∧ (t.grp gid).readKey l (.o 1) = 0x0D ∧
            (t.grp gid).readKey l (.o 2) = 0))) ∧
  (∀ (s : State) (team : Nat),
    (s.woundExpired team = false → exec (.woundDeadlineExpiry team) s = .next s) ∧
    (s.woundExpired team = true →
      (s.deadlineMet team = true → ∃ t, exec (.woundDeadlineExpiry team) s = .next t ∧ t = { s with wounds := t.wounds } ∧
        t.woundExpired team = false) ∧
      (s.deadlineMet team = false → ∃ t, exec (.woundDeadlineExpiry team) s = .next t ∧ (∀ h ∈ t.holds, h.team ≠ team) ∧
        (∀ q ∈ t.lockWaits, q.team ≠ team) ∧
        ∀ gid g, tget gid s.groups = some g → g.team = team → (t.grp gid).revokeDue = true))) ∧
  (∀ (s : State) (team : Nat) (tm : Team), tget team s.teams = some tm →
    let gr := s.grid tm.grid
    let ylim := (s.ctx gr.ctx).ylim
    (gr.cooperative = false → tm.saved = true ∨ tm.preq ≠ none → exec (.preemptRequest team) s = .next s) ∧
    (gr.cooperative = false → tm.saved = false → tm.preq = none → ylim ≠ 0 →
      (∃ e ∈ s.groups, e.2.team = team ∧ e.2.loc = .onCore) →
      ∃ t, exec (.preemptRequest team) s = .next t ∧ t = { s with teams := t.teams } ∧
        (t.team team) = { tm with preq := some { until_ := s.tick + ylim.toNat, deadline := false } }) ∧
    (gr.cooperative = true → ylim ≠ 0 →
      (∀ k ∈ gr.teams, ∃ x, tget k s.teams = some x ∧ x.grid = tm.grid ∧ x.saved = false ∧ x.preq = none ∧
        ∃ e ∈ s.groups, e.2.team = k ∧ e.2.loc = .onCore) →
      ∃ t, exec (.preemptRequest team) s = .next t ∧ t = { s with teams := t.teams } ∧
        ∀ k ∈ gr.teams, (t.team k).preq = some { until_ := s.tick + ylim.toNat, deadline := false })) ∧
  ∀ (s : State) (gid : Nat) (g : Group) (p : Preq), tget gid s.groups = some g → (s.team g.team).preq = some p →
    (s.tick < p.until_ → exec (.forcedSave gid) s = .next s) ∧
    (p.until_ ≤ s.tick → p.deadline = false → g.loc = .onCore → s.canForce gid = true → g.taskId = 0 → (∀ w ∈ s.lockWaits, w.gid ≠ gid) →
      (∃ e ∈ s.groups, e.1 ≠ gid ∧ e.2.team = g.team ∧ e.2.loc = .onCore) →
      ∃ t, exec (.forcedSave gid) s = .next t ∧ t.mem = s.mem ∧ (t.grp gid).loc = .saved ∧
        (∀ l, l < g.lanes.length → (t.grp gid).lane l = { g.lane l with th := (g.lane l).th.settle }) ∧
        ∀ n, n ≠ gid → t.grp n = s.grp n)

/-! ### Events: the coherence protocol, translation, versioned memory -/

/-- Nothing is under way on a line: no message, no request in a spill queue, and its slice has a transaction entry and room
in the LLC (R126, R133). -/
def Say.quietLine (s : State) (line : Nat) : Prop :=
  s.coh.spill = [] ∧ s.sliceFull line = false ∧ s.sliceHas line (fun d => d.inLlc) Config.sliceLines = false ∧
  ∀ m ∈ s.coh.msgs, m.line ≠ line

/-- A cluster cache has room for a line (R13). -/
def Say.cacheHasRoom (s : State) (cl line : Nat) : Prop :=
  (s.coh.lines.filter fun x => x.cl == cl && !x.wb && x.line != line).length + (s.ro.filter fun x => x.cl == cl).length +
    (s.sco.filter fun x => x.cl == cl).length < Config.clusterLines

/-- The LLC has no copy of a line. -/
def Say.absent (s : State) (line : Nat) : Prop := tget line s.coh.dir = none

/-- Only the protocol's own state changes. -/
def Say.onlyCoh (s t : State) : Prop := t = { s with coh := t.coh }

/-- The requests of R129 that reach a home. -/
def Say.request : Instr → Option (Nat × Nat × Req)
  | .rds cl line => some (cl, line, .rdS)
  | .rdx cl line => some (cl, line, .rdX)
  | .rdu cl line k => some (cl, line, .rdU (uKind k))
  | .wrl cl line x => some (cl, line, .wrL (x % 2 ^ 1024))
  | _ => none

/-- The messages of R129 whose delivery is an event of its own. -/
def Say.message : Instr → Option ((MsgKind → Prop) × Option Nat × Nat)
  | .pute cl line => some ((· = .putE), some cl, line)
  | .wb cl line => some ((· = .wb), some cl, line)
  | .wbu cl line => some (fun x => ∃ p k, x = .wbu p k, some cl, line)
  | .ack cl line => some ((· = .ack), some cl, line)
  | .fwdack cl line => some (fun x => ∃ w, x = .fwdAck w, some cl, line)
  | .partialReturn cl line => some (fun x => ∃ p k, x = .partial_ p k, some cl, line)
  | .memoryData line => some ((· = .memData), none, line)
  | .inv cl line => some ((· = .inv), some cl, line)
  | .fwds cl line => some ((· = .fwdS), some cl, line)
  | .fwdx cl line => some ((· = .fwdX), some cl, line)
  | .rcl cl line => some ((· = .rcl), some cl, line)
  | .collMessage cl line => some ((· = .coll), some cl, line)
  | .data cl line => some (fun x => ∃ st, x = .grant st, some cl, line)
  | .wback cl line => some ((· = .wbAck), some cl, line)
  | _ => none

/-- A line's bytes after a partial is combined into them, the line's touched elements only, one operation each (R128, R129). -/
def Say.combined (line : Nat) (k : AOp) (p : Tab Nat) (m : List Host.Cell) : List Host.Cell :=
  (p.filter fun e => decide (e.1 + k.size ≤ 128)).foldl (fun m e => mwrite (line * 128 + e.1)
    (toBytes k.size (k.new (ofBytes (mread m (line * 128 + e.1) k.size)) e.2 0)) m) m

/-- Requests reaching a home (R126, R127, R129 to R133): on a line that the LLC does not have, a request opens the line's one
transaction and asks for the memory's data, but for RdU, which is granted U at once; a cluster that has a copy sends no RdS
or RdX. An Upg of the sole holder is granted; one with another holder sends Inv to it. Evictions: a cluster's dirty line
goes out as WB and stays in its buffer, a clean sole copy as PutE, a shared one and an RO copy without a message, a partial
as WBU, and an SCO copy stays; the LLC recalls a shared line from its holder first, and drops the entry of one that nobody
holds. A spilled request is taken back in its order, behind an open transaction of its line or as a new one. A home atomic
reads and writes its element and no other byte.
A message of the protocol delivered (R129, R131, R132): with none on its way nothing happens. The memory's data and the
last answer close the transaction with the state that the request asks for; a holder that is told to go answers; a forward
goes to the requester from the owner or from its buffer; a partial, asked for or evicted, is combined into the line, each
touched element once; an eviction from the owner is absorbed, one from a cluster that is no longer owner discarded, and one
that meets a forward held; a line in the writeback buffer stays there until its WBAck. -/
def Obligations.CoherenceEvents : Prop :=
  ((∀ (i : Instr) (s : State) (cl line : Nat) (r : Req), Say.request i = some (cl, line, r) → Say.quietLine s line →
    Say.absent s line → ((∃ x, r = .wrL x) ∨ s.cline cl line = none) →
    ((∀ k, r ≠ .rdU k) → ∃ t, exec i s = .next t ∧ Say.onlyCoh s t ∧ t.dirOf line = { st := .IM, txn := some (cl, r) } ∧
      t.coh.msgs = s.coh.msgs ++ [{ kind := .memData, cl := cl, line := line }] ∧ t.coh.lines = s.coh.lines) ∧
    ∀ k, r = .rdU k → k.reduces = true → s.watched line = false →
      ∃ t, exec i s = .next t ∧ Say.onlyCoh s t ∧ t.dirOf line = { st := .U k, holders := [cl] } ∧
        t.coh.msgs = s.coh.msgs ++ [{ kind := .grant (.U k), cl := cl, line := line }] ∧ t.coh.lines = s.coh.lines) ∧
  (∀ (s : State) (cl line : Nat) (x : CLine), s.cline cl line = some x →
    exec (.rds cl line) s = .next s ∧ exec (.rdx cl line) s = .next s) ∧
  (∀ (s : State) (cl line : Nat), let d := s.dirOf line
    (s.lineSt cl line ≠ some .S → s.lineSt cl line ≠ some .O → exec (.upg cl line) s = .next s) ∧
    (s.lineSt cl line = some .S → Say.quietLine s line → d.st = .S → d.inLlc = true → d.txn = none → d.held = none →
      (d.holders = [cl] → ∃ t, exec (.upg cl line) s = .next t ∧ Say.onlyCoh s t ∧ (t.dirOf line).st = .E ∧
        (t.dirOf line).owner = some cl ∧ (t.dirOf line).holders = [] ∧ (t.dirOf line).txn = none ∧
        t.coh.msgs = s.coh.msgs ++ [{ kind := .grant .M, cl := cl, line := line }]) ∧
      ∀ c, c ≠ cl → d.holders = [cl, c] → ∃ t, exec (.upg cl line) s = .next t ∧ Say.onlyCoh s t ∧
        (t.dirOf line).st = .SX ∧ (t.dirOf line).txn = some (cl, .upg) ∧
        t.coh.msgs = s.coh.msgs ++ [{ kind := .inv, cl := c, line := line }])) ∧
  (∀ (s : State) (cl line : Nat),
    let u : State := { s with ro := s.ro.filter fun x => !(x.cl == cl && x.line == line) }
    let ends (out : List Msg) (c : Option CLine) : Prop :=
      ∃ t, exec (.clusterEviction cl line) s = .next t ∧ Say.onlyCoh u t ∧ t.coh.msgs = s.coh.msgs ++ out ∧ t.cline cl line = c
    (s.cline cl line = none → exec (.clusterEviction cl line) s = .next u) ∧
    ∀ x, s.cline cl line = some x →
      (x.wb = true → exec (.clusterEviction cl line) s = .next u) ∧
      (x.wb = false →
        (x.st = .M ∨ x.st = .O → ends [{ kind := .wb, cl := cl, line := line }] (some { x with wb := true })) ∧
        (x.st = .E → ends [{ kind := .putE, cl := cl, line := line }] (some { x with wb := true })) ∧
        (x.st = .S → ends [] none) ∧
        ∀ k, x.st = .U k → ends [{ kind := .wbu x.part k, cl := cl, line := line }] (some { x with part := [], wb := true }))) ∧
  (∀ (s : State) (line : Nat),
    (Say.absent s line → exec (.llcEviction line) s = .next s) ∧
    ∀ d, tget line s.coh.dir = some d → Say.quietLine s line → d.txn = none → d.held = none → d.waiting = [] →
      (d.st = .I → ∃ t, exec (.llcEviction line) s = .next t ∧ Say.onlyCoh s t ∧ tget line t.coh.dir = none) ∧
      ∀ c, d.st = .S → d.holders = [c] → ∃ t, exec (.llcEviction line) s = .next t ∧ Say.onlyCoh s t ∧
        (t.dirOf line).st = .SX ∧ t.coh.msgs = s.coh.msgs ++ [{ kind := .inv, cl := c, line := line }]) ∧
  (∀ (s : State) (slice line cl : Nat) (r : Req) (rest : List (Nat × Nat × Req)),
    tgetD s.coh.spill slice [] = (line, cl, r) :: rest →
    ((s.dirOf line).txn = none → s.sliceFull line = true → exec (.spillQueueDrain slice) s = .next s) ∧
    ((s.dirOf line).txn ≠ none → (s.dirOf line).waiting.length < Config.lineWaiting →
      ∃ t, exec (.spillQueueDrain slice) s = .next t ∧ Say.onlyCoh s t ∧ tgetD t.coh.spill slice [] = rest ∧
        t.dirOf line = { s.dirOf line with waiting := (s.dirOf line).waiting ++ [(cl, r)] }) ∧
    (Say.absent s line → s.sliceFull line = false → s.sliceHas line (fun d => d.inLlc) Config.sliceLines = false → r ≠ .evict →
      ∃ t, exec (.spillQueueDrain slice) s = .next t ∧ Say.onlyCoh s t ∧ tgetD t.coh.spill slice [] = rest ∧
        (∀ k, r = .rdU k → t.dirOf line = { st := .U k, holders := [cl] }) ∧
        ((∀ k, r ≠ .rdU k) →
          (t.dirOf line).st = .IM ∧ ∃ q, (t.dirOf line).txn = some (cl, q) ∧ (r ≠ .upg → q = r)))) ∧
  ∀ (s : State) (cl line off op arg cmp : Nat), let o := aopOf op
    let pa := line * 128 + off
    off < 128 → off % Say.atomicSize o = 0 → arg < 2 ^ (8 * Say.atomicSize o) → cmp < 2 ^ (8 * Say.atomicSize o) →
    Say.absent s line → (∀ x ∈ s.sco, x.line ≠ line) →
    ∃ t, exec (.homeAtomic cl line off op arg cmp) s = .next t ∧ t.groups = s.groups ∧ t.coh = s.coh ∧
      mread t.mem pa (Say.atomicSize o) = toBytes (Say.atomicSize o)
        (Say.atomicNew o (ofBytes (mread s.mem pa (Say.atomicSize o))) arg cmp) ∧
      ∀ a, a < pa ∨ pa + Say.atomicSize o ≤ a → mget a t.mem = mget a s.mem) ∧
  (∀ (i : Instr) (s : State) (p : MsgKind → Prop) (cl : Option Nat) (line : Nat), Say.message i = some (p, cl, line) →
    (∀ m ∈ s.coh.msgs, m.line = line → (∀ c, cl = some c → m.cl = c) → ¬p m.kind) → exec i s = .next s) ∧
  (∀ (s : State) (cl line : Nat) (kind : MsgKind) (rest : List Msg),
    s.coh.msgs = { kind := kind, cl := cl, line := line } :: rest → (∀ m ∈ rest, m.line ≠ line) →
    let d := s.dirOf line
    let open_ (c : Nat) (r : Req) : Prop := d.txn = some (c, r) ∧ d.waiting = [] ∧ d.held = none
    let ends (i : Instr) (out : List Msg) (P : State → Prop) : Prop :=
      ∃ t, exec i s = .next t ∧ Say.onlyCoh s t ∧ t.coh.msgs = rest ++ out ∧ P t
    let to_ (k : MsgKind) (c : Nat) : Msg := { kind := k, cl := c, line := line }
    let owned (c : Nat) (t : State) : Prop := (t.dirOf line).st = .E ∧ (t.dirOf line).owner = some c ∧
      (t.dirOf line).holders = [] ∧ (t.dirOf line).txn = none
    (kind = .memData → ∀ c,
      (open_ c .rdS → ends (.memoryData line) [to_ (.grant .E) c] (owned c)) ∧
      (open_ c .rdX → ends (.memoryData line) [to_ (.grant .M) c] (owned c)) ∧
      (∀ k, open_ c (.rdU k) → ends (.memoryData line) [to_ (.grant (.U k)) c] fun t =>
        (t.dirOf line).st = .U k ∧ (t.dirOf line).holders = [c]) ∧
      ∀ x, open_ c (.wrL x) → ∃ t, exec (.memoryData line) s = .next t ∧ t.coh.msgs = rest ∧
        mread t.mem (line * 128) 128 = toBytes 128 x ∧ (t.dirOf line).st = .I) ∧
    (∀ st, kind = .grant st → Say.cacheHasRoom s cl line → ends (.data cl line) [] fun t => t.cline cl line = some { cl := cl, line := line, st := st } ∧
      ∀ c n, c ≠ cl ∨ n ≠ line → t.cline c n = s.cline c n) ∧
    (kind = .inv → ends (.inv cl line) [to_ .ack cl] fun t => t.cline cl line = (s.cline cl line).filter fun x => x.wb) ∧
    (kind = .rcl → ends (.rcl cl line) [to_ (.fwdAck .M) cl] fun t => t.cline cl line = (s.cline cl line).filter fun x => x.wb) ∧
    (kind = .coll →
      (∀ x k, s.cline cl line = some x → x.st = .U k → x.wb = false →
        ends (.collMessage cl line) [to_ (.partial_ x.part k) cl] fun t => t.cline cl line = none) ∧
      ((∀ x, s.cline cl line = some x → x.wb = true ∨ ∀ k, x.st ≠ .U k) →
        ends (.collMessage cl line) [to_ .ack cl] fun t => t.cline cl line = s.cline cl line)) ∧
    (∀ x c r, kind = .fwdS → d.txn = some (c, r) → s.cline cl line = some x →
      (x.wb = false → ends (.fwds cl line) [to_ (.grant .S) c, to_ (.fwdAck x.st) cl] fun t =>
        t.cline cl line = some { x with st := if x.st = .E then .S else .O }) ∧
      (x.wb = true → x.st = .E →
        ends (.fwds cl line) [to_ (.grant .S) c, to_ (.fwdAck .E) cl] fun t => t.cline cl line = some x) ∧
      (x.wb = true → x.st = .M ∨ x.st = .O →
        ends (.fwds cl line) [to_ (.grant .O) c, to_ (.fwdAck .S) cl] fun t => t.cline cl line = some x)) ∧
    (∀ c r, kind = .fwdX → d.txn = some (c, r) → d.st = .F →
      ends (.fwdx cl line) [to_ (.grant .M) c, to_ (.fwdAck .M) cl] fun t =>
        t.cline cl line = (s.cline cl line).filter fun x => x.wb) ∧
    (∀ c, kind = .ack → open_ c .rdX → d.st = .SX → ends (.ack cl line) [to_ (.grant .M) c] (owned c)) ∧
    (∀ c p k, kind = .partial_ p k → open_ c .read → d.st = .C →
      ∃ t, exec (.partialReturn cl line) s = .next t ∧ t.mem = Say.combined line k p s.mem ∧ t.coh.msgs = rest ∧
        (t.dirOf line).st = .I ∧ (t.dirOf line).txn = none) ∧
    (∀ c was, kind = .fwdAck was → d.st = .F →
      (open_ c .rdS → was = .M → ends (.fwdack cl line) [] fun t => (t.dirOf line).st = .O ∧ (t.dirOf line).owner = some cl ∧
        c ∈ (t.dirOf line).holders ∧ (t.dirOf line).txn = none) ∧
      (open_ c .rdS → was = .E → ends (.fwdack cl line) [] fun t => (t.dirOf line).st = .S ∧ (t.dirOf line).owner = none ∧
        (t.dirOf line).holders = [c, cl]) ∧
      (open_ c .rdS → was = .S → ends (.fwdack cl line) [] fun t => (t.dirOf line).st = .O ∧ (t.dirOf line).owner = some c ∧
        (t.dirOf line).txn = none) ∧
      (open_ c .rdX → ends (.fwdack cl line) [] (owned c))) ∧
    (∀ i, (kind = .wb ∧ i = .wb cl line ∨ kind = .putE ∧ i = .pute cl line) →
      (d.owner = some cl → d.txn = none → ends i [to_ .wbAck cl] fun t => (t.dirOf line).owner = none ∧
        (t.dirOf line).fresh = true ∧ (t.dirOf line).st = if d.holders = [] then .I else .S) ∧
      (d.owner ≠ some cl → ends i [to_ .wbAck cl] fun t => t.dirOf line = d) ∧
      (d.owner = some cl → d.txn ≠ none → ends i [to_ .wbAck cl] fun t =>
        t.dirOf line = { d with owner := none, fresh := true })) ∧
    (∀ p k, kind = .wbu p k → d.txn = none →
      ∃ t, exec (.wbu cl line) s = .next t ∧ t.mem = Say.combined line k p s.mem ∧ t.coh.msgs = rest ++ [to_ .wbAck cl] ∧
        (t.dirOf line).holders = d.holders.filter (· != cl)) ∧
    ∀ x, kind = .wbAck → s.cline cl line = some x → x.wb = true →
      ends (.wback cl line) [] fun t => t.cline cl line = none) ∧
  ∀ (i : Instr) (s : State) (cl line : Nat) (kind : MsgKind) (rest : List Msg) (m : Msg),
    (kind = .wb ∧ i = .wb cl line ∨ kind = .putE ∧ i = .pute cl line) →
    s.coh.msgs = { kind := kind, cl := cl, line := line } :: rest → (s.dirOf line).owner = some cl →
    m ∈ rest → m.line = line → m.cl = cl → (m.kind = .fwdS ∨ m.kind = .fwdX ∨ m.kind = .rcl ∨ ∃ w, m.kind = .fwdAck w) →
    s.sliceHas line (fun d => d.held.isSome) Config.sliceReserve = false →
    ∃ t, exec i s = .next t ∧ Say.onlyCoh s t ∧ t.coh.msgs = rest ∧ t.dirOf line = { s.dirOf line with held := some cl }

/-- Two ranges of bytes share none. -/
def Say.disjoint (a n b m : Nat) : Prop := a + n ≤ b ∨ b + m ≤ a

/-- No cluster and no home holds anything that a read would have to collect. -/
def Say.stillCaches (s : State) : Prop := s.coh.dir = [] ∧ s.sco = [] ∧ s.ro = [] ∧ ∀ e ∈ s.tasks, e.2.lines = []

/-- Address of the entry that a walk reads at a level, each non-leaf entry giving the next table (R114). -/
def Say.entryAt (s : State) (va root : Nat) : Nat → Nat
  | 0 => root + 8 * (va / 2 ^ 46 % 1024)
  | n + 1 => bitsOf (s.num (Say.entryAt s va root n) 8) 55 13 * 2 ^ 13 + 8 * (va / 2 ^ (46 - 10 * (n + 1)) % 1024)

/-- Translation and versioned memory between instructions (R117 to R119, R165, R170, R172, R173, R176, R183, R407). A walk
that succeeds is cached and one that fails is not; an invalidation waits for what went out under the old translation, and
after it no cached translation of the context covers an address of the range, and those of other contexts stay; when a
copy completes, the stores that waited for it may go on, the page's new frame holds what the old one held, the page's first
record is that of the open version with the new frame, the other records stand one slot further, the leaf names the new
frame, and no other byte changes; a
group that waits for a frame goes on once its pool holds one, and not before; a record that a version at or above L or
HOLDMIN may need, or of a page that is being copied, or for which a RETV still waits, is kept; a lane that its monitor has let go receives the value and goes on; a new lock matrix takes
effect. -/
def Obligations.MemoryEvents : Prop :=
  (∀ (s : State) (core ctx va : Nat), va < 2 ^ 56 → s.tlbFind core ctx va = none → s.coh.dir = [] → s.sco = [] →
    s.bad = [] →
    (∀ c, s.walk ctx va = .error c → exec (.pageWalk core ctx va) s = .next s) ∧
    ∀ e, s.walk ctx va = .ok e →
      ∃ t, exec (.pageWalk core ctx va) s = .next t ∧ t = { s with tlb := t.tlb } ∧ t.leafFor core ctx va = .ok e) ∧
  (∀ (s : State) (ctx lo hi : Nat),
    (s.usesOld ctx lo hi = true → exec (.translationInvalidation ctx lo hi) s = .next s) ∧
    (s.usesOld ctx lo hi = false → ∃ t, exec (.translationInvalidation ctx lo hi) s = .next t ∧ t.mem = s.mem ∧
      (∀ x ∈ t.tlb, ∀ va, lo ≤ va → va < hi → x.covers ctx va = false) ∧ ∀ x ∈ s.tlb, x.ctx ≠ ctx → x ∈ t.tlb)) ∧
  (∀ (s : State) (ctx va : Nat),
    (s.cowOf ctx (va / 65536) = none → exec (.copyOnWriteComplete ctx va) s = .next s) ∧
    ∀ c, s.cowOf ctx (va / 65536) = some c → ∃ t, exec (.copyOnWriteComplete ctx va) s = .next t ∧ c ∉ t.cows ∧
      ((∀ e ∈ s.tasks, e.2.lines = []) → ∀ gid, (s.grp gid).wait = .cow ctx (va / 65536) → (t.grp gid).wait = .again) ∧
      (∀ x ∈ t.tlb, ∀ a, a / 65536 = va / 65536 → x.covers ctx a = false) ∧
      -- a page with a slot to spare: the frame copied, the new record first, the leaf on the new frame, no other byte changed
      let page := va / 65536 * 65536
      let pe := s.pageEntry ctx c.dom page
      let old := (s.vrec pe).frame
      let root := (s.ctx ctx).root
      let leaf := Say.entryAt s page root 3
      c.tier = none → Say.stillCaches s → Memory.wf s.mem = true →
      Say.disjoint pe 256 c.frame 65536 → Say.disjoint (s.domAddr ctx c.dom) 4 c.frame 65536 →
      (∀ n, n < 4 → Say.disjoint (Say.entryAt s page root n) 8 c.frame 65536 ∧ Say.disjoint (Say.entryAt s page root n) 8 pe 256) →
      (∀ n, n < 65536 → mget (c.frame + n) t.mem = mget (old + n) s.mem) ∧
      mread t.mem pe 16 = toBytes 4 (s.domOpen ctx c.dom) ++ [1, 0, 0, 0] ++ toBytes 8 c.frame ∧
      mread t.mem (pe + 16) 240 = mread s.mem pe 240 ∧
      mread t.mem leaf 8 = toBytes 8 (s.num leaf 8 - bitsOf (s.num leaf 8) 55 16 * 65536 + c.frame) ∧
      ∀ a, (a < c.frame ∨ c.frame + 65536 ≤ a) → (a < pe ∨ pe + 256 ≤ a) → (a < leaf ∨ leaf + 8 ≤ a) →
        mget a t.mem = mget a s.mem) ∧
  (∀ (s : State) (gid : Nat) (p : Pool), (s.grp gid).wait = .pool p →
    (s.poolHas p = false → exec (.vpoolResume gid) s = .next s) ∧
    (s.poolHas p = true → ∃ t, exec (.vpoolResume gid) s = .next t ∧
      Say.onlyGroup s t gid { s.grp gid with wait := .none, noPool := none, readyAt := s.tick })) ∧
  (∀ (s : State) (ctx dom page : Nat), s.keptFrames = [] → s.viewFrames = [] →
    let pe := s.domVrt ctx dom + 512 * page
    let barred : Prop := (∃ e ∈ s.groups, e.2.wait = .ldv ∧ s.ctxOf e.2 = ctx) ∨
      s.cowOf ctx (s.domBase ctx dom / 65536 + page) ≠ none
    (barred → exec (.frameReclaim ctx dom page) s = .next s) ∧
    (s.domOn ctx dom = false ∨ s.domPages ctx dom ≤ page ∨ (s.vrecs pe).length < 2 → exec (.frameReclaim ctx dom page) s = .next s) ∧
    ∀ old newer rest, s.domOn ctx dom = true → page < s.domPages ctx dom → s.vrecs pe = rest ++ [newer, old] →
      (s.domOldest ctx dom < newer.ver ∨ s.domHold ctx dom < newer.ver → exec (.frameReclaim ctx dom page) s = .next s) ∧
      let f := s.freshFrame old.frame
      (¬barred → newer.ver ≤ s.domOldest ctx dom → newer.ver ≤ s.domHold ctx dom → f.num (pe + 264) 4 = 0 →
        exec (.frameReclaim ctx dom page) s = .next ((f.homeWrite (pe + 16 * ((f.vslots pe).length - 1))
          (List.replicate 16 0)).poolGive { ctx := ctx, dom := dom, tier2 := false } old.frame))) ∧
  (∀ (s : State) (gid lane : Nat) (m : Monitor), gid ≠ 0 →
    s.monitors.find? (fun m => m.gid == gid && m.lane == lane && m.peer.isNone) = some m →
    (m.fired = none → exec (.waitaRelease gid lane) s = .next s) ∧
    ∀ x, m.fired = some x → s.sco = [] → lane < (s.grp gid).lanes.length →
      ∃ t, exec (.waitaRelease gid lane) s = .next t ∧ t.mem = s.mem ∧ m ∉ t.monitors ∧
        ((t.grp gid).lane lane).status = .ready ∧ ((t.grp gid).lane lane).pcv = ((s.grp gid).lane lane).pcv + 4 ∧
        (t.grp gid).readKey lane m.key = (if m.key = .none then 0 else x)) ∧
  ∀ (s : State) (ctx : Nat),
    ((s.ctx ctx).lkNew = none → exec (.lkmatWrite ctx) s = .next s) ∧
    ∀ a b, (s.ctx ctx).lkNew = some (a, b) → ∃ t, exec (.lkmatWrite ctx) s = .next t ∧ t = { s with ctxs := t.ctxs } ∧
      t.ctx ctx = { s.ctx ctx with lkmat0 := a, lkmat1 := b, lkNew := none } ∧ ∀ c, c ≠ ctx → t.ctx c = s.ctx c

/-! ### Events: engines and the command processor -/

/-- A packet as the fabric brings it (R293). -/
def Say.chunk (src ctx group seq dhash : Nat) (ops : List Nat) (off n : Nat) (ovh : Bool) (bs : List Byte) : FPkt :=
  { type := 6, tc := 2, src := src, ctx := ctx, group := group, seq := seq, dhash := dhash, ops := ops, offset := off,
    nbytes := n, ovh := ovh, len := flitsOf (24 + bs.length), data := bs }

/-- An entry of the ingress access table lets a source's context take part in collectives (R285, R286). -/
def Say.letsColl (e : Access) (src ctx : Nat) : Prop :=
  e.valid = true ∧ e.src = src ∧ e.sctx = ctx ∧ e.rights.testBit 3 = true

/-- What the engines complete (R217, R227, R228, R233 to R241, R286, R294, R296). The oldest MMA of a core waits while an MMA
of the pair's other core stands before it; otherwise it accumulates into its tile, a paired one's second product into the
next, its flags go to the lanes that issued it, and what waited for it waits no more. A box copy whose
descriptor is in error, by the code that `BoxDesc.error` takes first (log entry 43), sets its tag with ENGERR and moves
nothing; one within the local store, its elements apart, leaves
each destination with its source's bytes and its tag ready. A collective packet that the group does not admit moves
nothing, an admitted one is staged where there is room and waits otherwise, whichever package it comes from (log entries 44
and 77); a staged one waits for its COLL, goes where that has ended or is past, fails it where
the two do not match, and is otherwise passed on, or stored, and counted. A COLL whose conditions hold is complete: after
the release at its scope its record is written and its tag set, with an error of its own where the record faults. -/
def Obligations.EngineEvents : Prop :=
  (∀ (s : State) (core : Nat), ((s.core core).mmaQ = [] → exec (.mmaRetire core) s = .next s) ∧
    (∀ m rest, (s.core core).mmaQ = m :: rest → m.behind ≠ 0 → exec (.mmaRetire core) s = .next s) ∧
    ∀ m rest g, (s.core core).mmaQ = m :: rest → m.behind = 0 → tget m.gid s.groups = some g →
      let c := s.core core
      let r := accumTile m.shape m.a m.b (c.tile m.tile)
      ∃ t, exec (.mmaRetire core) s = .next t ∧ t.mem = s.mem ∧ (t.core core).mmaQ = rest ∧ (t.core core).tile m.tile = r.1 ∧
        (m.b2 = none → (∀ n, n ≠ m.tile → (t.core core).tile n = c.tile n) ∧
          ∀ l, l < g.lanes.length → l < g.W → m.lanes.testBit l = true →
            (t.grp m.gid).lane l = { g.lane l with th := { (g.lane l).th with fpsr := (g.lane l).th.fpsr ||| r.2 } }) ∧
        (∀ b, m.b2 = some b → (t.core core).tile (m.tile + 1) = (accumTile m.shape m.a b (c.tile (m.tile + 1))).1) ∧
        (∀ l, m.lanes.testBit l = false → (t.grp m.gid).lane l = g.lane l) ∧
        (t.core (mateOf core)).mmaQ = (s.core (mateOf core)).mmaQ.map fun x =>
          if m.b2.isSome || x.b2.isSome then { x with behind := x.behind - 1 } else x) ∧
  (∀ (s : State) (team tag : Nat) (op : BceOp) (tm : Team), s.bce.find? (fun b => b.team == team && b.tag == tag) = some op →
    (∀ r ∈ s.remReqs, r.use ≠ .bce team tag) → tget team s.teams = some tm → tm.preq = none → tm.ensemble = none →
    let b := boxOf op.bytes
    (∀ c, b.error 0 = some c → ∃ t, exec (.bceComplete team tag) s = .next t ∧ t.mem = s.mem ∧ (t.team team).lstore = tm.lstore ∧
      (t.team team).tag tag = { ready := true, err := some (.engerr, BitVec.ofNat 64 (op.desc.toNat / 128 * 128 + c)) }) ∧
    ∀ as, b.error 0 = none → op.stage = 0 → op.got = [] → s.sco = [] → b.red = 0 →
      (∀ x ∈ b.els, ∀ va ∈ x.src.toList ++ x.dst, va.toNat / 2 ^ 56 = 0xFF) →
      s.boxAccs (s.bceWho op) b.e false b.els = (as, none) → boxClash b.e as = false →
      ∃ t, exec (.bceComplete team tag) s = .next t ∧ t.mem = s.mem ∧ (t.team team).tag tag = { ready := true } ∧
        (∀ x ∈ t.bce, ¬(x.team = team ∧ x.tag = tag)) ∧
        ∀ a ∈ as, ∀ u off v o, a.src = some (.store u off) → .store v o ∈ a.dst →
          mread (t.team v).lstore o b.e = mread (s.team u).lstore off b.e) ∧
  (∀ (s : State) (src ctx group seq dhash off n : Nat) (ops : List Nat) (ovh : Bool) (bs : List Byte),
    let i : Instr := .collectivePacket src ctx group seq dhash ops off n ovh bs
    (tget group s.collGroups = none → ∃ t, exec i s = .next t ∧ t.mem = s.mem ∧ t.hops = s.hops) ∧
    ∀ g, tget group s.collGroups = some g → ops ≠ [] →
      (src ∉ g.members ∨ (∀ e ∈ s.access, ¬Say.letsColl e.2 src ctx) →
        ∃ t, exec i s = .next t ∧ t.mem = s.mem ∧ t.hops = s.hops ∧ t.collWait = s.collWait) ∧
      (src ∈ g.members → (∃ e ∈ s.access, Say.letsColl e.2 src ctx) →
        let k := Say.chunk src ctx group seq dhash ops off n ovh bs
        (s.collWait = [] → s.stageRoom k = true → exec i s = .next { s with hops := s.hops ++ [k] }) ∧
        (s.collWait ≠ [] ∨ s.stageRoom k = false →
          exec i s = .next { s with collWait := s.collWait ++ [{ peer := src, plane := 0, pool := false, flits := 0, pkt := k }] }))) ∧
  (∀ (s : State) (n : Nat) (k : FPkt), s.hops[n]? = some k → s.bad = [] → let u : State := { s with hops := s.hops.eraseIdx n }
    (tget k.group s.collGroups = none → exec (.collectiveHop n) s = .next u) ∧
    ∀ g, tget k.group s.collGroups = some g →
      (tget k.seq g.ops = none → seqPast g.next k.seq = false → exec (.collectiveHop n) s = .next s) ∧
      (tget k.seq g.ops = none → seqPast g.next k.seq = true → exec (.collectiveHop n) s = .next u) ∧
      ∀ op e rest, tget k.seq g.ops = some op → (op.fail ≠ none → exec (.collectiveHop n) s = .next u) ∧
        (op.fail = none → k.ops = e :: rest →
          let bs := op.bytes
          let fits : Prop := k.dhash = dhashOf bs ∧ e / 2 ^ 12 % 8 = cType bs
          (¬fits → ∃ t h, exec (.collectiveHop n) s = .next t ∧ t.mem = s.mem ∧ tget k.group t.collGroups = some h ∧
            tget k.seq h.ops = some { op with fail := some (.collmism, op.desc) }) ∧
          (fits → e / 2 ^ 8 % 8 = 0 → e.testBit 15 = false → e.testBit 11 = false → k.offset % cChunk bs = 0 →
            k.offset < cTotal bs → k.nbytes = min (cChunk bs) (cTotal bs - k.offset) → k.data.length = k.nbytes →
            k.resv = 0 → k.len = flitsOf (24 + k.nbytes) → (rest = [] → e % 128 = 0) →
            (rest ≠ [] → ∃ t h o, exec (.collectiveHop n) s = .next t ∧ t.mem = s.mem ∧ tget k.group t.collGroups = some h ∧
              tget k.seq h.ops = some o ∧ tgetD o.got (k.offset / cChunk bs) 0 = tgetD op.got (k.offset / cChunk bs) 0 + 1) ∧
            ∀ v, rest = [] → u.feWrite (u.collWho op) (cDstb bs + k.offset) k.data false = .ok (false, v) →
              ∃ t, exec (.collectiveHop n) s = .next t ∧ t.mem = v.mem))) ∧
  ∀ (s : State) (team tag : Nat) (op : CollOp), s.collOf team tag = some op →
    (s.collReady op = false → exec (.collComplete team tag) s = .next s) ∧ (s.bad = [] →
    let w := if op.fail.isNone && s.collScope op (cCtrl op.bytes / 2 ^ 12 % 8) then s.scoRelease (clusterOf op.core) else s
    let out := w.feWrite (w.collWho op) (cCrec op.bytes) (collRecord op (op.fail.map fun f => f.1) s.tick) true
    ∀ tm, s.collReady op = true → tget team s.teams = some tm →
      (cCrec op.bytes % 16 ≠ 0 → ∃ t, exec (.collComplete team tag) s = .next t ∧ t.mem = w.mem ∧
        (t.team team).tag tag = { ready := true, err := op.fail }) ∧
      (∀ u, cCrec op.bytes % 16 = 0 → out = .ok (false, u) → ∃ t, exec (.collComplete team tag) s = .next t ∧ t.mem = u.mem ∧
        (t.team team).tag tag = { ready := true, err := op.fail }) ∧
      ∀ c, cCrec op.bytes % 16 = 0 → out = .error c → ∃ t, exec (.collComplete team tag) s = .next t ∧ t.mem = w.mem ∧
        (t.team team).tag tag =
          { ready := true, err := some (op.fail.getD (.engerr, BitVec.ofNat 64 (op.desc.toNat / 128 * 128 + engCode c))) })

/-- Contexts, queues and slots (R243 to R250, R276). A context takes the lowest free number over dies that share one binding,
and a call out of range has no effect (log entry 34); a
queue is registered IDLE by the context that owns its number, one in use staying as it is, and a descriptor that cannot be
read is one in error (log entries 34 and 35); a queue with packets wakes READY; of the READY queues the
highest class, and within it the longest waiting, takes the lowest free slot, where its descriptor is valid; with no slot
free a deadline queue drives another queue out, unless a slot is being given up for it already; a quantum
that has run out gives the slot up only to a queue of its class or higher, and an empty queue goes IDLE. -/
def Obligations.QueueEvents : Prop :=
  (∀ (s : State) (root domTab dies ctrLo ctrN qLo qN : Nat),
    let i : Instr := .contextCreate root domTab dies ctrLo ctrN qLo qN
    let n := tfree 0 s.ctxs
    (dies = 0 ∨ 16 ≤ dies ∨ 4096 < ctrLo + ctrN ∨ 16384 < qLo + qN ∨ 4096 ≤ n ∨ s.recovery ≠ none → exec i s = .next s) ∧
    ∀ vh, 0 < dies → dies < 16 → ctrLo + ctrN ≤ 4096 → qLo + qN ≤ 16384 → n < 4096 → s.recovery = none →
      (∀ d, d < 4 → dies.testBit d = true → tget d s.binds = some vh ∧ d ∉ s.unbinding) →
      ∃ t, exec i s = .next t ∧ (tsorted s.ctxs = true → tget n s.ctxs = none ∧ ∀ c, c < n → tget c s.ctxs ≠ none) ∧ t.ctx n =
        { root := root, domTab := domTab, dies := dies, ctrLo := ctrLo, ctrN := ctrN, qLo := qLo, qN := qN } ∧
        ∀ c, c ≠ n → t.ctx c = s.ctx c) ∧
  (∀ (s : State) (ctx q addr : Nat), let c := s.ctx ctx
    let st := (s.queue q).state
    (q < c.qLo ∨ c.qLo + c.qN ≤ q ∨ addr % 64 ≠ 0 ∨ st = .mapped ∨ st = .ready → exec (.queueRegister ctx q addr) s = .next s) ∧
    (tget ctx s.ctxs ≠ none → c.qLo ≤ q → q < c.qLo + c.qN → addr % 64 = 0 → st = .idle ∨ st = .error →
      ∃ t, exec (.queueRegister ctx q addr) s = .next t ∧ t.queue q = { ctx := ctx, addr := addr } ∧
        ∀ n, n ≠ q → t.queue n = s.queue n)) ∧
  (∀ (s u : State) (q : Nat), tget q s.queues ≠ none →
    ((s.queue q).state ≠ .idle → exec (.queueWake q) s = .next s) ∧
    ((s.queue q).state = .idle → s.qdesc q = (none, u) → ∃ t, exec (.queueWake q) s = .next t ∧ (t.queue q).state = .error) ∧
    ∀ d, (s.queue q).state = .idle → s.qdesc q = (some d, u) → (d.widx = d.ridx → exec (.queueWake q) s = .next u) ∧
      (d.widx ≠ d.ridx → ∃ t, exec (.queueWake q) s = .next t ∧ (t.queue q).state = .ready ∧ (t.queue q).since = s.tick)) ∧
  (∀ (s : State), ((∀ e ∈ s.queues, e.2.state ≠ .ready) → exec .slotGrant s = .next s) ∧
    ∀ q x, s.bestReady = some (q, x) →
      x.state = .ready ∧ (∀ e ∈ s.queues, e.2.state = .ready → x.cls < e.2.cls ∨ x.cls = e.2.cls ∧ x.since ≤ e.2.since) ∧
      (∀ i d u, s.freeHwSlot = some i → s.qdesc q = (some d, u) → u.descValid q d = true →
        ∃ t, exec .slotGrant s = .next t ∧ (t.queue q).state = .mapped ∧ (t.queue q).slot = some i ∧ tget i t.slots = some q ∧
          (t.queue q).quant = (if d.quant = 0 then 1000 else d.quant)) ∧
      (∀ i d u, s.freeHwSlot = some i → s.qdesc q = (some d, u) → u.descValid q d = false →
        ∃ t, exec .slotGrant s = .next t ∧ (t.queue q).state = .error) ∧
      (s.freeHwSlot = none → s.wants 0 = false → exec .slotGrant s = .next s) ∧
      ∀ v, s.freeHwSlot = none → s.wants 0 = true → s.victim = some v → (∀ e ∈ s.grids, e.2.queue ≠ v) →
        ∃ t, exec .slotGrant s = .next t ∧ (t.queue v).state = .ready ∧ (t.queue v).slot = none ∧ (t.queue v).since = s.tick) ∧
  (∀ (s : State) (q : Nat), let x := s.queue q
    (x.state ≠ .mapped ∨ x.cls = 0 ∨ s.tick < x.since + 1050 * s.effQuant q ∨ s.freeHwSlot ≠ none ∨
        (∀ e ∈ s.queues, e.2.state = .ready → x.cls < e.2.cls) → exec (.quantumExpiry q) s = .next s) ∧
    (x.state = .mapped → x.cls ≠ 0 → x.since + 1050 * s.effQuant q ≤ s.tick → s.freeHwSlot = none →
      s.wants x.cls = true → (∀ e ∈ s.grids, e.2.queue ≠ q) →
      ∃ t, exec (.quantumExpiry q) s = .next t ∧ (t.queue q).state = .ready ∧ (t.queue q).slot = none ∧
        (t.queue q).since = s.tick ∧ ∀ e ∈ t.slots, e.2 ≠ q)) ∧
  ∀ (s u : State) (q : Nat) (d : QDesc),
    ((s.queue q).state ≠ .mapped ∨ (∃ e ∈ s.grids, e.2.queue = q ∧ e.2.armed = false) → exec (.queueUnmap q) s = .next s) ∧
    ((s.queue q).state = .mapped → (∀ e ∈ s.grids, e.2.queue = q → e.2.armed = true) → s.qdesc q = (some d, u) → d.widx = d.ridx →
      ∃ t, exec (.queueUnmap q) s = .next t ∧ (t.queue q).state = .idle ∧ (t.queue q).slot = none ∧ ∀ e ∈ t.slots, e.2 ≠ q)

/-- Launches, teams and deadlines (R22, R27, R245 to R248, R252 to R260, R274, R275, R345). A queue's packet that passes the
checks becomes a grid with nothing placed; one that does not is answered with a REJECTED record that names the lowest
reason. A plain grid's next team takes the next index, age and tids on a core that its kernel may use. From its
deadline less the whole microseconds of YLIM, rounded up, and 4 µs more, a launch asks its teams to leave, and not before;
from the deadline less 2 µs they are stopped, and it is over once their accesses are
complete (log entry 21), with a record of kind 4 whose CORE and VAL are free (log entry 55). How cores are reserved, what a
swap leaves, and the order of launches are log entries 35, 30 and 68. A team whose end has
come leaves nothing behind. A counter's decrement, in order, launches its packet at zero. A partition is swapped out once
every team of it is saved and no deadline launch bars it. -/
def Obligations.LaunchEvents : Prop :=
  (∀ (s u v : State) (q : Nat) (d : QDesc) (bs : List Byte),
    ((s.queue q).state ≠ .mapped → exec (.packetTake q) s = .next s) ∧
    ((s.queue q).state = .mapped → s.qdesc q = (some d, u) → u.descValid q d = true →
      (d.widx = d.ridx → exec (.packetTake q) s = .next u) ∧
      (d.widx ≠ d.ridx → d.cls = 0 → u.reserve q d.nres = none → exec (.packetTake q) s = .next u) ∧
      ∀ u', d.widx ≠ d.ridx → (if d.cls = 0 then u.reserve q d.nres else some u) = some u' →
        u'.cpRead (u'.queue q).ctx (d.ring + 128 * (d.ridx % d.size)) 128 = (some bs, v) →
        let x := u'.queue q
        let p := parsePacket bs
        let z := v.devWrite x.ctx (x.addr + 24) (toBytes 8 (d.ridx + 1))
        let y := z.queue q
        let w := z.walkPrep y.ctx p.signal
        (w.signalPa y.ctx p.signal = none →
          ∃ t, exec (.packetTake q) s = .next t ∧ t.grids = w.grids ∧ (t.queue q).state = .error) ∧
        ∀ pa, w.signalPa y.ctx p.signal = some pa →
          let k := tgetD w.counters p.ctr {}
          let gr : Grid := { ctx := y.ctx, queue := q, cls := y.cls, pkt := p, sigPa := pa, arena := w.newArena y.ctx w.nextGrid p,
                             armed := p.flags.testBit 6, admitted := !p.flags.testBit 6, window := w.tick }
          (∀ r, w.rejects q d p gr = some r → ∃ t, exec (.packetTake q) s = .next t ∧ t.grids = w.grids ∧
            ((∀ n, prange pa ≠ .package n) → mread t.mem pa 2 = [2, BitVec.ofNat 8 r]) ∧
            ∀ n, prange pa = .package n → t.mem = w.mem) ∧
          (w.rejects q d p gr = none → p.flags.testBit 6 = false → ∃ t, exec (.packetTake q) s = .next t ∧
            t.grid w.nextGrid = gr ∧ t.nextGrid = w.nextGrid + 1 ∧ t.mem = w.mem) ∧
          (w.rejects q d p gr = none → p.flags.testBit 6 = true → 0 < k.val + p.cinit → ∃ t, exec (.packetTake q) s = .next t ∧
            t.grid w.nextGrid = gr ∧ t.nextGrid = w.nextGrid + 1 ∧
            tgetD t.counters p.ctr {} = { val := k.val + p.cinit, armed := some w.nextGrid }))) ∧
  (∀ (s : State) (grid : Nat), let gr := s.grid grid
    (s.mayPlace grid = false → exec (.teamPlacement grid) s = .next s) ∧
    (s.mayPlace grid = true → (∀ t ∈ gr.teams, (s.team t).saved = false) →
      (gr.pkt.total ≤ gr.next ∨ s.place grid = none → exec (.teamPlacement grid) s = .next s) ∧
      ∀ t, gr.next < gr.pkt.total → gr.pkt.flags / 2 % 8 = 0 → s.place grid = some t →
        exec (.teamPlacement grid) s = .next t ∧ (t.team s.nextTeam).home ∈ s.sites grid ∧ (t.team s.nextTeam).grid = grid ∧
        (t.team s.nextTeam).tix = gr.next ∧ (t.team s.nextTeam).cap = min gr.pkt.tcap 1024 ∧
        (t.team s.nextTeam).live = upTo gr.pkt.tinit ∧ (t.team s.nextTeam).ts = s.nextTs ∧ t.nextTs = s.nextTs + 1 ∧
        (t.grid grid).next = gr.next + 1 ∧ (t.grid grid).teams = gr.teams ++ [s.nextTeam])) ∧
  (∀ (s : State) (grid : Nat) (gr : Grid), tget grid s.grids = some gr →
    (gr.pkt.flags.testBit 5 = false → exec (.deadlinePreq grid) s = .next s ∧ exec (.deadlineForced grid) s = .next s) ∧
    (gr.pkt.flags.testBit 5 = true →
      (let ylim := (s.ctx gr.ctx).ylim.toNat
       let lead := 1050 * ((ylim + 1049) / 1050 + 4)
       (s.tick + lead < gr.pkt.deadline → exec (.deadlinePreq grid) s = .next s) ∧
       (gr.pkt.deadline ≤ s.tick + lead → ∃ t, exec (.deadlinePreq grid) s = .next t ∧ t = { s with teams := t.teams } ∧
        ∀ x ∈ gr.teams, tget x s.teams ≠ none → ∃ p, (t.team x).preq = some p ∧ p.deadline = true ∧
          ((s.team x).preq = none → p.until_ = s.tick + ylim))) ∧
      (s.tick + 2100 < gr.pkt.deadline → exec (.deadlineForced grid) s = .next s) ∧
      (gr.pkt.deadline ≤ s.tick + 2100 → (∃ b ∈ s.bce, b.team ∈ gr.teams) → ∃ t, exec (.deadlineForced grid) s = .next t ∧
        ∀ x ∈ gr.teams, tget x s.teams ≠ none → (t.team x).stopped = true) ∧
      (gr.pkt.deadline ≤ s.tick + 2100 → gr.fate = none → gr.teams = [] → ∃ t, exec (.deadlineForced grid) s = .next t ∧
        tget grid t.grids = none ∧ ((∀ n, prange gr.sigPa ≠ .package n) → mread t.mem gr.sigPa 1 = [4]) ∧
        (s.queueRoom 4 = true → t.evq = s.evq ++ [{ kind := 4, cause := 0x1D, core := (Config.freeWord (s.fresh + 1)).toNat % 65536, val := Config.freeWord s.fresh,
                                                    ctx := gr.ctx, seq := s.nextSeq % 2 ^ 32 }])))) ∧
  (∀ (s : State) (team : Nat), let tm := s.team team
    (tm.ending = false ∨ s.recsOf team = true ∨ (∃ b ∈ s.bce, b.team = team) → exec (.teamEnd team) s = .next s) ∧
    (tm.ending = true → s.recsOf team = false → (∀ b ∈ s.bce, b.team ≠ team) →
      (∀ g ∈ s.collGroups, ∀ o ∈ tvals g.2.ops, o.team ≠ team) → (∀ m ∈ (s.core tm.tileCore).mmaQ, m.team ≠ team) →
      ∃ t, exec (.teamEnd team) s = .next t ∧ tget team t.teams = none ∧ (∀ h ∈ t.holds, h.team ≠ team) ∧
        (∀ e ∈ t.groups, e.2.team ≠ team) ∧ (t.core tm.tileCore).owner ≠ .team team)) ∧
  (∀ (s : State), (s.decs = [] → exec .counterDecrement s = .next s) ∧
    ∀ c rest, s.decs = c :: rest → let k := tgetD s.counters c {}
      (-(2 : Int) ^ 31 < k.val) →
      (k.armed = none → ∃ t, exec .counterDecrement s = .next t ∧ t.decs = rest ∧ tgetD t.counters c {} = { k with val := k.val - 1 } ∧
        t.grids = s.grids) ∧
      ∀ g gr, k.armed = some g → tget g s.grids = some gr →
        (1 < k.val → ∃ t, exec .counterDecrement s = .next t ∧ t.grids = s.grids ∧ (tgetD t.counters c {}).val = k.val - 1) ∧
        (k.val = 1 → ∃ t, exec .counterDecrement s = .next t ∧ t.grid g = { gr with armed := false, admitted := true } ∧
          tgetD t.counters c {} = { val := 0, armed := none })) ∧
  (∀ (s : State) (ctx : Nat) (c : Ctx), tget ctx s.ctxs = some c →
    ∃ t, exec (.linkShareWindow ctx) s = .next t ∧ t = { s with ctxs := t.ctxs } ∧
      let w := s.tick / 1050
      t.ctx ctx = if w = c.sentWin then c
        else { c with sentLast := (if w = c.sentWin + 1 then c.sentNow else 0), sentNow := 0, sentWin := w }) ∧
  ∀ (s : State) (part : Nat),
    ((∃ t ∈ s.partTeams part, (s.team t).saved = false) ∨ s.swapBarred part = true → exec (.partitionSwap part) s = .next s) ∧
    ((∀ t ∈ s.partTeams part, (s.team t).saved = true) → s.swapBarred part = false →
      ∃ t, exec (.partitionSwap part) s = .next t ∧ t.mem = s.mem ∧ tgetD t.saveTime part 0 ≤ 80 ∧
        ∀ c x, tget c s.ctxs = some x → t.ctx c = if s.inPart x part then { x with swapped := true } else x) ∧
    ∃ t, exec (.partitionRestore part) s = .next t ∧
      ∀ c x, tget c s.ctxs = some x → t.ctx c = if s.inPart x part then { x with swapped := false } else x

/-! ### Events: the link, the host and the system -/

/-- An entry of the ingress access table lets a source's context have a right on a range (R285, R286). -/
def Say.lets (e : Access) (src ctx right lo hi : Nat) : Prop :=
  e.valid = true ∧ e.src = src ∧ e.sctx = ctx ∧ e.rights.testBit right = true ∧ e.base ≤ lo ∧ hi ≤ e.limit
/-- A session of the management port stands under a key of the operator (R305). -/
def Say.covered (s : State) (via : Nat × Nat) : Prop :=
  s.recovery = none ∧ tget via.1 s.sessions = some via.2 ∧ via.2 ∈ s.opKeys
/-- No two outstanding requests share a tag (R289). -/
def Say.tagsApart (s : State) : Prop := ∀ r ∈ s.remReqs, ∀ r' ∈ s.remReqs, r.rtag = r'.rtag → r = r'
/-- A response of a kind, with a request's tag and a status, is on its way to a package. -/
def Say.answers (t : State) (q kind rtag st : Nat) : Prop :=
  ∃ k ∈ (t.peer q).wait ++ (t.peer q).buf.map (fun b => b.pkt), k.type = kind + 3 ∧ k.tc = 1 ∧ k.rtag = rtag ∧ k.status = st

/-- The Joden link (R279, R282, R283, R285 to R291, R297). A packet out of its turn is discarded, one that fails a check
only counts as an error, and one that passes them is accepted and the next RSN expected. The 64th resend without an
acknowledgement declares the peer reset and ends every request to it. A link comes up with the peer's incarnation and its
RSNs from zero. A key goes to the idle bank, and its confirmation turns to it. A peer's request that the table does not
admit changes no byte, an admitted write the bytes that its mask names, and each is answered; its WAITA is watched here
until its value comes (R20). In recovery mode none of this happens (R302). A response goes to the
request of its tag. Table entries and groups are registered where they are valid, and one that is not leaves the table as it
is (log entry 29). The header's acknowledgement bits are
the model's own (log entry 25), as are the test of a packet's tag by its key, its counter and its bytes as sent (log entry
27), the anchor from which a peer's WAITA reads (log entry 15), the error count of a packet from a peer declared reset, and
status 2 of an atomic that is not aligned (log entry 76). -/
def Obligations.LinkEvents : Prop :=
  (∀ (s : State) (src plane hdr : Nat) (body : List Byte) (key ctr : Nat) (intact : Bool),
    let q := src % 128
    let pl := plane % 128
    let h := parseHdr hdr
    let p := s.peer q
    let i : Instr := .packetReceive src plane hdr body key ctr intact
    (p.up = false ∨ s.recovery ≠ none → exec i s = .next s) ∧
    (p.up = true → s.recovery = none → tgetD p.rxRsn pl 0 ≠ h.rsn → ∃ t, exec i s = .next t ∧ t.mem = s.mem ∧ t.hops = s.hops ∧
      t.remReqs = s.remReqs ∧ (t.peer q).rxRsn = p.rxRsn ∧ (t.peer q).errors = p.errors) ∧
    (p.up = true → s.recovery = none → tgetD p.rxRsn pl 0 = h.rsn →
      (intact = false ∨ p.reset = true ∨ h.inc ≠ p.inc ∨ tget h.kg p.rx = none ∨ 7 < h.type ∨ 3 < h.tc ∨ h.len = 0 ∨ 18 < h.len ∨
          h.len < flitsOf body.length ∨ 8 < h.opn ∨ (h.opn ≠ 0 ∧ h.type ≠ 6) ∨
          (∃ b, tget h.kg p.rx = some b ∧ (b.key ≠ key ∨ tgetD b.ctr pl 0 ≠ ctr)) →
        ∃ t, exec i s = .next t ∧ t.mem = s.mem ∧ t.hops = s.hops ∧ t.remReqs = s.remReqs ∧
          t.collWait = s.collWait ∧ (t.peer q).rxRsn = p.rxRsn ∧ (t.peer q).errors = p.errors + 1) ∧
      ∀ b, tget h.kg p.rx = some b → b.key = key → tgetD b.ctr pl 0 = ctr → intact = true → p.reset = false → h.inc = p.inc → h.type ≤ 7 → h.tc ≤ 3 →
        1 ≤ h.len → h.len ≤ 18 → flitsOf body.length ≤ h.len → h.opn ≤ 8 → (h.opn = 0 ∨ h.type = 6) →
        ∃ t c, exec i s = .next t ∧ tgetD (t.peer q).rxRsn pl 0 = (h.rsn + 1) % 65536 ∧ (t.peer q).errors = p.errors ∧
          tget h.kg (t.peer q).rx = some c ∧ c.key = key ∧ tgetD c.ctr pl 0 = ctr + 1 ∧
          (h.type = 7 → t.mem = s.mem ∧ t.hops = s.hops ∧ t.remReqs = s.remReqs))) ∧
  (∀ (s : State) (peer plane : Nat), let p := s.peer peer
    let n := tgetD p.retries plane 0 + 1
    ((∀ b ∈ p.buf, b.plane ≠ plane) → exec (.retryResend peer plane) s = .next s) ∧
    ((∃ b ∈ p.buf, b.plane = plane) →
      (n < 64 → exec (.retryResend peer plane) s = .next (s.setPeer peer { p with retries := tset plane n p.retries })) ∧
      (64 ≤ n → ∃ t, exec (.retryResend peer plane) s = .next t ∧ t.mem = s.mem ∧ (t.peer peer).reset = true ∧
        (t.peer peer).buf = [] ∧ (t.peer peer).wait = [] ∧ (Say.tagsApart s → ∀ r ∈ t.remReqs, r.peer ≠ peer)))) ∧
  (∀ (s : State) (peer inc : Nat), let q := peer % 128
    let p := s.peer q
    (q = s.position ∨ s.recovery ≠ none → exec (.linkBringUp peer inc) s = .next s) ∧
    (q ≠ s.position → s.recovery = none → ∃ t, exec (.linkBringUp peer inc) s = .next t ∧ t.mem = s.mem ∧
      (t.peer q).up = true ∧ (t.peer q).inc = inc % 256 ∧ (t.peer q).reset = false ∧ (t.peer q).rxRsn = [] ∧
      (p.up = true → p.inc ≠ inc % 256 → Say.tagsApart s → ∀ r ∈ t.remReqs, r.peer ≠ q) ∧
      (p.up = false ∨ p.inc = inc % 256 → t.remReqs = s.remReqs ∧ (p.wait = [] → p.buf = [] → (t.peer q).txRsn = [])))) ∧
  (∀ (s : State) (peer dir key : Nat), let q := peer % 128
    let p := s.peer q
    (s.recovery ≠ none → exec (.keyLoad peer dir key) s = .next s ∧ exec (.keyConfirm peer) s = .next s) ∧
    (dir = 0 → (∃ b ∈ p.buf, b.bank = 1 - p.kg) → exec (.keyLoad peer dir key) s = .next s) ∧
    (s.recovery = none → dir = 0 → (∀ b ∈ p.buf, b.bank ≠ 1 - p.kg) → ∃ t, exec (.keyLoad peer dir key) s = .next t ∧ t = { s with peers := t.peers } ∧
      t.peer q = { p with tx := (t.peer q).tx, unconfirmed := true } ∧ tget (1 - p.kg) (t.peer q).tx = some { key := key } ∧
      ∀ n, n ≠ 1 - p.kg → tget n (t.peer q).tx = tget n p.tx) ∧
    (s.recovery = none → dir ≠ 0 → ∃ t, exec (.keyLoad peer dir key) s = .next t ∧ t = { s with peers := t.peers } ∧
      t.peer q = { p with rx := (t.peer q).rx } ∧ tget (1 - p.rkg) (t.peer q).rx = some { key := key } ∧
      ∀ n, n ≠ 1 - p.rkg → tget n (t.peer q).rx = tget n p.rx) ∧
    (p.unconfirmed = false → exec (.keyConfirm peer) s = .next s) ∧
    (s.recovery = none → p.unconfirmed = true → ∃ t, exec (.keyConfirm peer) s = .next t ∧ t.mem = s.mem ∧ (t.peer q).kg = 1 - p.kg ∧
      (t.peer q).unconfirmed = false)) ∧
  (∀ (s : State) (src ctx kind addr len rtag op : Nat) (payload : List Byte) (mask : Nat), let q := src % 128
    let i : Instr := .remoteRequest src ctx kind addr len rtag op payload mask
    let lo := if kind = 2 then addr else addr + (bitsSet mask 256).headD 0
    let hi := if kind = 2 then addr + len else addr + (bitsSet mask 256).getLastD 0 + 1
    let plain : Prop := kind < 3 ∧ s.recovery = none ∧ isWait kind op payload = false
    (3 ≤ kind ∨ s.recovery ≠ none → exec i s = .next s) ∧
    (s.recovery = none → isWait kind op payload = true → s.bad = [] →
      ((∀ e ∈ s.access, ¬Say.lets e.2 q ctx 0 lo (lo + 8)) →
        ∃ t, exec i s = .next t ∧ t.mem = s.mem ∧ t.monitors = s.monitors ∧ Say.answers t q 0 rtag 1) ∧
      ((∃ e ∈ s.access, Say.lets e.2 q ctx 0 lo (lo + 8)) → prange lo = .hbm → prange (lo + 7) = .hbm →
        tget (lineOf lo) s.coh.dir = none → (∀ x ∈ s.sco, x.line ≠ lineOf lo) →
        let m : Monitor := { gid := 0, lane := 0, place := .phys lo, va := 0, ne := op == 2, cmp := BitVec.ofNat 64 (ofBytes (payload.take 8)),
                             key := .none, fired := none, peer := some (q, rtag, ctx) }
        let vals := s.peerVals q (ofBytes ((payload.drop 8).take 4) - 1) lo
        ((∀ x ∈ vals, m.lets x = false) → ∃ t, exec i s = .next t ∧ t.mem = s.mem ∧ t.monitors = s.monitors ++ [m]) ∧
        ((∃ x ∈ vals, m.lets x = true) → ∃ t, exec i s = .next t ∧ t.mem = s.mem ∧ t.monitors = s.monitors ∧
          Say.answers t q 0 rtag 0))) ∧
    (plain → (∀ e ∈ s.access, ¬Say.lets e.2 q ctx kind lo hi) →
      ∃ t, exec i s = .next t ∧ t.mem = s.mem ∧ Say.answers t q kind rtag 1) ∧
    (plain → s.bad = [] → (∃ e ∈ s.access, Say.lets e.2 q ctx kind lo hi) → prange lo = .hbm → prange (hi - 1) = .hbm →
      (∀ l, lineOf addr ≤ l → l ≤ lineOf (addr + 255) → tget l s.coh.dir = none) →
      (kind = 0 → ∃ t, exec i s = .next t ∧ t.mem = s.mem ∧ Say.answers t q 0 rtag 0) ∧
      (kind = 1 → ∃ t, exec i s = .next t ∧ Say.answers t q 1 rtag 0 ∧
        (∀ n, n < 256 → mask.testBit n = true → mget (addr + n) t.mem = payload.getD n 0) ∧
        ∀ a, (∀ n, n < 256 → mask.testBit n = true → a ≠ addr + n) → mget a t.mem = mget a s.mem) ∧
      (kind = 2 → addr % (aopOf op).size ≠ 0 → ∃ t, exec i s = .next t ∧ t.mem = s.mem ∧ Say.answers t q 2 rtag 2) ∧
      (kind = 2 → addr % (aopOf op).size = 0 → (∀ x ∈ s.sco, x.line ≠ lineOf addr) →
        ∃ t, exec i s = .next t ∧ Say.answers t q 2 rtag 0 ∧
        ∀ a, a < addr ∨ addr + (aopOf op).size ≤ a → mget a t.mem = mget a s.mem))) ∧
  (∀ (s : State) (rtag status : Nat) (payload : List Byte),
    let st := if status ≤ 3 then status else 2
    ((∀ r ∈ s.remReqs, r.rtag ≠ rtag) → exec (.remoteResponse rtag status payload) s = .next s) ∧
    ∀ r g, r ∈ s.remReqs → (∀ r' ∈ s.remReqs, r'.rtag = rtag → r' = r) → r.rtag = rtag → r.use = .lanes →
      tget r.gid s.groups = some g →
      ∃ t, exec (.remoteResponse rtag status payload) s = .next t ∧
        t = { s with groups := t.groups, remReqs := s.remReqs.erase r } ∧
        (let got := r.parts.map fun p => (p.1, st, ofBytes ((payload.drop p.2.1).take p.2.2.1) * 2 ^ (8 * p.2.2.2))
         t.grp r.gid = { g with remote := g.remote ++ got }) ∧
        ∀ n, n ≠ r.gid → tget n t.groups = tget n s.groups) ∧
  (∀ (s : State) (idx base limit word2 : Nat),
    let e : Access := { base := base, limit := limit, src := word2 % 2 ^ 7, valid := word2.testBit 7, rights := word2 / 2 ^ 8 % 2 ^ 8,
                        sctx := word2 / 2 ^ 16 % 2 ^ 16 }
    (4096 ≤ idx ∨ s.recovery ≠ none → exec (.accessTableWrite idx base limit word2) s = .next s) ∧
    (word2.testBit 7 = true → base % 4096 ≠ 0 ∨ limit % 4096 ≠ 0 ∨ limit ≤ base →
      exec (.accessTableWrite idx base limit word2) s = .next s) ∧
    (s.recovery = none → idx < 4096 → base % 4096 = 0 → limit % 4096 = 0 → base < limit → limit < 2 ^ 64 → e.rights < 16 → e.sctx < 4096 → word2 < 2 ^ 32 →
      ∃ t, exec (.accessTableWrite idx base limit word2) s = .next t ∧ t = { s with access := t.access } ∧
        tget idx t.access = some e ∧ ∀ n, n ≠ idx → tget n t.access = tget n s.access)) ∧
  ∀ (s : State) (group ctx staging : Nat) (members : List Nat), let i : Instr := .collectiveGroupRegister group ctx members staging
    (s.recovery ≠ none ∨ 65536 ≤ group ∨ tget ctx s.ctxs = none ∨ members.length < 2 ∨ s.position ∉ members ∨ (∃ m ∈ members, 128 ≤ m) ∨ ¬members.Nodup →
      exec i s = .next s) ∧
    (s.recovery = none → group < 65536 → tget ctx s.ctxs ≠ none → 2 ≤ members.length → members.Nodup → (∀ m ∈ members, m < 128) → s.position ∈ members →
      tget group s.collGroups = none → s.collGroups.length < 1024 →
      ∃ t, exec i s = .next t ∧ t = { s with collGroups := t.collGroups } ∧
        tget group t.collGroups = some { ctx := ctx, members := members, staging := staging } ∧
        ∀ n, n ≠ group → tget n t.collGroups = tget n s.collGroups)

/-- Errors, host, boot, management, heat and snapshots (R15, R16, R277, R295, R299 to R308). The oldest buffered record
goes to the queue as room comes; an uncorrectable error marks its line, and stops its die where no record of it can be
stored; corrected errors are counted. The host reads and writes the HBM of a bound die and no other; a binding ends once
no context of the die is resident. A reset starts again from the verified stages and stays in recovery at the one that
failed. The management port does nothing that no session under an operator's key covers. A temperature holds and stops
issue, until every sensor is below the threshold, and each crossing is reported (log entry 33). A trigger is captured once
armed, and missed otherwise. What a reset keeps, and the numbers of the management kinds, are the model's (log
entries 31 and 32), as are the way a stage is extended into its register (log entry 49) and the capture of every block at
one step (log entry 50). -/
def Obligations.SystemEvents : Prop :=
  (∀ (s : State) (die : Nat), (∀ x ∈ s.stopped, x.1 ≠ die) →
    (s.fbufOf die = [] → exec (.faultBufferDrain die) s = .next s) ∧
    ∀ r rest, s.fbufOf die = r :: rest →
      (Config.eventQueueSize ≤ s.evq.length → exec (.faultBufferDrain die) s = .next s) ∧
      (s.evq.length < Config.eventQueueSize → ∃ t, exec (.faultBufferDrain die) s = .next t ∧
        t = { s with evq := s.evq ++ [r], fbuf := t.fbuf } ∧ t.fbufOf die = rest)) ∧
  (∀ (s : State) (core pa : Nat), let r : EvRec := { kind := 2, core := core, val := BitVec.ofNat 64 pa }
    ∃ t, exec (.uncorrectableError core pa) s = .next t ∧ t.mem = s.mem ∧ lineOf pa ∈ t.bad ∧ (∀ l, l ∈ t.bad → l ∈ s.bad ∨ l = lineOf pa) ∧
      (s.canPost (dieOf core) 2 = false → t.evq = s.evq ∧ t.stopped = s.stopped ++ [(dieOf core, r)]) ∧
      (s.queueRoom (dieOf core) = true → t.stopped = s.stopped ∧ t.evq = s.evq ++ [{ r with seq := s.nextSeq % 2 ^ 32 }])) ∧
  (∀ (s : State) (core pa : Nat), let n := tgetD s.corrected core 0 + 1
    ∃ t, exec (.correctedError core pa) s = .next t ∧ t.mem = s.mem ∧
      (s.canPost (dieOf core) 1 = false → t = { s with corrected := t.corrected } ∧ tgetD t.corrected core 0 = n) ∧
      (s.queueRoom (dieOf core) = true → tgetD t.corrected core 0 = 0 ∧ t.evq = s.evq ++
        [{ kind := 1, core := core, val := BitVec.ofNat 64 pa, count := min n 65535, seq := s.nextSeq % 2 ^ 32 }])) ∧
  (∀ (s : State) (die addr len : Nat) (payload : List Byte), let pa := die * 0x3000000000 + addr
    (∀ w, s.recovery ≠ none ∨ 4 ≤ die ∨ tget die s.binds = none → exec (.hostMemAccess die addr w len payload) s = .next s) ∧
    (s.recovery = none → die < 4 → tget die s.binds ≠ none →
      (payload ≠ [] → addr + payload.length ≤ 0x3000000000 → ∃ t, exec (.hostMemAccess die addr true len payload) s = .next t ∧
        mread t.mem pa payload.length = payload ∧ t.replies = s.replies ∧
        ((∀ l ∈ linesOf pa payload.length, tget l s.coh.dir = none) →
          ∀ a, a < pa ∨ pa + payload.length ≤ a → mget a t.mem = mget a s.mem)) ∧
      (0 < len → addr + len ≤ 0x3000000000 →
        ((∃ l ∈ linesOf pa len, l ∈ s.bad) → exec (.hostMemAccess die addr false len payload) s = .next s) ∧
        ((∀ l ∈ linesOf pa len, l ∉ s.bad) → (∀ l ∈ linesOf pa len, tget l s.coh.dir = none) →
          exec (.hostMemAccess die addr false len payload) s = .next { s with replies := .hostData (mread s.mem pa len) :: s.replies })))) ∧
  (∀ (s : State) (die vh : Nat),
    (s.recovery ≠ none ∨ 4 ≤ die ∨ tget die s.binds ≠ none → exec (.hostBind die vh) s = .next s) ∧
    (s.recovery = none → die < 4 → tget die s.binds = none →
      ∃ t, exec (.hostBind die vh) s = .next t ∧ t = { s with binds := t.binds } ∧ tget die t.binds = some vh ∧
        ∀ d, d ≠ die → tget d t.binds = tget d s.binds) ∧
    (tget die s.binds = none ∨ die ∈ s.unbinding → exec (.hostUnbind die) s = .next s) ∧
    (tget die s.binds ≠ none → die ∉ s.unbinding → ∃ t, exec (.hostUnbind die) s = .next t ∧
      t = { s with binds := t.binds, unbinding := t.unbinding } ∧
      ((∀ c ∈ s.ctxs, c.2.dies.testBit die = true → c.2.swapped = true) → tget die t.binds = none ∧ die ∉ t.unbinding) ∧
      ((∃ c ∈ s.ctxs, c.2.dies.testBit die = true ∧ c.2.swapped = false) → tget die t.binds = tget die s.binds ∧ die ∈ t.unbinding))) ∧
  (∀ (s : State) (cache : Bool), (s.recovery ≠ none → exec (.cxlLinkTraining cache) s = .next s) ∧
    (s.recovery = none → ∃ t, exec (.cxlLinkTraining cache) s = .next t ∧ t = { s with replies := t.replies } ∧
      t.replies = (if cache then [Reply.refused] else []) ++ .value 8 1 :: s.replies)) ∧
  (∀ (s : State) (digests : List (BitVec 256)) (signed : List Bool), digests.length = 5 →
    (signed = [true, true, true, true, true] → ∃ t, exec (.packageReset digests signed) s = .next t ∧ t.recovery = none ∧
      t.inc = (s.inc + 1) % 256 ∧ t.ctxs = [] ∧ t.teams = [] ∧ t.groups = [] ∧ t.meas.getD 0 0 = 0 ∧
      ∀ i, i < 5 → t.meas.getD (i + 1) 0 = sha256Pair 0 (digests.getD i 0)) ∧
    ∀ k rest, k < 5 → signed = List.replicate k true ++ false :: rest →
      ∃ t, exec (.packageReset digests signed) s = .next t ∧ t.recovery = some (k + 1) ∧ t.replies = [.failed (k + 1)]) ∧
  (∀ (s : State) (port nonce : Nat), (s.recovery ≠ none → port ≠ 1 → exec (.getMeasurements port nonce) s = .next s) ∧
    (s.recovery = none ∨ port = 1 → ∃ t sig, exec (.getMeasurements port nonce) s = .next t ∧
      t = { s with replies := .measurements port nonce s.meas sig :: s.replies })) ∧
  (∀ (s : State) (via : Nat × Nat) (kind arg value : Nat), let i : Instr := .managementRequest via kind arg value
    (¬Say.covered s via → s.recovery = none → exec i s = .next { s with replies := .refused :: s.replies }) ∧
    (∀ st, s.recovery = some st → exec i s = .next { s with replies := (if kind = 7 then .failed st else .refused) :: s.replies }) ∧
    (Say.covered s via →
      (kind = 0 → exec i s = exec (.powerLimitWrite { via := via, value := value }) s) ∧
      (kind = 1 → exec i s = .next { s with replies := .value 1 (s.core arg).holds :: s.replies }) ∧
      (kind = 2 → exec i s = exec (.stagingSetting { via := via, value := arg } value) s) ∧
      (kind = 3 → ∃ t, exec i s = .next t ∧ t.snapCtl.src = value / 4 % 4 ∧ t.snapCtl.arm = value.testBit 0 ∧
        (value.testBit 0 = true → t.snap = none ∧ t.snapCtl.frozen = false)) ∧
      (kind = 4 → exec i s = .next { s with replies := .value 4 s.snapCtl.word :: s.replies }) ∧
      (kind = 5 → exec i s =
        .next { s with replies := .snapshot (if s.snapCtl.frozen then s.snap else none) :: s.replies }) ∧
      (kind = 6 → exec i s = exec (.snapshotTrigger (some via)) s) ∧
      (7 ≤ kind → exec i s = .next { s with replies := .refused :: s.replies }))) ∧
  (∀ (s : State) (x : Sealed) (n : Nat),
    (¬Say.covered s x.via → exec (.powerLimitWrite x) s = .next s ∧ exec (.stagingSetting x n) s = .next s) ∧
    (Say.covered s x.via → x.value ≤ 5200 → exec (.powerLimitWrite x) s = .next { s with limit := x.value }) ∧
    (5200 < x.value → exec (.powerLimitWrite x) s = .next s) ∧
    (Say.covered s x.via → x.value < 12 → 1 ≤ n → n ≤ 16 → ∃ t, exec (.stagingSetting x n) s = .next t ∧
      t = { s with staging := t.staging } ∧ tget x.value t.staging = some n) ∧
    (12 ≤ x.value ∨ n = 0 ∨ 16 < n → exec (.stagingSetting x n) s = .next s)) ∧
  (∀ (s : State) (die temp : Nat) (temps : List Nat),
    let say := if heatBand (tgetD s.temps die 0) = heatBand temp then s.replies else .value 9 (die * 1000 + temp) :: s.replies
    (95 < temp → exec (.thermalHold die temp) s = .next
      { s with temps := tset die temp s.temps, hot := true, stop := s.stop || decide (105 ≤ temp), replies := say }) ∧
    (temp ≤ 95 → exec (.thermalHold die temp) s = .next s) ∧
    (105 ≤ temp → exec (.thermalStop die temp) s = .next
      { s with temps := tset die temp s.temps, hot := true, stop := true, replies := say }) ∧
    (temp < 105 → exec (.thermalStop die temp) s = .next s) ∧
    (∃ t, exec (.thermalClear temps) s = .next t ∧
      t = { s with temps := t.temps, hot := t.hot, stop := t.stop, replies := t.replies } ∧
      (temps ≠ [] → tsorted s.temps = true → (∀ e ∈ s.temps, e.1 < temps.length) →
        ((∀ x ∈ temps, x < 92) → t.hot = false) ∧ ((∀ x ∈ temps, x < 95) → t.stop = false)))) ∧
  ∀ (s : State) (via : Option (Nat × Nat)) (bits : Sealed), let c := s.snapCtl
    let src := if via = none then 1 else 0
    let lets : Prop := ∀ v, via = some v → Say.covered s v
    (c.src ≠ src ∨ ¬lets → exec (.snapshotTrigger via) s = .next s) ∧
    (lets → c.src = src → c.arm = true → c.frozen = false → exec (.snapshotTrigger via) s = .next
      { s with snap := some s.toBlocks, snapCtl := { c with arm := false, frozen := true, seq := (c.seq + 1) % 2 ^ 32 } }) ∧
    (lets → c.src = src → c.arm = false ∨ c.frozen = true → exec (.snapshotTrigger via) s = .next
      { s with snapCtl := { c with missed := min 255 (c.missed + 1) } }) ∧
    ((∀ e ∈ s.sessions, ¬Say.covered s e) → exec .snapshotArm s = .next s) ∧
    ((∃ e ∈ s.sessions, Say.covered s e) → exec .snapshotArm s = .next { s with snap := none, snapCtl := { c with arm := true, frozen := false } }) ∧
    (¬Say.covered s bits.via → exec (.snapshotMissedClear bits) s = .next s) ∧
    (Say.covered s bits.via → ∃ t, exec (.snapshotMissedClear bits) s = .next t ∧ t = { s with snapCtl := { c with missed := t.snapCtl.missed } } ∧
      ∀ n, n < 8 → t.snapCtl.missed.testBit n = (c.missed.testBit n && !bits.value.testBit n))
end

