-- ==== Sys2Proof/Laws/Tab.lean ====
section
/-!
SUPPORT. Laws of keyed tables: reading after writing, and the rising order that every operation keeps.
-/
namespace Sys2Proof.Machine

theorem tget_tset_same {α : Type} (k : Nat) (x : α) (t : Tab α) : tget k (tset k x t) = some x := by
  induction t with
  | nil => simp [tset, tget]
  | cons e r ih =>
    obtain ⟨j, y⟩ := e
    by_cases h : j = k
    · simp [tset, tget, h]
    · by_cases h2 : k < j
      · simp [tset, tget, h, h2]
      · simp [tset, tget, h, h2, ih]

theorem tget_tset_other {α : Type} {k n : Nat} (x : α) (t : Tab α) (h : n ≠ k) : tget n (tset k x t) = tget n t := by
  induction t with
  | nil => simp [tset, tget, h.symm]
  | cons e r ih =>
    obtain ⟨j, y⟩ := e
    by_cases hj : j = k
    · subst hj; simp [tset, tget, h.symm]
    · by_cases h2 : k < j
      · simp [tset, tget, hj, h2, h.symm]
      · simp [tset, tget, hj, h2, ih]

theorem tgetD_tset_same {α : Type} (k : Nat) (x d : α) (t : Tab α) : tgetD (tset k x t) k d = x := by
  simp [tgetD, tget_tset_same]

theorem tgetD_tset_other {α : Type} {k n : Nat} (x d : α) (t : Tab α) (h : n ≠ k) : tgetD (tset k x t) n d = tgetD t n d := by
  simp [tgetD, tget_tset_other x t h]

theorem tset_tset {α : Type} (k : Nat) (x y : α) (t : Tab α) : tset k y (tset k x t) = tset k y t := by
  induction t with
  | nil => simp [tset]
  | cons e r ih =>
    obtain ⟨j, z⟩ := e
    by_cases hj : j = k
    · simp [tset, hj]
    · by_cases h2 : k < j
      · simp [tset, hj, h2]
      · simp [tset, hj, h2, ih]

theorem tget_tmod_other {α : Type} {k n : Nat} (f : α → α) (t : Tab α) (h : n ≠ k) : tget n (tmod k f t) = tget n t := by
  induction t with
  | nil => rfl
  | cons e r ih =>
    obtain ⟨j, y⟩ := e
    by_cases hj : j = k
    · subst hj; simp [tmod, tget, h.symm]
    · simp [tmod, tget, hj, ih]

theorem tget_tmod_same {α : Type} (k : Nat) (f : α → α) (t : Tab α) : tget k (tmod k f t) = (tget k t).map f := by
  induction t with
  | nil => rfl
  | cons e r ih =>
    obtain ⟨j, y⟩ := e
    by_cases hj : j = k
    · simp [tmod, tget, hj]
    · simp [tmod, tget, hj, ih]

/-- The first number of a table. -/
def tfirst {α : Type} : Tab α → Option Nat
  | [] => none
  | (j, _) :: _ => some j

theorem tsorted_cons {α : Type} (j : Nat) (x : α) (r : Tab α) :
    tsorted ((j, x) :: r) = true ↔ (∀ k, tfirst r = some k → j < k) ∧ tsorted r = true := by
  cases r with
  | nil => simp [tsorted, tfirst]
  | cons e r => obtain ⟨k, y⟩ := e; simp [tsorted, tfirst]

theorem tfirst_tset {α : Type} (k : Nat) (x : α) (t : Tab α) (n : Nat) (h : tfirst (tset k x t) = some n) :
    n = k ∨ tfirst t = some n := by
  cases t with
  | nil => simp [tset, tfirst] at h; exact .inl h.symm
  | cons e r =>
    obtain ⟨j, y⟩ := e
    simp only [tset] at h
    split at h
    · simp [tfirst] at h; exact .inl h.symm
    · split at h
      · simp [tfirst] at h; exact .inl h.symm
      · simp [tfirst] at h ⊢; exact .inr h

/-- A write keeps the rising order. -/
theorem tsorted_tset {α : Type} (k : Nat) (x : α) (t : Tab α) (h : tsorted t = true) : tsorted (tset k x t) = true := by
  induction t with
  | nil => rfl
  | cons e r ih =>
    obtain ⟨j, y⟩ := e
    rw [tsorted_cons] at h
    simp only [tset]
    split
    · rename_i he
      rw [tsorted_cons]
      simp only [beq_iff_eq] at he
      exact ⟨fun n hn => he ▸ h.1 n hn, h.2⟩
    · rename_i he
      split
      · rename_i hlt
        rw [tsorted_cons, tsorted_cons]
        exact ⟨fun n hn => by simp [tfirst] at hn; omega, h⟩
      · rename_i hge
        rw [tsorted_cons]
        refine ⟨fun n hn => ?_, ih h.2⟩
        simp only [beq_iff_eq] at he
        rcases tfirst_tset k x r n hn with hk | hk
        · omega
        · exact h.1 n hk

end Sys2Proof.Machine
end

