-- ==== Sys2Proof/Laws/Memory.lean ====
section
/-!
SUPPORT. Laws of memory: reading after writing, byte by byte and over ranges, and the canonical form that every write
keeps.
-/
namespace Sys2Proof.Machine

/-- The first address of a memory. -/
def mfirst : List Host.Cell → Option Nat
  | [] => none
  | (a, _) :: _ => some a

theorem memory_wf_cons (a : Nat) (x : Byte) (r : List Host.Cell) :
    Memory.wf ((a, x) :: r) = true ↔ x ≠ 0 ∧ (∀ b, mfirst r = some b → a < b) ∧ Memory.wf r = true := by
  cases r with
  | nil => simp [Memory.wf, mfirst]
  | cons e r => obtain ⟨b, y⟩ := e; simp [Memory.wf, mfirst, and_assoc]

theorem mfirst_mins (a : Nat) (x : Byte) (m : List Host.Cell) (n : Nat) (h : mfirst (mins a x m) = some n) :
    n = a ∨ mfirst m = some n := by
  cases m with
  | nil => simp [mins, mfirst] at h; exact .inl h.symm
  | cons e r =>
    obtain ⟨b, y⟩ := e
    simp only [mins] at h
    split at h
    · simp [mfirst] at h; exact .inl h.symm
    · split at h
      · simp [mfirst] at h; exact .inl h.symm
      · simp [mfirst] at h ⊢; exact .inr h

theorem wf_mins (a : Nat) (x : Byte) (m : List Host.Cell) (hx : x ≠ 0) (h : Memory.wf m = true) :
    Memory.wf (mins a x m) = true := by
  induction m with
  | nil => simpa [mins, Memory.wf] using hx
  | cons e r ih =>
    obtain ⟨b, y⟩ := e
    have h' := h
    rw [memory_wf_cons] at h
    simp only [mins]
    split
    · rename_i he
      simp only [beq_iff_eq] at he
      rw [memory_wf_cons]
      exact ⟨hx, fun n hn => he ▸ h.2.1 n hn, h.2.2⟩
    · rename_i he
      split
      · rename_i hlt
        rw [memory_wf_cons]
        exact ⟨hx, fun n hn => by simp [mfirst] at hn; omega, h'⟩
      · rw [memory_wf_cons]
        refine ⟨h.1, fun n hn => ?_, ih h.2.2⟩
        simp only [beq_iff_eq] at he
        rcases mfirst_mins a x r n hn with hk | hk
        · omega
        · exact h.2.1 n hk

theorem mfirst_filter_lt {m : List Host.Cell} (h : Memory.wf m = true) {b : Nat} (hb : ∀ n, mfirst m = some n → b < n)
    (p : Host.Cell → Bool) : ∀ n, mfirst (m.filter p) = some n → b < n := by
  induction m with
  | nil => intro n hn; simp [mfirst] at hn
  | cons e r ih =>
    obtain ⟨a, x⟩ := e
    rw [memory_wf_cons] at h
    have ha : b < a := hb a rfl
    intro n hn
    simp only [List.filter_cons] at hn
    split at hn
    · simp [mfirst] at hn; omega
    · exact ih h.2.2 (fun k hk => Nat.lt_trans ha (h.2.1 k hk)) n hn

theorem wf_filter (m : List Host.Cell) (p : Host.Cell → Bool) (h : Memory.wf m = true) : Memory.wf (m.filter p) = true := by
  induction m with
  | nil => rfl
  | cons e r ih =>
    obtain ⟨a, x⟩ := e
    rw [memory_wf_cons] at h
    simp only [List.filter_cons]
    split
    · rw [memory_wf_cons]
      exact ⟨h.1, mfirst_filter_lt h.2.2 h.2.1 p, ih h.2.2⟩
    · exact ih h.2.2

/-- A byte written keeps the canonical form. -/
theorem wf_mset (a : Nat) (x : Byte) (m : List Host.Cell) (h : Memory.wf m = true) : Memory.wf (mset a x m) = true := by
  unfold mset
  split
  · exact wf_filter m _ h
  · rename_i hx
    exact wf_mins a x m (by simpa using hx) h

/-- Bytes written keep the canonical form. -/
theorem wf_mwrite (a : Nat) (bs : List Byte) (m : List Host.Cell) (h : Memory.wf m = true) :
    Memory.wf (mwrite a bs m) = true := by
  induction bs generalizing a m with
  | nil => exact h
  | cons x r ih => exact ih _ _ (wf_mset a x m h)

theorem mget_mins_same (a : Nat) (x : Byte) (m : List Host.Cell) : mget a (mins a x m) = x := by
  induction m with
  | nil => simp [mins, mget]
  | cons e r ih =>
    obtain ⟨b, y⟩ := e
    by_cases h : b = a
    · simp [mins, mget, h]
    · by_cases h2 : a < b
      · simp [mins, mget, h, h2]
      · simp [mins, mget, h, h2, ih]

theorem mget_mins_other {a n : Nat} (x : Byte) (m : List Host.Cell) (h : n ≠ a) : mget n (mins a x m) = mget n m := by
  induction m with
  | nil => simp [mins, mget, h.symm]
  | cons e r ih =>
    obtain ⟨b, y⟩ := e
    by_cases hb : b = a
    · subst hb; simp [mins, mget, h.symm]
    · by_cases h2 : a < b
      · simp [mins, mget, hb, h2, h.symm]
      · simp [mins, mget, hb, h2, ih]

theorem mget_filter_same (a : Nat) (m : List Host.Cell) : mget a (m.filter fun c => c.1 != a) = 0 := by
  induction m with
  | nil => rfl
  | cons e r ih =>
    obtain ⟨b, y⟩ := e
    by_cases h : b = a
    · simp [h]; simpa using ih
    · simp [h, mget]; simpa using ih

theorem mget_filter_other {a n : Nat} (m : List Host.Cell) (h : n ≠ a) : mget n (m.filter fun c => c.1 != a) = mget n m := by
  induction m with
  | nil => rfl
  | cons e r ih =>
    obtain ⟨b, y⟩ := e
    by_cases hb : b = a
    · subst hb; simp [mget, h.symm]; simpa using ih
    · simp [mget, hb]; rw [show (List.filter (fun c : Host.Cell => c.1 != a) r) = r.filter fun c => c.1 != a from rfl, ih]

/-- Reading a byte after writing it. -/
theorem mget_mset_same (a : Nat) (x : Byte) (m : List Host.Cell) : mget a (mset a x m) = x := by
  unfold mset
  split
  · rename_i h; rw [mget_filter_same]; simp only [beq_iff_eq] at h; exact h.symm
  · exact mget_mins_same a x m

/-- A write of one byte leaves every other alone. -/
theorem mget_mset_other {a n : Nat} (x : Byte) (m : List Host.Cell) (h : n ≠ a) : mget n (mset a x m) = mget n m := by
  unfold mset
  split
  · exact mget_filter_other m h
  · exact mget_mins_other x m h

/-- Bytes outside a written range stay. -/
theorem mget_mwrite_outside {a n : Nat} (bs : List Byte) (m : List Host.Cell) (h : n < a ∨ a + bs.length ≤ n) :
    mget n (mwrite a bs m) = mget n m := by
  induction bs generalizing a m with
  | nil => rfl
  | cons x r ih =>
    simp only [List.length_cons] at h
    rw [mwrite, ih (a := a + 1) _ (by omega), mget_mset_other x m (by omega)]

/-- Bytes inside a written range are those written. -/
theorem mget_mwrite_inside {a i : Nat} (bs : List Byte) (m : List Host.Cell) (h : i < bs.length) :
    mget (a + i) (mwrite a bs m) = bs[i] := by
  induction bs generalizing a m i with
  | nil => simp at h
  | cons x r ih =>
    rw [mwrite]
    cases i with
    | zero => rw [mget_mwrite_outside _ _ (by omega)]; simpa using mget_mset_same a x m
    | succ i =>
      have := ih (a := a + 1) (i := i) (mset a x m) (by simpa using h)
      rw [show a + (i + 1) = a + 1 + i by omega]; simpa using this

/-- A range read after it was written. -/
theorem mread_mwrite (a : Nat) (bs : List Byte) (m : List Host.Cell) : mread (mwrite a bs m) a bs.length = bs := by
  apply List.ext_getElem
  · simp [mread, upTo]
  · intro i h1 h2
    simp only [mread, upTo, List.getElem_map, List.getElem_range]
    exact mget_mwrite_inside bs m h2

theorem mread_mwrite_outside {a b n : Nat} (bs : List Byte) (m : List Host.Cell) (h : b + n ≤ a ∨ a + bs.length ≤ b) :
    mread (mwrite a bs m) b n = mread m b n := by
  simp only [mread]
  apply List.map_congr_left
  intro i hi
  simp [upTo] at hi
  exact mget_mwrite_outside bs m (by omega)

/-! ### The state's memory -/

theorem foldl_mem {α : Type} (f : State → α → State) (l : List α) (h : ∀ s x, (f s x).mem = s.mem) (s : State) :
    (l.foldl f s).mem = s.mem := by
  induction l generalizing s with
  | nil => rfl
  | cons x r ih => rw [List.foldl_cons, ih, h]

theorem foldl_wf {α : Type} (f : State → α → State) (l : List α)
    (h : ∀ s x, Memory.wf s.mem = true → Memory.wf (f s x).mem = true) (s : State) (hs : Memory.wf s.mem = true) :
    Memory.wf (l.foldl f s).mem = true := by
  induction l generalizing s with
  | nil => exact hs
  | cons x r ih => rw [List.foldl_cons]; exact ih _ (h s x hs)

theorem reset_wf : Memory.wf State.reset.mem = true := rfl

end Sys2Proof.Machine
end

