-- ==== Sys2Proof/Laws/Coherence.lean ====
section
/-!
SUPPORT. What the coherence protocol and the accesses at the homes can do to the state: bytes, copies, directory,
monitors and anchors change, nothing else does, and memory keeps its canonical form.
-/
namespace Sys2Proof.Machine

/-- A state reached by work at the homes: bytes of memory, the protocol's copies and messages, RO and SCO copies, monitors and
anchors may have changed, nothing else, and memory's form is kept. -/
structure HomeWork (s t : State) : Prop where
  rest : t = { s with mem := t.mem, coh := t.coh, sco := t.sco, ro := t.ro, monitors := t.monitors, anchors := t.anchors }
  wf : Memory.wf s.mem = true → Memory.wf t.mem = true

namespace HomeWork

theorem refl (s : State) : HomeWork s s := ⟨rfl, id⟩

theorem trans {s t u : State} (h : HomeWork s t) (k : HomeWork t u) : HomeWork s u :=
  ⟨by rw [k.rest, h.rest], fun w => k.wf (h.wf w)⟩

/-- A change of the copies, the directory or the messages alone. -/
theorem coh {s u : State} (h : HomeWork s u) (c : Coh) : HomeWork s { u with coh := c } :=
  h.trans ⟨rfl, id⟩

theorem sco {s u : State} (h : HomeWork s u) (c : List Sco) : HomeWork s { u with sco := c } :=
  h.trans ⟨rfl, id⟩

theorem ro {s u : State} (h : HomeWork s u) (c : List Sco) : HomeWork s { u with ro := c } :=
  h.trans ⟨rfl, id⟩

theorem noteWrite {s u : State} (h : HomeWork s u) (q : Place) (n : Nat) : HomeWork s (u.noteWrite q n) := by
  refine h.trans ?_
  unfold State.noteWrite
  split
  · exact refl _
  · exact ⟨rfl, id⟩

/-- Bytes stored. -/
theorem poke {s u : State} (h : HomeWork s u) (pa : Nat) (bs : List Byte) : HomeWork s (u.poke pa bs) := by
  have k : HomeWork u { u with mem := mwrite pa bs u.mem } := ⟨rfl, fun w => wf_mwrite _ _ _ w⟩
  exact (h.trans k).noteWrite _ _

theorem setDir {s u : State} (h : HomeWork s u) (l : Nat) (d : Dir) : HomeWork s (u.setDir l d) := h.coh _
theorem send {s u : State} (h : HomeWork s u) (m : Msg) : HomeWork s (u.send m) := h.coh _
theorem grant {s u : State} (h : HomeWork s u) (c l : Nat) (x : LineSt) : HomeWork s (u.grant c l x) := h.coh _
theorem dropLine {s u : State} (h : HomeWork s u) (c l : Nat) : HomeWork s (u.dropLine c l) := h.coh _
theorem putLine {s u : State} (h : HomeWork s u) (x : CLine) : HomeWork s (u.putLine x) := (h.dropLine _ _).coh _
theorem dropSco {s u : State} (h : HomeWork s u) (c l : Nat) : HomeWork s (u.dropSco c l) := h.sco _
theorem putSco {s u : State} (h : HomeWork s u) (x : Sco) : HomeWork s (u.putSco x) := (h.dropSco _ _).sco _

/-- Work repeated over a list. -/
theorem foldl {α : Type} {s u : State} (h : HomeWork s u) (f : State → α → State) (l : List α)
    (hf : ∀ v x, HomeWork v (f v x)) : HomeWork s (l.foldl f u) := by
  induction l generalizing u with
  | nil => exact h
  | cons x r ih => exact ih (h.trans (hf u x))

theorem sendAll {s u : State} (h : HomeWork s u) (k : MsgKind) (l : Nat) (cs : List Nat) : HomeWork s (u.sendAll k l cs) :=
  h.foldl _ _ fun v _ => (refl v).send _

theorem combine {s u : State} (h : HomeWork s u) (l : Nat) (k : AOp) (p : Tab Nat) : HomeWork s (u.combine l k p) :=
  h.foldl _ _ fun v _ => (refl v).poke _ _

theorem closeTxn {s u : State} (h : HomeWork s u) (l : Nat) (d : Dir) : HomeWork s (u.closeTxn l d) := by
  unfold State.closeTxn
  split
  · exact h.setDir _ _
  · exact (h.setDir _ _).send _

theorem grantAlone {s u : State} (h : HomeWork s u) (l c : Nat) (r : Req) (d : Dir) : HomeWork s (u.grantAlone l c r d) := by
  unfold State.grantAlone
  split
  · exact (h.closeTxn _ _).grant _ _ _
  · exact (h.closeTxn _ _).grant _ _ _
  · exact (h.closeTxn _ _).grant _ _ _
  · exact (h.closeTxn _ _).grant _ _ _
  · exact (h.closeTxn _ _).poke _ _
  · exact h.closeTxn _ _
  · exact h.closeTxn _ _
  · extract_lets t
    have ht : HomeWork s t := h.closeTxn _ _
    split
    · exact ht.coh _
    · exact ht

theorem llcRoom {s u : State} (h : HomeWork s u) (l : Nat) : HomeWork s (u.llcRoom l) := by
  unfold State.llcRoom
  repeat' first
    | with_reducible exact h | with_reducible apply HomeWork.send | with_reducible apply HomeWork.sendAll | with_reducible apply HomeWork.setDir
    | exact h.coh _ | split

theorem setSpill {s u : State} (h : HomeWork s u) (n : Nat) (q : List (Nat × Nat × Req)) : HomeWork s (u.setSpill n q) := h.coh _

/-- A request taken by the home (R131). -/
theorem homeStart {s u : State} (h : HomeWork s u) (l c : Nat) (r : Req) : HomeWork s (u.homeStart l c r) := by
  unfold State.homeStart
  extract_lets d others q dt absent
  clear_value dt q absent
  repeat' first
    | with_reducible exact h | with_reducible apply HomeWork.llcRoom | with_reducible apply HomeWork.grantAlone | with_reducible apply HomeWork.grant | with_reducible apply HomeWork.send
    | with_reducible apply HomeWork.sendAll | with_reducible apply HomeWork.setDir | extract_lets | split

theorem serveWaiting (n : Nat) {s u : State} (h : HomeWork s u) (l : Nat) : HomeWork s (State.serveWaiting l n u) := by
  induction n generalizing u with
  | zero => exact h
  | succ n ih =>
    unfold State.serveWaiting
    extract_lets
    split
    · exact ih ((h.setDir _ _).homeStart _ _ _)
    · exact h

theorem homeNext {s u : State} (h : HomeWork s u) (l : Nat) : HomeWork s (u.homeNext l) := h.serveWaiting _ _

theorem homeReq {s u : State} (h : HomeWork s u) (l c : Nat) (r : Req) : HomeWork s (u.homeReq l c r) := by
  unfold State.homeReq
  extract_lets
  split
  · split
    · exact h.send _
    · exact h.setSpill _ _
  · split
    · exact h.setDir _ _
    · exact h.homeStart _ _ _

/-- A line given up by a cluster (R129, R131, R132). -/
theorem evictLine {s u : State} (h : HomeWork s u) (x : CLine) : HomeWork s (u.evictLine x) := by
  unfold State.evictLine
  repeat' first
    | with_reducible exact h | with_reducible apply HomeWork.send | with_reducible apply HomeWork.putLine
    | with_reducible apply HomeWork.dropLine | split

theorem cacheRoom {s u : State} (h : HomeWork s u) (c l : Nat) : HomeWork s (u.cacheRoom c l) := by
  unfold State.cacheRoom
  extract_lets mine ros
  clear_value mine ros
  split
  · exact h
  · cases ros with
    | cons y ys => exact h.ro _
    | nil => cases mine with
      | cons x xs => exact h.evictLine _
      | nil => exact h

theorem giveUp {s u : State} (h : HomeWork s u) (c l : Nat) : HomeWork s (u.giveUp c l) := by
  unfold State.giveUp
  repeat' first | with_reducible exact h | with_reducible apply HomeWork.dropLine | split

theorem maybeFinish {s u : State} (h : HomeWork s u) (l : Nat) : HomeWork s (u.maybeFinish l) := by
  unfold State.maybeFinish
  extract_lets
  repeat' first | with_reducible exact h | with_reducible apply HomeWork.homeNext | with_reducible apply HomeWork.grantAlone | extract_lets | split

/-- A message delivered (R129 to R132). -/
theorem deliver {s u : State} (h : HomeWork s u) (m : Msg) : HomeWork s (u.deliver m) := by
  unfold State.deliver
  extract_lets
  repeat' first
    | with_reducible exact h | with_reducible apply HomeWork.homeReq | with_reducible apply HomeWork.homeNext | with_reducible apply HomeWork.maybeFinish | with_reducible apply HomeWork.closeTxn
    | with_reducible apply HomeWork.grantAlone | with_reducible apply HomeWork.grant | with_reducible apply HomeWork.send | with_reducible apply HomeWork.putLine
    | with_reducible apply HomeWork.dropLine | with_reducible apply HomeWork.setDir | with_reducible apply HomeWork.combine
    | with_reducible apply HomeWork.giveUp | with_reducible apply HomeWork.cacheRoom | extract_lets | split

theorem deliverFirst {s u t : State} (h : HomeWork s u) (p : Msg → Bool) (e : u.deliverFirst p = some t) : HomeWork s t := by
  unfold State.deliverFirst at e
  cases k : takeFirst p u.coh.msgs with
  | none => simp [k] at e
  | some y =>
    simp only [k, Option.map_some, Option.some.injEq] at e
    exact e ▸ (h.coh _).deliver _

theorem drainLine (n : Nat) {s u : State} (h : HomeWork s u) (l : Nat) : HomeWork s (u.drainLine n l) := by
  induction n generalizing u with
  | zero => exact h
  | succ n ih =>
    unfold State.drainLine
    split
    · rename_i t e
      exact ih (h.deliverFirst _ e)
    · exact h

theorem freeEntry {s u : State} (h : HomeWork s u) (l : Nat) : HomeWork s (u.freeEntry l) := by
  unfold State.freeEntry
  repeat' first | with_reducible exact h | with_reducible apply HomeWork.drainLine | split

theorem drainSpill (k n : Nat) {s u : State} (h : HomeWork s u) : HomeWork s (State.drainSpill k n u) := by
  induction n generalizing u with
  | zero => exact h
  | succ n ih =>
    unfold State.drainSpill
    split
    · exact h
    · exact ih (((((h.setSpill _ _).drainLine _ _).freeEntry _).homeStart _ _ _).drainLine _ _)

/-- A request that runs to its grant. -/
theorem request {s u : State} (h : HomeWork s u) (l c : Nat) (r : Req) : HomeWork s (u.request l c r) := by
  unfold State.request
  extract_lets v w
  have hv : HomeWork s v := h.drainLine _ _
  have hw : HomeWork s w := by
    show HomeWork s (if _ then _ else _)
    split
    · exact hv
    · exact hv.drainSpill _ _
  exact ((hw.freeEntry _).homeStart _ _ _).drainLine _ _

theorem ensureRead {s u : State} (h : HomeWork s u) (c l : Nat) : HomeWork s (u.ensureRead c l) := by
  unfold State.ensureRead
  split <;> first | exact h | exact h.request _ _ _

theorem ensureWrite {s u : State} (h : HomeWork s u) (c l : Nat) : HomeWork s (u.ensureWrite c l) := by
  unfold State.ensureWrite
  split
  · exact h
  · exact (h.putLine _).setDir _ _
  · exact (h.request _ _ _).setDir _ _
  · exact (h.request _ _ _).setDir _ _
  · exact (h.request _ _ _).setDir _ _

theorem recalled {s u : State} (h : HomeWork s u) (l : Nat) : HomeWork s (u.recall l) := by
  unfold State.recall
  split
  · exact h
  · exact h.request _ _ _

theorem collect {s u : State} (h : HomeWork s u) (l : Nat) : HomeWork s (u.collect l) := by
  unfold State.collect
  split <;> first | exact h | exact h.request _ _ _

/-- Bytes read at the homes: partials may be combined first. -/
theorem homeRead {s u : State} (h : HomeWork s u) (pa n : Nat) : HomeWork s (u.homeRead pa n).2 :=
  h.foldl _ _ fun v l => (refl v).collect l

/-- Bytes written at the homes. -/
theorem homeWrite {s u : State} (h : HomeWork s u) (pa : Nat) (bs : List Byte) : HomeWork s (u.homeWrite pa bs) :=
  (h.foldl _ _ fun v l => (refl v).recalled l).poke _ _

theorem homeNat {s u : State} (h : HomeWork s u) (pa n : Nat) : HomeWork s (u.homeNat pa n).2 := h.homeRead pa n

/-- Dirty bytes of every copy of an SCO line go home, and the copies go (R117, R127). -/
theorem scoClean {s u : State} (h : HomeWork s u) (l : Nat) : HomeWork s (u.scoClean l) :=
  (h.foldl _ _ fun v _ => (refl v).foldl _ _ fun w _ => (refl w).poke _ _).sco _

theorem scoRecall {s u : State} (h : HomeWork s u) (l : Nat) : HomeWork s (u.scoRecall l) := (h.scoClean l).sco _

/-- A reduction form on a COH line (R127, R128). -/
theorem reduce {s u : State} (h : HomeWork s u) (c : Nat) (k : AOp) (pa b : Nat) : HomeWork s (u.reduce c k pa b) := by
  unfold State.reduce
  extract_lets line v
  have hv : HomeWork s v := h.drainLine _ _
  have ha : ∀ w, HomeWork s w → HomeWork s (((w.recall line).scoRecall line).poke pa
      (toBytes k.size (k.new (ofBytes (((w.recall line).scoRecall line).peek pa k.size)) b 0))) :=
    fun w hw => ((hw.recalled _).scoRecall _).poke _ _
  split
  · exact (hv.ensureWrite _ _).poke _ _
  · rename_i t _ _
    have ht : HomeWork s t := by
      show HomeWork s (if _ then _ else _)
      split
      · exact hv
      · exact hv.request _ _ _
    split
    · exact ht.putLine _
    · exact ha _ ht
  · exact ha _ hv

/-- Dirty bytes of an SCO copy go home (R121). -/
theorem scoBack {s u : State} (h : HomeWork s u) (x : Sco) : HomeWork s (u.scoBack x) :=
  h.foldl _ _ fun v _ => (refl v).poke _ _

theorem scoRelease {s u : State} (h : HomeWork s u) (c : Nat) : HomeWork s (u.scoRelease c) :=
  (h.foldl _ _ fun v x => (refl v).scoBack x).sco _

theorem scoAcquire {s u : State} (h : HomeWork s u) (c : Nat) : HomeWork s (u.scoAcquire c) := (h.scoRelease c).sco _

end HomeWork

/-- What was written at the homes reads back. -/
theorem mread_homeWrite (s : State) (pa : Nat) (bs : List Byte) : mread (s.homeWrite pa bs).mem pa bs.length = bs := by
  unfold State.homeWrite State.poke State.noteWrite
  split <;> exact mread_mwrite _ _ _

/-- The bytes that a read at the homes answers are memory's own. -/
theorem homeRead_bytes (s : State) (pa n : Nat) : (s.homeRead pa n).1 = mread (s.homeRead pa n).2.mem pa n := rfl

end Sys2Proof.Machine
end

