-- ==== Sys2Proof/Laws/Group.lean ====
section
/-!
SUPPORT. Laws of lanes and registers: what a change of one lane, of all lanes of an executing set, and of a register does
to every lane; and what E can hold.
-/
namespace Sys2Proof.Machine

theorem lane_setLane (g : Group) (l m : Nat) (x : Lane) :
    (g.setLane l x).lane m = if m = l ∧ l < g.lanes.length then x else g.lane m := by
  by_cases h : m = l
  · subst h
    by_cases hl : m < g.lanes.length
    · simp [Group.lane, Group.setLane, hl]
    · simp [Group.lane, Group.setLane, hl]
  · simp [Group.lane, Group.setLane, h, List.getD_eq_getElem?_getD, Ne.symm h]

theorem setLane_frame (g : Group) (l : Nat) (x : Lane) :
    g.setLane l x = { g with lanes := (g.setLane l x).lanes } := rfl

theorem setLane_length (g : Group) (l : Nat) (x : Lane) : (g.setLane l x).lanes.length = g.lanes.length := by
  simp [Group.setLane]

theorem lane_modLane (g : Group) (l m : Nat) (f : Lane → Lane) :
    (g.modLane l f).lane m = if m = l ∧ l < g.lanes.length then f (g.lane m) else g.lane m := by
  rw [Group.modLane, lane_setLane]
  split
  · rename_i h; rw [h.1]
  · rfl

/-- A change of each lane of a list that names none twice: what it does to every lane, and to nothing else. -/
theorem foldl_modLane {β : Type} (f : β → Lane → Lane) (v : Nat → β) (E : List Nat) (g : Group) (hn : E.Nodup)
    (hr : ∀ l ∈ E, l < g.lanes.length) :
    let r := (E.map fun l => (l, v l)).foldl (fun g p => g.modLane p.1 (f p.2)) g
    r = { g with lanes := r.lanes } ∧ r.lanes.length = g.lanes.length ∧
      ∀ m, r.lane m = if m ∈ E then f (v m) (g.lane m) else g.lane m := by
  induction E generalizing g with
  | nil => exact ⟨rfl, rfl, fun _ => rfl⟩
  | cons l E ih =>
    have hn' := List.nodup_cons.mp hn
    have hlen : (g.modLane l (f (v l))).lanes.length = g.lanes.length := setLane_length _ _ _
    have hl : l < g.lanes.length := hr l (by simp)
    obtain ⟨h1, h2, h3⟩ := ih (g.modLane l (f (v l))) hn'.2 (fun m hm => by rw [hlen]; exact hr m (by simp [hm]))
    refine ⟨h1, h2.trans hlen, fun m => ?_⟩
    simp only [List.map_cons, List.foldl_cons]
    rw [h3 m, lane_modLane]
    by_cases hm : m = l
    · subst hm; simp [hn'.1, hl]
    · simp [hm]

/-- The lanes of E are runnable, and E names none twice. -/
theorem lanesWhere_nodup (g : Group) (p : Nat → Lane → Bool) : (g.lanesWhere p).Nodup :=
  List.Nodup.filter _ List.nodup_range

theorem mem_lanesWhere {g : Group} {p : Nat → Lane → Bool} {l : Nat} :
    l ∈ g.lanesWhere p ↔ l < g.W ∧ p l (g.lane l) = true := by
  simp [Group.lanesWhere, upTo]

/-- E is runnable lanes that stand at the issue address, of which an instruction that waits may hold some. -/
theorem E_eq_lanesWhere (g : Group) :
    ∃ p : Nat → Lane → Bool, g.E = g.lanesWhere fun i x => g.runnable i x && (p i x && x.pcv == g.pc) := by
  unfold Group.E Group.pc Group.issuePc
  cases hh : g.heldLanes with
  | nil =>
    cases hp : g.minPcOf (g.lanesWhere g.runnable) with
    | none => exact ⟨fun _ _ => false, by simp [Group.lanesWhere]⟩
    | some p => exact ⟨fun _ _ => true, by simp⟩
  | cons l r =>
    unfold Group.heldLanes at hh
    cases ha : g.heldAt with
    | none => rw [ha] at hh; cases hh
    | some x =>
      obtain ⟨p, m⟩ := x
      rw [ha] at hh
      dsimp only at hh ⊢
      have hl : (g.lane l).pcv = p := by
        have : l ∈ g.lanesWhere fun i x => g.runnable i x && m.testBit i && x.pcv == p := by rw [hh]; simp
        simp only [Group.lanesWhere, List.mem_filter, Bool.and_eq_true, beq_iff_eq] at this
        exact this.2.2
      refine ⟨fun i _ => m.testBit i, ?_⟩
      rw [← hh]
      simp [hl, Bool.and_assoc]

theorem E_nodup (g : Group) : g.E.Nodup := by
  obtain ⟨p, h⟩ := E_eq_lanesWhere g
  rw [h]; exact lanesWhere_nodup _ _

theorem mem_E {g : Group} {l : Nat} (h : l ∈ g.E) : l < g.W ∧ g.runnable l (g.lane l) = true := by
  obtain ⟨p, e⟩ := E_eq_lanesWhere g
  rw [e, mem_lanesWhere] at h
  exact ⟨h.1, ((Bool.and_eq_true _ _).mp h.2).1⟩

/-- Every lane of E stands at the issue address (R31). -/
theorem pcv_of_mem_E {g : Group} {l : Nat} (h : l ∈ g.E) : (g.lane l).pcv = g.pc := by
  obtain ⟨p, e⟩ := E_eq_lanesWhere g
  rw [e, mem_lanesWhere] at h
  simp only [Bool.and_eq_true, beq_iff_eq] at h
  exact h.2.2.2

theorem runnable_of_mem_E {g : Group} {l : Nat} (h : l ∈ g.E) : g.runnable l (g.lane l) = true := (mem_E h).2

theorem lt_W_of_mem_E {g : Group} {l : Nat} (h : l ∈ g.E) : l < g.W := (mem_E h).1

theorem occ_of_mem_E {g : Group} {l : Nat} (h : l ∈ g.E) : (g.lane l).occ = true := by
  have := runnable_of_mem_E h
  simp only [Group.runnable, Bool.and_eq_true] at this
  exact this.1.1

theorem lane_default {g : Group} {l : Nat} (h : ¬ l < g.lanes.length) : g.lane l = {} := by
  simp only [Group.lane, List.getD_eq_getElem?_getD]
  rw [List.getElem?_eq_none (by omega)]
  rfl

theorem lt_length_of_mem_E {g : Group} {l : Nat} (h : l ∈ g.E) : l < g.lanes.length := by
  by_contra hl
  have h1 := occ_of_mem_E h
  rw [lane_default hl] at h1
  exact absurd h1 (by decide)

/-- A change of every lane of E, by the lane's own value. -/
theorem foldl_E {β : Type} (f : β → Lane → Lane) (v : Nat → β) (g h : Group) (hl : h.lanes.length = g.lanes.length) :
    let r := (g.E.map fun l => (l, v l)).foldl (fun g p => g.modLane p.1 (f p.2)) h
    r = { h with lanes := r.lanes } ∧ r.lanes.length = h.lanes.length ∧
      ∀ m, r.lane m = if m ∈ g.E then f (v m) (h.lane m) else h.lane m :=
  foldl_modLane f v g.E h (E_nodup g) fun _ hm => hl ▸ lt_length_of_mem_E hm

/-- Two groups with the same lanes are equal in every lane. -/
theorem lane_congr {g h : Group} (e : g.lanes = h.lanes) (m : Nat) : g.lane m = h.lane m := by
  simp [Group.lane, e]

/-! ### The three writes of an executing set -/

/-- The change that a register write makes to its lane. -/
def regChange (k : RKey) (x : Word) (y : Lane) : Lane :=
  match k with
  | .v n => { y with th := { y.th with v := tset n x y.th.v } }
  | .o n => { y with th := { y.th with o := tset n x y.th.o } }
  | _ => y

theorem writeAll_v (h : Group) (n : Nat) (vals : List (Nat × Word)) :
    h.writeAll (.v n) vals = vals.foldl (fun g p => g.modLane p.1 (regChange (.v n) p.2)) h := rfl

theorem writeAll_o (h : Group) (n : Nat) (vals : List (Nat × Word)) :
    h.writeAll (.o n) vals = vals.foldl (fun g p => g.modLane p.1 (regChange (.o n) p.2)) h := rfl

theorem writeAll_spec (g h : Group) (k : RKey) (v : Nat → Word) (hl : h.lanes.length = g.lanes.length) :
    let r := h.writeAll k (g.E.map fun l => (l, v l))
    r = { h with lanes := r.lanes, q := r.q } ∧ r.lanes.length = h.lanes.length ∧
      (∀ m, r.lane m = if m ∈ g.E then regChange k (v m) (h.lane m) else h.lane m) ∧
      r.q = (match k with | .q n => (if g.E.isEmpty then h.q else tset n (v g.lowE) h.q) | _ => h.q) := by
  cases k with
  | none => exact ⟨rfl, rfl, fun m => by simp [Group.writeAll, regChange], rfl⟩
  | q n =>
    cases hE : g.E with
    | nil => exact ⟨rfl, rfl, fun m => by simp [Group.writeAll], rfl⟩
    | cons l r =>
      refine ⟨rfl, rfl, fun m => ?_, ?_⟩
      · simp only [List.map_cons, Group.writeAll, regChange]; split <;> rfl
      · simp [Group.writeAll, Group.lowE, hE]
  | v n =>
    rw [writeAll_v]
    obtain ⟨h1, h2, h3⟩ := foldl_E (fun x y => regChange (.v n) x y) v g h hl
    have hq := congrArg (fun g : Group => g.q) h1
    exact ⟨by dsimp only at hq ⊢; rw [hq]; exact h1, h2, h3, hq⟩
  | o n =>
    rw [writeAll_o]
    obtain ⟨h1, h2, h3⟩ := foldl_E (fun x y => regChange (.o n) x y) v g h hl
    have hq := congrArg (fun g : Group => g.q) h1
    exact ⟨by dsimp only at hq ⊢; rw [hq]; exact h1, h2, h3, hq⟩

theorem writeLat_spec (g h : Group) (v : Nat → Word) (hl : h.lanes.length = g.lanes.length) :
    let r := h.writeLat (g.E.map fun l => (l, v l))
    r = { h with lanes := r.lanes } ∧ r.lanes.length = h.lanes.length ∧
      ∀ m, r.lane m = if m ∈ g.E then { h.lane m with lat := v m } else h.lane m :=
  foldl_E (fun x y => { y with lat := x }) v g h hl

theorem writeFlags_spec (g h : Group) (v : Nat → Nzcv) (hl : h.lanes.length = g.lanes.length) :
    let r := h.writeFlags (g.E.map fun l => (l, v l))
    r = { h with lanes := r.lanes } ∧ r.lanes.length = h.lanes.length ∧
      ∀ m, r.lane m = if m ∈ g.E then { h.lane m with th := { (h.lane m).th with nzcv := v m } } else h.lane m :=
  foldl_E (fun x y => { y with th := { y.th with nzcv := x } }) v g h hl

theorem orFpsr_spec (g h : Group) (v : Nat → FpFlags) (hl : h.lanes.length = g.lanes.length) :
    let r := h.orFpsr (g.E.map fun l => (l, v l))
    r = { h with lanes := r.lanes } ∧ r.lanes.length = h.lanes.length ∧
      ∀ m, r.lane m =
        if m ∈ g.E then { h.lane m with th := { (h.lane m).th with fpsr := (h.lane m).th.fpsr ||| v m } } else h.lane m :=
  foldl_E (fun x y => { y with th := { y.th with fpsr := y.th.fpsr ||| x } }) v g h hl

theorem goTo_spec (g h : Group) (v : Nat → Word) (hl : h.lanes.length = g.lanes.length) :
    let r := h.goTo (g.E.map fun l => (l, v l))
    r = { h with lanes := r.lanes } ∧ r.lanes.length = h.lanes.length ∧
      ∀ m, r.lane m = if m ∈ g.E then { h.lane m with pcv := v m, freed := none } else h.lane m :=
  foldl_E (fun x y => { y with pcv := x, freed := none }) v g h hl

theorem noteWaiting_frame (g : Group) (tick : Nat) :
    g.noteWaiting tick = { g with waitingSince := (g.noteWaiting tick).waitingSince } := rfl

/-! ### The present group under a write -/

@[simp] theorem me_setMe (s : State) (x : Group) : (s.setMe x).me = x := by
  simp [State.me, State.setMe, State.grp, State.setGrp, tgetD_tset_same]

@[simp] theorem me_modMe (s : State) (f : Group → Group) : (s.modMe f).me = f s.me := by
  simp [State.modMe]

/-- A change of the present group leaves the rest of the state. -/
theorem setMe_frame (s : State) (x : Group) : s.setMe x = { s with groups := (s.setMe x).groups } := rfl

theorem setMe_other (s : State) (x : Group) {n : Nat} (h : n ≠ s.cur) : tget n (s.setMe x).groups = tget n s.groups :=
  tget_tset_other x s.groups h

theorem me_modGrp (s : State) (f : Group → Group) (x : Group) (h : tget s.cur s.groups = some x) :
    (s.modGrp s.cur f).me = f x := by
  simp [State.me, State.grp, State.modGrp, tgetD, tget_tmod_same, h]

/-! ### Lanes picked by a test, and lane masks -/

/-- The position of an element in a list that a function ran over. -/
theorem imapFrom_get {α β : Type} (f : Nat → α → β) (l : List α) (n m : Nat) :
    (imapFrom f n l)[m]? = l[m]?.map (f (n + m)) := by
  induction l generalizing n m with
  | nil => simp [imapFrom]
  | cons x r ih => cases m with
    | zero => simp [imapFrom]
    | succ m => simp [imapFrom, ih]; congr 2; omega

/-- The lanes after a change of the lanes that a test picks. -/
theorem lane_modLanes (g : Group) (p : Nat → Bool) (f : Nat → Lane → Lane) (m : Nat) :
    (g.modLanes p f).lane m = if m < g.lanes.length ∧ p m = true then f m (g.lane m) else g.lane m := by
  simp only [Group.modLanes, Group.lane, List.getD_eq_getElem?_getD, imapFrom_get]
  by_cases h : m < g.lanes.length
  · simp [h]
  · simp [h]

theorem testBit_add_pow {m i j : Nat} (h : m.testBit i = false) :
    (m + 2 ^ i).testBit j = (m.testBit j || decide (i = j)) := by
  rcases lt_trichotomy j i with hj | rfl | hj
  · rw [Nat.add_comm, Nat.testBit_two_pow_add_gt hj]
    simp [Nat.ne_of_gt hj]
  · rw [Nat.add_comm, Nat.testBit_two_pow_add_eq]; simp [h]
  · have hh : m / 2 ^ i % 2 = 0 := by
      have := h; rw [Nat.testBit_eq_decide_div_mod_eq] at this; simpa using this
    have e : (m + 2 ^ i) / 2 ^ (i + 1) = m / 2 ^ (i + 1) := by
      rw [pow_succ, ← Nat.div_div_eq_div_mul, ← Nat.div_div_eq_div_mul, Nat.add_div_right _ (by positivity)]
      omega
    obtain ⟨k, rfl⟩ := Nat.exists_eq_add_of_lt hj
    have := congrArg (fun x => x.testBit k) e
    simp only [Nat.testBit_div_two_pow] at this
    rw [show i + k + 1 = k + (i + 1) by omega, this]
    simp; omega

theorem testBit_maskFold (l : List Nat) (m j : Nat) :
    (l.foldl (fun m i => if m.testBit i then m else m + 2 ^ i) m).testBit j = (m.testBit j || decide (j ∈ l)) := by
  induction l generalizing m with
  | nil => simp
  | cons i r ih =>
    rw [List.foldl_cons, ih]
    by_cases h : m.testBit i = true
    · simp only [h, if_true, List.mem_cons]
      by_cases hj : j = i
      · subst hj; simp [h]
      · simp [hj]
    · simp only [h]
      rw [if_neg (by simp), testBit_add_pow (by simpa using h)]
      simp only [List.mem_cons, Bool.or_assoc]
      congr 1
      rw [Bool.eq_iff_iff]; simp; tauto

/-- The mask of a list of lanes holds exactly its lanes. -/
theorem testBit_maskOf (l : List Nat) (j : Nat) : (maskOf l).testBit j = decide (j ∈ l) := by
  rw [maskOf, testBit_maskFold]; simp

end Sys2Proof.Machine
end

