-- ==== Sys2Proof/Laws/Issue.lean ====
section
/-!
SUPPORT. Laws of the issue: when it takes which path of R79, how it completes in place, and what a result of each class
then does to every lane.
-/
namespace Sys2Proof.Machine

/-- An instruction that issues runs its meaning. -/
theorem issue_go {i : Instr} {sem : State → Res} {s : State} (h : Issues i s) : issue i sem s = conclude i s (sem s) := by
  obtain ⟨⟨h1, h2, h3, h6⟩, h4, h5⟩ := h
  simp [issue, h1, h2, h3, h4, h5, h6]

/-- A failed check of R79 raises its cause with the instruction's word. -/
theorem issue_check {i : Instr} {sem : State → Res} {s : State} {c : Cause} (h : Stands s)
    (hc : preCheck i s.me s.myTeam.tix = some c) : issue i sem s = .next (s.raise c (wordVal i)) := by
  obtain ⟨h1, h2, h3, h6⟩ := h
  simp [issue, h1, h2, h3, h6, hc]

/-- An issue that waits for a register keeps its address and E, and changes nothing else. -/
theorem issue_block {i : Instr} {sem : State → Res} {s : State} (h : Stands s)
    (hc : preCheck i s.me s.myTeam.tix = none) (hr : s.ready i = .block) : issue i sem s = .next s.latch := by
  obtain ⟨h1, h2, h3, h6⟩ := h
  simp [issue, h1, h2, h3, h6, hc, hr]

/-- An issue that reads an empty register through F raises EMPTY. -/
theorem issue_empty {i : Instr} {sem : State → Res} {s : State} (h : Stands s)
    (hc : preCheck i s.me s.myTeam.tix = none) (hr : s.ready i = .empty) : issue i sem s = .next (s.raise .empty 0) := by
  obtain ⟨h1, h2, h3, h6⟩ := h
  simp [issue, h1, h2, h3, h6, hc, hr]

/-- Lanes that stay in the segment go on where they were sent. -/
theorem leave_stays {s0 s : State} {word : Word} {fall : Bool} {ts : List (Nat × Word)} (h : StaysAt s0 fall ts) :
    s0.leave s word fall false ts = s.goneTo ts := by
  unfold State.leave
  cases hx : s0.localSeg s0.me with
  | none => rfl
  | some x =>
    have : (ts.filter fun t => false || s0.departs s0.me x s0.me.pc fall t.2) = [] := by
      rw [List.filter_eq_nil_iff]
      intro t ht; simp [h x hx t ht]
    simp only [this, List.isEmpty_nil, if_true]
    rfl

/-- A completed instruction goes on at the next word. -/
theorem issue_done {i : Instr} {sem : State → Res} {s t : State} (h : Issues i s) (hf : Falls s) (hs : sem s = .done t) :
    issue i sem s = .next (t.goneTo s.nextWord) := by
  rw [issue_go h, hs]
  simp only [conclude]
  rw [show (s.me.E.map fun l => (l, s.me.pc + 4)) = s.nextWord from rfl, leave_stays hf]

/-- A completed transfer goes on where it sends its lanes. -/
theorem issue_branch {i : Instr} {sem : State → Res} {s t : State} {ts : List (Nat × Word)} (h : Issues i s)
    (hf : StaysAt s false ts) (hs : sem s = .branch ts t) : issue i sem s = .next (t.goneTo ts) := by
  rw [issue_go h, hs]
  simp only [conclude]
  rw [leave_stays hf]

/-- A meaning that traps takes its exception. -/
theorem issue_trap {i : Instr} {sem : State → Res} {s t : State} {c : Cause} {v : Word} (h : Issues i s)
    (hs : sem s = .trap c v t) : issue i sem s = .next (t.raise c v) := by
  rw [issue_go h, hs]; rfl

theorem issue_wait {i : Instr} {sem : State → Res} {s t : State} (h : Issues i s) (hs : sem s = .wait t) :
    issue i sem s = .next (t.keep i s) := by
  rw [issue_go h, hs]; rfl

/-! ### What goes on in place leaves -/

theorem me_touch {s : State} {x : Group} (h : tget s.cur s.groups = some x) :
    s.touch.me = { x.noteWaiting s.tick with
      readyAt := s.tick, boosted := none, wait := .none, latched := none, fetched := [], last := false } :=
  me_modGrp s _ x h

theorem tget_setMe (s : State) (x : Group) : tget s.cur (s.setMe x).groups = some x := tget_tset_same _ _ _

/-- The present group of a state in which its lanes have gone on. -/
theorem me_goneTo (s : State) (ts : List (Nat × Word)) :
    (s.goneTo ts).me =
      { (s.me.goTo ts).noteWaiting s.tick with
        readyAt := s.tick, boosted := none, wait := .none, latched := none, fetched := [], last := false } :=
  me_touch (tget_setMe s _)

theorem goneTo_rest (s : State) (ts : List (Nat × Word)) : s.goneTo ts = { s with groups := (s.goneTo ts).groups } := rfl

theorem goneTo_others (s : State) (ts : List (Nat × Word)) {n : Nat} (h : n ≠ s.cur) :
    tget n (s.goneTo ts).groups = tget n s.groups := by
  simp only [State.goneTo, State.touch, State.modGrp, State.modMe]
  rw [tget_tmod_other _ _ (by exact h)]
  exact setMe_other s _ h

/-- Going on in place changes the present group alone. -/
theorem onlyMe_goneTo (s : State) (f : Group → Group) (ts : List (Nat × Word)) : OnlyMe s ((s.modMe f).goneTo ts) :=
  ⟨rfl, fun n h => by
    rw [goneTo_others _ ts (by exact h)]
    exact setMe_other s _ h⟩

/-- The lanes of a group after a change of its lanes and uniform registers and a move to the next word. -/
theorem lane_goneTo (s : State) (f : Group → Group) (hl : (f s.me).lanes.length = s.me.lanes.length) (v : Nat → Word)
    (m : Nat) : ((s.modMe f).goneTo (s.me.E.map fun l => (l, v l))).me.lane m =
      if m ∈ s.me.E then { (f s.me).lane m with pcv := v m, freed := none } else (f s.me).lane m := by
  rw [me_goneTo, me_modMe]
  exact (goTo_spec s.me (f s.me) v hl).2.2 m

theorem kept_goneTo (s : State) (f : Group → Group) (hl : (f s.me).lanes.length = s.me.lanes.length)
    (hk : f s.me = { s.me with lanes := (f s.me).lanes, q := (f s.me).q }) (v : Nat → Word) :
    GroupKept s.me ((s.modMe f).goneTo (s.me.E.map fun l => (l, v l))).me ∧
    ((s.modMe f).goneTo (s.me.E.map fun l => (l, v l))).me.q = (f s.me).q := by
  have hg := (goTo_spec s.me (f s.me) v hl).1
  rw [me_goneTo, me_modMe]
  refine ⟨?_, ?_⟩
  · unfold GroupKept Group.noteWaiting
    dsimp only at hg ⊢
    rw [hg]
    dsimp only
    rw [hk]
  · unfold Group.noteWaiting
    dsimp only at hg ⊢
    rw [hg]

theorem readKey_regChange (k k' : RKey) (x : Word) (y : Lane) :
    (match k' with
      | .v n => tgetD (regChange k x y).th.v n 0
      | .o n => tgetD (regChange k x y).th.o n 0
      | _ => 0) =
    (if k' = k then (match k with | .v _ => x | .o _ => x | _ => 0) else
      match k' with
      | .v n => tgetD y.th.v n 0
      | .o n => tgetD y.th.o n 0
      | _ => 0) := by
  by_cases h : k' = k
  · subst h
    cases k' <;> simp [regChange, tgetD_tset_same]
  · cases k <;> cases k' <;> simp_all [regChange]
    · rename_i a b; rw [tgetD_tset_other _ _ _ (by simpa using h)]
    · rename_i a b; rw [tgetD_tset_other _ _ _ (by simpa using h)]

end Sys2Proof.Machine
end

