-- ==== Sys2Proof/Laws/Exec.lean ====
section
/-!
SUPPORT. Every instruction that has a word is an issue: the checks of R79 stand before its meaning.
-/
namespace Sys2Proof.Machine

set_option maxHeartbeats 4000000 in
/-- An instruction that has a word runs as an issue of it (R79). -/
theorem exec_issues (i : Instr) (w : IWord) (s : State) (h : encode i = some w) : ∃ sem, exec i s = issue i sem s := by
  cases i
  case recordArrival | arrivalBufferRefill | overflowRingDrain | departureWaitTimeout | brgWaitTimeout | binTimerExpire
    | binLaunch | groupPark | groupReform | groupBoost | occupancyReport | replicationWindow | replicaAdd | bartArrival
    | registerFill | rds | rdx | upg | rdu | wrl | pute | wb | wbu | ack | fwdack | partialReturn | memoryData | inv |
    fwds | fwdx | rcl | collMessage | data | wback | clusterEviction | llcEviction | spillQueueDrain | pageWalk |
    translationInvalidation | copyOnWriteComplete | vpoolResume | frameReclaim | waitaRelease | woundDelivery |
    woundDeadlineExpiry | lkmatWrite | mmaRetire | bceComplete | contextCreate | queueRegister | queueWake | slotGrant |
    packetTake | quantumExpiry | queueUnmap | teamPlacement | deadlinePreq | deadlineForced | teamEnd | counterDecrement
    | linkShareWindow | tvecEntry | contvEntry | frameReady | serviceReply | faultBufferDrain | uncorrectableError |
    correctedError | preemptRequest | forcedSave | partitionSwap | partitionRestore | packetReceive | retryResend |
    linkBringUp | keyLoad | keyConfirm | remoteRequest | remoteResponse | accessTableWrite | collectiveGroupRegister |
    collectivePacket | collectiveHop | collComplete | hostMemAccess | hostUnbind | packageReset | getMeasurements |
    managementRequest | powerLimitWrite | stagingSetting | thermalHold | thermalStop | thermalClear | snapshotTrigger |
    snapshotArm | snapshotMissedClear | reservedEncoding | fetchFault | homeAtomic | hostBind | cxlLinkTraining =>
    cases h
  all_goals clear h
  case add | sub | mul | mulhS | mulhZ | and | or | xor | shl | shr | sar | minS | maxS | minZ | maxZ | adc | sbc | cmpS
    | cmpZ | divS | divZ | remS | remZ | addW | subW | mulW | popc | clz | brev | bfx | bfi | faddD | fsubD | fmulD |
    ffmaD | ffmsD | ffnmD | fminD | fmaxD | fdivD | fsqrtD | fcmpD | fabsD | fnegD | fcpysD | frndD | fclsD | faddF |
    fsubF | fmulF | ffmaF | ffmsF | ffnmF | fminF | fmaxF | fdivF | fsqrtF | fcmpF | fabsF | fnegF | fcpysF | frndF |
    fclsF | cvtDF | cvtFD | cvtDS64 | cvtS64D | cvtDZ64 | cvtZ64D | cvtFS32 | cvtS32F | cvtBF | cvtFB | cvtHF | cvtFH |
    qdxX8 | qdxX4 | dqxX8 | dqxX4 | frcpF | frsqF | fex2F | flg2F | fsinF | fcosF | drca | drsa | rbox | rtri | sel |
    mov | ccget | ccset | shflIdx | shflXor | shflUp | shflDn | bcst | vote | mtch | xrd | redAdd | redMin | redMax |
    redFaddD | redFaddF | scanAdd | scanFaddD | ldx64 | ldxS32 | stx64 | stx32 | ldv | lda | str | ptog | pref | flsh |
    invl | ldq | stq | ldS8 | ldZ8 | ldS16 | ldZ16 | ldS32 | ldZ32 | ld64 | st8 | st16 | st32 | st64 | addi | andi | ori
    | xori | cmpi | shli | shri | sari | muli | movi | movh | adpc | aadd | aaddW | aminS | amaxS | aminZ | amaxZ | aand
    | aor | axor | axch | acas | acasW | afaddF | afaddD | ainc | adec | aaddAr | aaddWAr | aminSAr | amaxSAr | aminZAr
    | amaxZAr | aandAr | aorAr | axorAr | axchAr | acasAr | acasWAr | afaddFAr | afaddDAr | aincAr | adecAr | br | brg |
    call | ret | jmp | jmpl | spawn | exit | yield | resm | winb | nop | trap | eret | bkpt | svc | join | leave | waitk
    | kget | kset | klog | bart | barg | waita | fence | csrr | csrw | mma | mdrn | mzro | mfil | msav | mrst | bcpy |
    wtal | wtan | ffrt | tgcl | coll | cdec | lock | lckt | ulck | lupg | tskb | tske | tska | publ | retv | vqry | rep
    =>
    dsimp only [exec]
    delta execAdd execSub execMul execMulhS execMulhZ execAnd execOr execXor execShl execShr execSar execMinS
      execMaxS execMinZ execMaxZ execAdc execSbc execCmpS execCmpZ execDivS execDivZ execRemS execRemZ execAddW
      execSubW execMulW execPopc execClz execBrev execBfx execBfi execFaddD execFsubD execFmulD execFfmaD execFfmsD
      execFfnmD execFminD execFmaxD execFdivD execFsqrtD execFcmpD execFabsD execFnegD execFcpysD execFrndD
      execFclsD execFaddF execFsubF execFmulF execFfmaF execFfmsF execFfnmF execFminF execFmaxF execFdivF execFsqrtF
      execFcmpF execFabsF execFnegF execFcpysF execFrndF execFclsF execCvtDF execCvtFD execCvtDS64 execCvtS64D
      execCvtDZ64 execCvtZ64D execCvtFS32 execCvtS32F execCvtBF execCvtFB execCvtHF execCvtFH execQdxX8 execQdxX4
      execDqxX8 execDqxX4 execFrcpF execFrsqF execFex2F execFlg2F execFsinF execFcosF execDrca execDrsa execRbox
      execRtri execSel execMov execCcget execCcset execShflIdx execShflXor execShflUp execShflDn execBcst execVote
      execMtch execXrd execRedAdd execRedMin execRedMax execRedFaddD execRedFaddF execScanAdd execScanFaddD
      execLdx64 execLdxS32 execStx64 execStx32 execLdv execLda execStr execPtog execPref execFlsh execInvl execLdq
      execStq execLdS8 execLdZ8 execLdS16 execLdZ16 execLdS32 execLdZ32 execLd64 execSt8 execSt16 execSt32 execSt64
      execAddi execAndi execOri execXori execCmpi execShli execShri execSari execMuli execMovi execMovh execAdpc
      execAadd execAaddW execAminS execAmaxS execAminZ execAmaxZ execAand execAor execAxor execAxch execAcas
      execAcasW execAfaddF execAfaddD execAinc execAdec execAaddAr execAaddWAr execAminSAr execAmaxSAr execAminZAr
      execAmaxZAr execAandAr execAorAr execAxorAr execAxchAr execAcasAr execAcasWAr execAfaddFAr execAfaddDAr
      execAincAr execAdecAr execBr execBrg execCall execRet execJmp execJmpl execSpawn execExit execYield execResm
      execWinb execNop execTrap execEret execBkpt execSvc execJoin execLeave execWaitk execKget execKset execKlog
      execBart execBarg execWaita execFence execCsrr execCsrw execMma execMdrn execMzro execMfil execMsav execMrst
      execBcpy execWtal execWtan execFfrt execTgcl execColl execCdec execLock execLckt execUlck execLupg execTskb
      execTske execTska execPubl execRetv execVqry execRep
    exact ⟨_, rfl⟩

end Sys2Proof.Machine
end

