-- ==== Sys2Proof/Laws/Short.lean ====
section
/-!
SUPPORT. What a short-class and a direct-class result do to every lane, once for all the instructions of the class.
-/
namespace Sys2Proof.Machine

/-- The flags that an instruction with W bit `w` writes. -/
def flagList (w : BitVec 1) (s : State) (fl : Nat → Nzcv) : List (Nat × Nzcv) :=
  if w == 1 then s.me.E.map fun l => (l, fl l) else []

/-- The values that go to lat. -/
def latList (lats : Bool) (s : State) (v : Nat → Word) : List (Nat × Word) :=
  if lats then s.me.E.map fun l => (l, v l) else []

/-- The group after a result: raised flags, d, lat, NZCV. -/
def regGroup (s : State) (d : Spec) (w : BitVec 1) (lats : Bool) (val : Nat → Word) (fl : Nat → Nzcv) (ra : Nat → FpFlags)
    (g : Group) : Group :=
  (((g.orFpsr (s.me.E.map fun l => (l, ra l))).writeAll (s.me.key d) (s.me.E.map fun l => (l, val l))).writeLat
    (latList lats s val)).writeFlags (flagList w s fl)

theorem latList_spec (g h : Group) (lats : Bool) (s : State) (hs : s.me = g) (v : Nat → Word)
    (hl : h.lanes.length = g.lanes.length) :
    let r := h.writeLat (latList lats s v)
    r = { h with lanes := r.lanes } ∧ r.lanes.length = h.lanes.length ∧
      ∀ m, r.lane m = if m ∈ g.E then
        { h.lane m with lat := (if lats then some (v m) else none).getD (h.lane m).lat } else h.lane m := by
  subst hs
  unfold latList
  cases lats with
  | true => exact writeLat_spec s.me h v hl
  | false => exact ⟨rfl, rfl, fun m => by by_cases hm : m ∈ s.me.E <;> simp [hm, Group.writeLat]⟩

theorem flagList_spec (g h : Group) (w : BitVec 1) (s : State) (hs : s.me = g) (fl : Nat → Nzcv)
    (hl : h.lanes.length = g.lanes.length) :
    let r := h.writeFlags (flagList w s fl)
    r = { h with lanes := r.lanes } ∧ r.lanes.length = h.lanes.length ∧
      ∀ m, r.lane m = if m ∈ g.E then
        { h.lane m with th := { (h.lane m).th with nzcv := (if w == 1 then some (fl m) else none).getD (h.lane m).th.nzcv } }
        else h.lane m := by
  subst hs
  unfold flagList
  by_cases hw : w == 1
  · simp only [hw, if_true, Option.getD_some]
    exact writeFlags_spec s.me h fl hl
  · have hw' : (w == 1) = false := by simpa using hw
    simp only [hw']
    exact ⟨rfl, rfl, fun m => by by_cases hm : m ∈ s.me.E <;> simp [hm, Group.writeFlags]⟩

theorem regGroup_spec (s : State) (d : Spec) (w : BitVec 1) (lats : Bool) (val : Nat → Word) (fl : Nat → Nzcv) (ra : Nat → FpFlags) :
    let g := s.me
    let r := regGroup s d w lats val fl ra g
    r = { g with lanes := r.lanes, q := r.q } ∧ r.lanes.length = g.lanes.length ∧
    (∀ m, r.lane m = if m ∈ g.E then
        (let y := regChange (g.key d) (val m) (g.lane m)
         { y with lat := (if lats then some (val m) else none).getD y.lat, th := { y.th with
            nzcv := (if w == 1 then some (fl m) else none).getD y.th.nzcv, fpsr := y.th.fpsr ||| ra m } })
      else g.lane m) ∧
    r.q = (match g.key d with | .q n => (if g.E.isEmpty then g.q else tset n (val g.lowE) g.q) | _ => g.q) := by
  intro g r
  obtain ⟨a1, a2, a3⟩ := orFpsr_spec g g ra rfl
  generalize ha : (g.orFpsr (g.E.map fun l => (l, ra l))) = ga at a1 a2 a3
  obtain ⟨b1, b2, b3, b4⟩ := writeAll_spec g ga (g.key d) val a2
  generalize hb : (ga.writeAll (g.key d) (g.E.map fun l => (l, val l))) = gb at b1 b2 b3 b4
  obtain ⟨c1, c2, c3⟩ := latList_spec g gb lats s rfl val (b2.trans a2)
  generalize hc : (gb.writeLat (latList lats s val)) = gc at c1 c2 c3
  obtain ⟨d1, d2, d3⟩ := flagList_spec g gc w s rfl fl (c2.trans (b2.trans a2))
  have hr : r = gc.writeFlags (flagList w s fl) := by
    rw [← hc, ← hb, ← ha]; rfl
  rw [← hr] at d1 d2 d3
  have haq : ga.q = g.q := by rw [a1]
  have hq : r.q = gb.q := by rw [d1]; dsimp only; rw [c1]
  refine ⟨?_, d2.trans (c2.trans (b2.trans a2)), fun m => ?_, ?_⟩
  · rw [hq]
    rw [d1, c1]; dsimp only
    rw [b1, a1]
  · rw [d3 m, c3 m, b3 m, a3 m]
    by_cases hm : m ∈ g.E
    · simp only [hm, if_true]
      cases g.key d <;> rfl
    · simp [hm]
  · rw [hq, b4, haq] <;> cases g.key d <;> rfl

/-- The uniform registers after a register write. -/
def qAfter (g : Group) (k : RKey) (val : Nat → Word) : Tab Word :=
  match k with
  | .q n => if g.E.isEmpty then g.q else tset n (val g.lowE) g.q
  | _ => g.q

/-- Reading a register of a group whose lanes took a result. -/
theorem readKey_after (g h : Group) (k : RKey) (val : Nat → Word) (extra : Nat → Lane → Lane)
    (hv : ∀ m y, (extra m y).th.v = y.th.v) (ho : ∀ m y, (extra m y).th.o = y.th.o)
    (hlane : ∀ m, h.lane m = if m ∈ g.E then extra m (regChange k (val m) (g.lane m)) else g.lane m)
    (hq : h.q = qAfter g k val) (l : Nat)
    (k' : RKey) :
    (k' ≠ k → h.readKey l k' = g.readKey l k') ∧
    (k' = k → l ∈ g.E → h.readKey l k' = destVal g k val l) := by
  constructor
  · intro hne
    cases k' with
    | none => rfl
    | q n =>
      simp only [Group.readKey]
      rw [hq]
      unfold qAfter
      cases k with
      | q n' =>
        dsimp only
        split
        · rfl
        · rw [tgetD_tset_other _ _ _ (by simpa using hne)]
      | _ => rfl
    | v n =>
      simp only [Group.readKey]
      rw [hlane l]
      split
      · rw [hv]
        have := readKey_regChange k (.v n) (val l) (g.lane l)
        rw [if_neg hne] at this; exact this
      · rfl
    | o n =>
      simp only [Group.readKey]
      rw [hlane l]
      split
      · rw [ho]
        have := readKey_regChange k (.o n) (val l) (g.lane l)
        rw [if_neg hne] at this; exact this
      · rfl
  · intro heq hl
    subst heq
    cases k' with
    | none => rfl
    | q n =>
      have hne : g.E.isEmpty = false := by
        cases hE : g.E with
        | nil => rw [hE] at hl; simp at hl
        | cons a b => rfl
      simp only [Group.readKey]
      rw [hq]
      simp only [qAfter, hne]
      exact tgetD_tset_same _ _ _ _
    | v n =>
      simp only [Group.readKey]
      rw [hlane l, if_pos hl, hv]
      simp [regChange, tgetD_tset_same, destVal]
    | o n =>
      simp only [Group.readKey]
      rw [hlane l, if_pos hl, ho]
      simp [regChange, tgetD_tset_same, destVal]

/-- A result that goes on in place. -/
theorem reg_effect (s : State) (d : Spec) (w : BitVec 1) (lats : Bool) (val : Nat → Word) (fl : Nat → Nzcv) (ra : Nat → FpFlags) :
    RegEffect s ((s.modMe (regGroup s d w lats val fl ra)).goneTo s.nextWord) d val
      (fun l => if lats then some (val l) else none) (fun l => if w == 1 then some (fl l) else none) ra := by
  obtain ⟨h1, h2, h3, h4⟩ := regGroup_spec s d w lats val fl ra
  have hk := kept_goneTo s _ h2 h1 (fun _ => s.me.pc + 4)
  have hlane := lane_goneTo s _ h2 (fun _ => s.me.pc + 4)
  rw [show (s.me.E.map fun l => (l, s.me.pc + 4)) = s.nextWord from rfl] at hk hlane
  have hread := readKey_after s.me ((s.modMe (regGroup s d w lats val fl ra)).goneTo s.nextWord).me (s.me.key d) val
    (fun m y => { y with lat := (if lats then some (val m) else none).getD y.lat, pcv := s.me.pc + 4, freed := none, th := { y.th with
            nzcv := (if w == 1 then some (fl m) else none).getD y.th.nzcv, fpsr := y.th.fpsr ||| ra m } })
    (fun _ _ => rfl) (fun _ _ => rfl)
    (fun m => by
      rw [hlane m, h3 m]
      by_cases hm : m ∈ s.me.E <;> simp [hm])
    (hk.2.trans h4)
  refine ⟨onlyMe_goneTo s _ _, hk.1, fun l hl => ?_, fun l hl => ?_, fun l hl => (hread l _).2 rfl hl, fun l k hne => (hread l k).1 hne⟩
  · rw [hlane l, if_neg hl, h3 l, if_neg hl]
  · rw [hlane l, if_pos hl, h3 l, if_pos hl]
    cases s.me.key d <;> rfl

/-- A group whose lanes take no flag is the same group. -/
theorem imap_id_orFpsr (g : Group) (E : List Nat) : g.orFpsr (E.map fun l => (l, 0)) = g := by
  unfold Group.orFpsr
  induction E generalizing g with
  | nil => rfl
  | cons l E ih =>
    simp only [List.map_cons, List.foldl_cons]
    rw [show (g.modTh l fun t => { t with fpsr := t.fpsr ||| 0 }) = g from ?_]
    · exact ih g
    · have hz : ∀ x : FpFlags, x ||| 0 = x := fun x => by simp
      simp only [Group.modTh, Group.modLane, Group.setLane, hz]
      rw [show g.lanes.set l (g.lane l) = g.lanes from ?_]
      by_cases h : l < g.lanes.length
      · simp [Group.lane, h]
      · rw [List.set_eq_of_length_le (by omega)]

/-- A short-class result is the group's alone. -/
theorem putShort_eq (s : State) (d : Spec) (w : BitVec 1) (val : Nat → Word) (fl : Nat → Nzcv) :
    s.putShort d (s.me.E.map fun l => (l, val l)) (flagList w s fl) = s.modMe (regGroup s d w true val fl fun _ => 0) := by
  simp only [State.putShort, State.modMe, regGroup, latList, if_true, imap_id_orFpsr]

theorem putDirect_eq (s : State) (d : Spec) (val : Nat → Word) :
    s.putDirect d (s.me.E.map fun l => (l, val l)) = s.modMe (regGroup s d 0 false val (fun _ => 0) fun _ => 0) := by
  simp only [State.putDirect, State.modMe, regGroup, imap_id_orFpsr]
  rfl

/-- A short-class meaning with a result and flags in each lane. -/
theorem issue_short {i : Instr} {sem : State → Res} {s : State} (h : Issues i s) (hf : Falls s) (d : Spec) (w : BitVec 1)
    (f : Nat → Word × Nzcv) (hs : sem s = shortOp d w f s) :
    ∃ t, issue i sem s = .next t ∧
      ShortEffect s t d (fun l => (f l).1) (fun l => if w == 1 then some (f l).2 else none) fun _ => 0 := by
  refine ⟨_, issue_done h hf (hs.trans ?_), reg_effect s d w true (fun l => (f l).1) (fun l => (f l).2) fun _ => 0⟩
  rw [← putShort_eq]
  simp only [shortOp, flagList, List.map_map]
  rfl

theorem modMe_modMe (s : State) (f g : Group → Group) : (s.modMe f).modMe g = s.modMe fun x => g (f x) := by
  simp only [State.modMe, me_setMe]
  simp only [State.setMe, State.setGrp, tset_tset]

/-- A floating-point result with its flags is the group's alone. -/
theorem putShort_fp (s : State) (d : Spec) (w : BitVec 1) (val : Nat → Word) (fl : Nat → Nzcv) (ra : Nat → FpFlags) :
    (s.modMe fun g => g.orFpsr (s.me.E.map fun l => (l, ra l))).putShort d (s.me.E.map fun l => (l, val l)) (flagList w s fl) =
      s.modMe (regGroup s d w true val fl ra) := by
  simp only [State.putShort, modMe_modMe]
  simp only [State.modMe, regGroup, latList, if_true]
  have h := (orFpsr_spec s.me s.me ra rfl).1
  rw [show (s.me.orFpsr (s.me.E.map fun l => (l, ra l))).key d = s.me.key d from by unfold Group.key; rw [h]]

/-- The lanes' results of a floating-point instruction, as lists. -/
theorem issue_fp {i : Instr} {sem : State → Res} {s : State} (h : Issues i s) (hf : Falls s) (d : Spec) (w : BitVec 1)
    (r : Nat → FLane) (hl : ∀ l, (r l).lane = l) (hs : sem s = fpShort d w (s.me.E.map r) s)
    (hx : allFlags (s.me.E.map r) &&& s.fpTe = 0) :
    ∃ t, issue i sem s = .next t ∧
      ShortEffect s t d (fun l => (r l).val) (fun l => if w == 1 then some (r l).nzcv else none) fun l => (r l).flags := by
  refine ⟨_, issue_done h hf (hs.trans ?_),
    reg_effect s d w true (fun l => (r l).val) (fun l => (r l).nzcv) fun l => (r l).flags⟩
  rw [← putShort_fp]
  simp only [fpShort, fpEnd, hx, bne_self_eq_false, Bool.false_eq_true, if_false, List.map_map, flagList, Function.comp_def, hl]

/-- A floating-point instruction that would raise an enabled flag traps with no effect. -/
theorem issue_fpx {i : Instr} {sem : State → Res} {s : State} (h : Issues i s) (d : Spec) (w : BitVec 1)
    (r : Nat → FLane) (hs : sem s = fpShort d w (s.me.E.map r) s) (hx : allFlags (s.me.E.map r) &&& s.fpTe ≠ 0) :
    issue i sem s = .next (s.raise .fpx ((allFlags (s.me.E.map r)).setWidth 64)) := by
  refine issue_trap h (hs.trans ?_)
  simpa [fpShort, fpEnd] using hx

/-- A direct-class meaning. -/
theorem issue_direct {i : Instr} {sem : State → Res} {s : State} (h : Issues i s) (hf : Falls s) (d : Spec)
    (val : Nat → Word) (hs : sem s = .done (s.putDirect d (s.me.E.map fun l => (l, val l)))) :
    ∃ t, issue i sem s = .next t ∧ DirectEffect s t d val (fun _ => none) fun _ => 0 :=
  ⟨_, issue_done h hf (hs.trans (by rw [putDirect_eq])), reg_effect s d 0 false val (fun _ => 0) fun _ => 0⟩

end Sys2Proof.Machine
end

