-- ==== Sys2Proof/Laws/Long.lean ====
section
/-!
SUPPORT. What a long-class result does to every lane, the arrival of its value, and the direct-class results of the
special functions.
-/
namespace Sys2Proof.Machine

theorem pendAll_v (h : Group) (n : Nat) (vals : List (Nat × Word)) (src : Nat → Pend) :
    h.pendAll (.v n) vals src =
      vals.foldl (fun g p => g.pendKey p.1 { src p.1 with key := .v n, val := p.2 }) h := rfl

theorem pendAll_o (h : Group) (n : Nat) (vals : List (Nat × Word)) (src : Nat → Pend) :
    h.pendAll (.o n) vals src =
      vals.foldl (fun g p => g.pendKey p.1 { src p.1 with key := .o n, val := p.2 }) h := rfl

/-- The uniform registers' bits and writes in flight after a long-class result. -/
def qPendAfter (g h : Group) (k : RKey) (v : Nat → Word) (src : Nat → Pend) : List Nat × List Pend :=
  match k with
  | .q n =>
    if g.E.isEmpty then (h.qEmpty, h.qPend)
    else (n :: h.qEmpty.filter (· != n), h.qPend ++ [{ src g.lowE with key := .q n, val := v g.lowE, lanes := maskOf g.E }])
  | _ => (h.qEmpty, h.qPend)

theorem pendAll_spec (g h : Group) (k : RKey) (v : Nat → Word) (src : Nat → Pend)
    (hl : h.lanes.length = g.lanes.length) :
    let r := h.pendAll k (g.E.map fun l => (l, v l)) src
    r = { h with lanes := r.lanes, qEmpty := r.qEmpty, qPend := r.qPend } ∧ r.lanes.length = h.lanes.length ∧
      (∀ m, r.lane m = if m ∈ g.E then (h.lane m).awaits { src m with key := k, val := v m } else h.lane m) ∧
      (r.qEmpty, r.qPend) = qPendAfter g h k v src := by
  cases k with
  | none => exact ⟨rfl, rfl, fun m => by simp [Group.pendAll, Lane.awaits], rfl⟩
  | q n =>
    cases hE : g.E with
    | nil => exact ⟨rfl, rfl, fun m => by simp [Group.pendAll], by simp [Group.pendAll, qPendAfter, hE]⟩
    | cons l r =>
      refine ⟨rfl, rfl, fun m => ?_, ?_⟩
      · simp only [List.map_cons, Group.pendAll, Lane.awaits]; split <;> rfl
      · simp [Group.pendAll, Group.pendKey, qPendAfter, hE, Group.lowE, Function.comp_def]
  | v n =>
    have hf : (g.E.map fun l => (l, v l)).foldl
          (fun g p => g.pendKey p.1 { src p.1 with key := .v n, val := p.2 }) h =
        (g.E.map fun l => (l, ({ src l with key := .v n, val := v l } : Pend))).foldl
          (fun g p => g.modLane p.1 ((fun p x => { x with th := x.th.awaits { p with key := RKey.v n } }) p.2)) h := by
      rw [List.foldl_map, List.foldl_map]
      rfl
    obtain ⟨h1, h2, h3⟩ := foldl_E (fun (p : Pend) x => { x with th := x.th.awaits { p with key := RKey.v n } })
      (fun l => ({ src l with key := .v n, val := v l } : Pend)) g h hl
    rw [pendAll_v, hf]
    dsimp only at h1 h2 h3 ⊢
    refine ⟨?_, h2, h3, ?_⟩
    · have e1 := congrArg (fun g : Group => g.toGState.qEmpty) h1
      have e2 := congrArg (fun g : Group => g.toGState.qPend) h1
      dsimp only at e1 e2
      rw [e1, e2]; exact h1
    · rw [h1]; rfl
  | o n =>
    have hf : (g.E.map fun l => (l, v l)).foldl
          (fun g p => g.pendKey p.1 { src p.1 with key := .o n, val := p.2 }) h =
        (g.E.map fun l => (l, ({ src l with key := .o n, val := v l } : Pend))).foldl
          (fun g p => g.modLane p.1 ((fun p x => { x with th := x.th.awaits { p with key := RKey.o n } }) p.2)) h := by
      rw [List.foldl_map, List.foldl_map]
      rfl
    obtain ⟨h1, h2, h3⟩ := foldl_E (fun (p : Pend) x => { x with th := x.th.awaits { p with key := RKey.o n } })
      (fun l => ({ src l with key := .o n, val := v l } : Pend)) g h hl
    rw [pendAll_o, hf]
    dsimp only at h1 h2 h3 ⊢
    refine ⟨?_, h2, h3, ?_⟩
    · have e1 := congrArg (fun g : Group => g.toGState.qEmpty) h1
      have e2 := congrArg (fun g : Group => g.toGState.qPend) h1
      dsimp only at e1 e2
      rw [e1, e2]; exact h1
    · rw [h1]; rfl

/-- An instruction of OP 0x50 to 0x57 that raises no enabled flag. -/
theorem issue_special {i : Instr} {sem : State → Res} {s : State} (h : Issues i s) (hf : Falls s) (f : Fmt) (d a : Spec)
    (w : BitVec 1) (op : State → Nat → FRes) (hs : sem s = specialOp f d a w op s)
    (hx : allFlags (s.me.E.map fun l => FLane.of f l (op s (f.flush (s.ftz f) (s.rdF f a l)))) &&& s.fpTe = 0) :
    ∃ t, issue i sem s = .next t ∧
      DirectEffect s t d (fun l => BitVec.ofNat 64 (op s (f.flush (s.ftz f) (s.rdF f a l))).1)
        (fun l => if w == 1 then some (fpNzcv f (op s (f.flush (s.ftz f) (s.rdF f a l))).1) else none)
        fun l => (op s (f.flush (s.ftz f) (s.rdF f a l))).2 := by
  refine ⟨_, issue_done h hf (hs.trans ?_),
    reg_effect s d w false (fun l => BitVec.ofNat 64 (op s (f.flush (s.ftz f) (s.rdF f a l))).1)
      (fun l => fpNzcv f (op s (f.flush (s.ftz f) (s.rdF f a l))).1) fun l => (op s (f.flush (s.ftz f) (s.rdF f a l))).2⟩
  simp only [specialOp, fpEnd]
  rw [if_neg (by rw [hx]; simp)]
  simp only [List.map_map, Function.comp_def, FLane.of, State.putDirect, modMe_modMe]
  simp only [State.modMe, regGroup, latList, flagList]
  have h := (orFpsr_spec s.me s.me (fun l => (op s (f.flush (s.ftz f) (s.rdF f a l))).2) rfl).1
  have hk : (s.me.orFpsr (s.me.E.map fun l => (l, (op s (f.flush (s.ftz f) (s.rdF f a l))).2))).key d = s.me.key d := by
    unfold Group.key; rw [h]
  rw [hk]
  cases hw : (w == 1)
  · simp only [Bool.false_eq_true, if_false, Group.writeLat, Group.writeFlags, List.foldl_nil]
  · simp only [Bool.false_eq_true, if_true, if_false, Group.writeLat, List.foldl_nil]

end Sys2Proof.Machine
end

