-- ==== Sys2Proof/Laws/PerInstr.lean ====
section
/-!
SUPPORT. The round trip of each instruction: what its word decodes to, one lemma for each constructor.
-/
namespace Sys2Proof.Laws.Roundtrip
open Sys2Proof

/-- Decoding the word of an instruction gives the instruction. -/
def Statement (i : Instr) : Prop := ∀ x, encode i = some x → decode x = .ok i

theorem toNat_word {n : Nat} {x : IWord} (h : some (BitVec.ofNat 32 n) = some x) (hn : n < 2 ^ 32) : x.toNat = n := by
  rw [← Option.some.inj h, BitVec.toNat_ofNat]
  exact Nat.mod_eq_of_lt hn

theorem field_of {x : IWord} {lo n : Nat} {d : BitVec n} (h : bitsAt x lo n = d.toNat) : fieldAt x lo n = d := by
  apply BitVec.eq_of_toNat_eq
  rw [fieldAt, BitVec.toNat_ofNat]
  exact h

theorem none_statement {i : Instr} (h : encode i = none) : Statement i := fun x hx => by
  rw [h] at hx; exact absurd hx (by simp)

/-- The fields of a word with three fields of seven bits and three bits below them. -/
structure TWord (x : IWord) (op dn an bn ln : Nat) : Prop where
  hi : bitsAt x 28 4 = op / 16
  lo : bitsAt x 24 4 = op % 16
  d : bitsAt x 17 7 = dn
  a : bitsAt x 10 7 = an
  b : bitsAt x 3 7 = bn
  low : bitsAt x 0 3 = ln
  w : bitsAt x 2 1 = ln / 4
  f : bitsAt x 1 1 = ln / 2 % 2
  g : bitsAt x 0 1 = ln % 2
  val : x.toNat = op * 2 ^ 24 + dn * 2 ^ 17 + an * 2 ^ 10 + bn * 2 ^ 3 + ln

theorem wordT_at {m op dn an low : Nat} {d a b : BitVec 7} {x : IWord} (h : wordT m d a b low = some x)
    (hm : m + d.toNat * 2 ^ 17 + a.toNat * 2 ^ 10 = op * 2 ^ 24 + dn * 2 ^ 17 + an * 2 ^ 10) (ho : op < 256) (hd : dn < 128)
    (ha : an < 128) (hl : low < 8) :
    TWord x op dn an b.toNat low := by
  have hb := b.isLt
  have hx : x.toNat = m + d.toNat * 2 ^ 17 + a.toNat * 2 ^ 10 + b.toNat * 2 ^ 3 + low := toNat_word h (by omega)
  constructor <;> first | (unfold bitsAt; omega) | omega

theorem wordI10_at {m op : Nat} {d a : BitVec 7} {i : BitVec 10} {x : IWord} (h : wordI10 m d a i = some x)
    (hm : m = op * 2 ^ 24) (ho : op < 256) :
    bitsAt x 28 4 = op / 16 ∧ bitsAt x 24 4 = op % 16 ∧ bitsAt x 17 7 = d.toNat ∧ bitsAt x 10 7 = a.toNat ∧
      bitsAt x 0 10 = i.toNat := by
  have hd := d.isLt
  have ha := a.isLt
  have hi := i.isLt
  have hx : x.toNat = m + d.toNat * 2 ^ 17 + a.toNat * 2 ^ 10 + i.toNat := toNat_word h (by omega)
  unfold bitsAt
  omega

theorem low3_lt (w f g : BitVec 1) : low3 w f g < 8 := by
  have := w.isLt
  have := f.isLt
  have := g.isLt
  unfold low3; omega

theorem low3_w (w f g : BitVec 1) : low3 w f g / 4 = w.toNat := by
  have := f.isLt
  have := g.isLt
  unfold low3; omega

theorem low3_f (w f g : BitVec 1) : low3 w f g / 2 % 2 = f.toNat := by
  have := f.isLt
  have := g.isLt
  unfold low3; omega

theorem low3_g (w f g : BitVec 1) : low3 w f g % 2 = g.toNat := by
  have := g.isLt
  unfold low3; omega

theorem add (d : BitVec 7) (a : BitVec 7) (b : BitVec 7) (w : BitVec 1) (f : BitVec 1) (g : BitVec 1) : Statement (.add d a b w f g) := by
  intro z hw
  have t := wordT_at (op := 1) (dn := d.toNat) (an := a.toNat) hw (by omega) (by decide) (d.isLt) (a.isLt) (low3_lt _ _ _)
  have e1 := t.hi
  have e2 := t.lo
  have f0 : fieldAt z 17 7 = d := field_of (t.d)
  have f1 : fieldAt z 10 7 = a := field_of (t.a)
  have f2 : fieldAt z 3 7 = b := field_of (t.b)
  have f3 : fieldAt z 2 1 = w := field_of (t.w.trans (low3_w _ _ _))
  have f4 : fieldAt z 1 1 = f := field_of (t.f.trans (low3_f _ _ _))
  have f5 : fieldAt z 0 1 = g := field_of (t.g.trans (low3_g _ _ _))
  unfold decode
  simp only [e1, e2, decodeRow0, f0, f1, f2, f3, f4, f5]

theorem sub (d : BitVec 7) (a : BitVec 7) (b : BitVec 7) (w : BitVec 1) (f : BitVec 1) (g : BitVec 1) : Statement (.sub d a b w f g) := by
  intro z hw
  have t := wordT_at (op := 2) (dn := d.toNat) (an := a.toNat) hw (by omega) (by decide) (d.isLt) (a.isLt) (low3_lt _ _ _)
  have e1 := t.hi
  have e2 := t.lo
  have f0 : fieldAt z 17 7 = d := field_of (t.d)
  have f1 : fieldAt z 10 7 = a := field_of (t.a)
  have f2 : fieldAt z 3 7 = b := field_of (t.b)
  have f3 : fieldAt z 2 1 = w := field_of (t.w.trans (low3_w _ _ _))
  have f4 : fieldAt z 1 1 = f := field_of (t.f.trans (low3_f _ _ _))
  have f5 : fieldAt z 0 1 = g := field_of (t.g.trans (low3_g _ _ _))
  unfold decode
  simp only [e1, e2, decodeRow0, f0, f1, f2, f3, f4, f5]

theorem mul (d : BitVec 7) (a : BitVec 7) (b : BitVec 7) (w : BitVec 1) (f : BitVec 1) (g : BitVec 1) : Statement (.mul d a b w f g) := by
  intro z hw
  have t := wordT_at (op := 3) (dn := d.toNat) (an := a.toNat) hw (by omega) (by decide) (d.isLt) (a.isLt) (low3_lt _ _ _)
  have e1 := t.hi
  have e2 := t.lo
  have f0 : fieldAt z 17 7 = d := field_of (t.d)
  have f1 : fieldAt z 10 7 = a := field_of (t.a)
  have f2 : fieldAt z 3 7 = b := field_of (t.b)
  have f3 : fieldAt z 2 1 = w := field_of (t.w.trans (low3_w _ _ _))
  have f4 : fieldAt z 1 1 = f := field_of (t.f.trans (low3_f _ _ _))
  have f5 : fieldAt z 0 1 = g := field_of (t.g.trans (low3_g _ _ _))
  unfold decode
  simp only [e1, e2, decodeRow0, f0, f1, f2, f3, f4, f5]

theorem mulhS (d : BitVec 7) (a : BitVec 7) (b : BitVec 7) (w : BitVec 1) (f : BitVec 1) (g : BitVec 1) : Statement (.mulhS d a b w f g) := by
  intro z hw
  have t := wordT_at (op := 4) (dn := d.toNat) (an := a.toNat) hw (by omega) (by decide) (d.isLt) (a.isLt) (low3_lt _ _ _)
  have e1 := t.hi
  have e2 := t.lo
  have f0 : fieldAt z 17 7 = d := field_of (t.d)
  have f1 : fieldAt z 10 7 = a := field_of (t.a)
  have f2 : fieldAt z 3 7 = b := field_of (t.b)
  have f3 : fieldAt z 2 1 = w := field_of (t.w.trans (low3_w _ _ _))
  have f4 : fieldAt z 1 1 = f := field_of (t.f.trans (low3_f _ _ _))
  have f5 : fieldAt z 0 1 = g := field_of (t.g.trans (low3_g _ _ _))
  unfold decode
  simp only [e1, e2, decodeRow0, f0, f1, f2, f3, f4, f5]

theorem mulhZ (d : BitVec 7) (a : BitVec 7) (b : BitVec 7) (w : BitVec 1) (f : BitVec 1) (g : BitVec 1) : Statement (.mulhZ d a b w f g) := by
  intro z hw
  have t := wordT_at (op := 5) (dn := d.toNat) (an := a.toNat) hw (by omega) (by decide) (d.isLt) (a.isLt) (low3_lt _ _ _)
  have e1 := t.hi
  have e2 := t.lo
  have f0 : fieldAt z 17 7 = d := field_of (t.d)
  have f1 : fieldAt z 10 7 = a := field_of (t.a)
  have f2 : fieldAt z 3 7 = b := field_of (t.b)
  have f3 : fieldAt z 2 1 = w := field_of (t.w.trans (low3_w _ _ _))
  have f4 : fieldAt z 1 1 = f := field_of (t.f.trans (low3_f _ _ _))
  have f5 : fieldAt z 0 1 = g := field_of (t.g.trans (low3_g _ _ _))
  unfold decode
  simp only [e1, e2, decodeRow0, f0, f1, f2, f3, f4, f5]

theorem and (d : BitVec 7) (a : BitVec 7) (b : BitVec 7) (w : BitVec 1) (f : BitVec 1) (g : BitVec 1) : Statement (.and d a b w f g) := by
  intro z hw
  have t := wordT_at (op := 6) (dn := d.toNat) (an := a.toNat) hw (by omega) (by decide) (d.isLt) (a.isLt) (low3_lt _ _ _)
  have e1 := t.hi
  have e2 := t.lo
  have f0 : fieldAt z 17 7 = d := field_of (t.d)
  have f1 : fieldAt z 10 7 = a := field_of (t.a)
  have f2 : fieldAt z 3 7 = b := field_of (t.b)
  have f3 : fieldAt z 2 1 = w := field_of (t.w.trans (low3_w _ _ _))
  have f4 : fieldAt z 1 1 = f := field_of (t.f.trans (low3_f _ _ _))
  have f5 : fieldAt z 0 1 = g := field_of (t.g.trans (low3_g _ _ _))
  unfold decode
  simp only [e1, e2, decodeRow0, f0, f1, f2, f3, f4, f5]

theorem or (d : BitVec 7) (a : BitVec 7) (b : BitVec 7) (w : BitVec 1) (f : BitVec 1) (g : BitVec 1) : Statement (.or d a b w f g) := by
  intro z hw
  have t := wordT_at (op := 7) (dn := d.toNat) (an := a.toNat) hw (by omega) (by decide) (d.isLt) (a.isLt) (low3_lt _ _ _)
  have e1 := t.hi
  have e2 := t.lo
  have f0 : fieldAt z 17 7 = d := field_of (t.d)
  have f1 : fieldAt z 10 7 = a := field_of (t.a)
  have f2 : fieldAt z 3 7 = b := field_of (t.b)
  have f3 : fieldAt z 2 1 = w := field_of (t.w.trans (low3_w _ _ _))
  have f4 : fieldAt z 1 1 = f := field_of (t.f.trans (low3_f _ _ _))
  have f5 : fieldAt z 0 1 = g := field_of (t.g.trans (low3_g _ _ _))
  unfold decode
  simp only [e1, e2, decodeRow0, f0, f1, f2, f3, f4, f5]

theorem xor (d : BitVec 7) (a : BitVec 7) (b : BitVec 7) (w : BitVec 1) (f : BitVec 1) (g : BitVec 1) : Statement (.xor d a b w f g) := by
  intro z hw
  have t := wordT_at (op := 8) (dn := d.toNat) (an := a.toNat) hw (by omega) (by decide) (d.isLt) (a.isLt) (low3_lt _ _ _)
  have e1 := t.hi
  have e2 := t.lo
  have f0 : fieldAt z 17 7 = d := field_of (t.d)
  have f1 : fieldAt z 10 7 = a := field_of (t.a)
  have f2 : fieldAt z 3 7 = b := field_of (t.b)
  have f3 : fieldAt z 2 1 = w := field_of (t.w.trans (low3_w _ _ _))
  have f4 : fieldAt z 1 1 = f := field_of (t.f.trans (low3_f _ _ _))
  have f5 : fieldAt z 0 1 = g := field_of (t.g.trans (low3_g _ _ _))
  unfold decode
  simp only [e1, e2, decodeRow0, f0, f1, f2, f3, f4, f5]

theorem shl (d : BitVec 7) (a : BitVec 7) (b : BitVec 7) (w : BitVec 1) (f : BitVec 1) (g : BitVec 1) : Statement (.shl d a b w f g) := by
  intro z hw
  have t := wordT_at (op := 9) (dn := d.toNat) (an := a.toNat) hw (by omega) (by decide) (d.isLt) (a.isLt) (low3_lt _ _ _)
  have e1 := t.hi
  have e2 := t.lo
  have f0 : fieldAt z 17 7 = d := field_of (t.d)
  have f1 : fieldAt z 10 7 = a := field_of (t.a)
  have f2 : fieldAt z 3 7 = b := field_of (t.b)
  have f3 : fieldAt z 2 1 = w := field_of (t.w.trans (low3_w _ _ _))
  have f4 : fieldAt z 1 1 = f := field_of (t.f.trans (low3_f _ _ _))
  have f5 : fieldAt z 0 1 = g := field_of (t.g.trans (low3_g _ _ _))
  unfold decode
  simp only [e1, e2, decodeRow0, f0, f1, f2, f3, f4, f5]

theorem shr (d : BitVec 7) (a : BitVec 7) (b : BitVec 7) (w : BitVec 1) (f : BitVec 1) (g : BitVec 1) : Statement (.shr d a b w f g) := by
  intro z hw
  have t := wordT_at (op := 10) (dn := d.toNat) (an := a.toNat) hw (by omega) (by decide) (d.isLt) (a.isLt) (low3_lt _ _ _)
  have e1 := t.hi
  have e2 := t.lo
  have f0 : fieldAt z 17 7 = d := field_of (t.d)
  have f1 : fieldAt z 10 7 = a := field_of (t.a)
  have f2 : fieldAt z 3 7 = b := field_of (t.b)
  have f3 : fieldAt z 2 1 = w := field_of (t.w.trans (low3_w _ _ _))
  have f4 : fieldAt z 1 1 = f := field_of (t.f.trans (low3_f _ _ _))
  have f5 : fieldAt z 0 1 = g := field_of (t.g.trans (low3_g _ _ _))
  unfold decode
  simp only [e1, e2, decodeRow0, f0, f1, f2, f3, f4, f5]

theorem sar (d : BitVec 7) (a : BitVec 7) (b : BitVec 7) (w : BitVec 1) (f : BitVec 1) (g : BitVec 1) : Statement (.sar d a b w f g) := by
  intro z hw
  have t := wordT_at (op := 11) (dn := d.toNat) (an := a.toNat) hw (by omega) (by decide) (d.isLt) (a.isLt) (low3_lt _ _ _)
  have e1 := t.hi
  have e2 := t.lo
  have f0 : fieldAt z 17 7 = d := field_of (t.d)
  have f1 : fieldAt z 10 7 = a := field_of (t.a)
  have f2 : fieldAt z 3 7 = b := field_of (t.b)
  have f3 : fieldAt z 2 1 = w := field_of (t.w.trans (low3_w _ _ _))
  have f4 : fieldAt z 1 1 = f := field_of (t.f.trans (low3_f _ _ _))
  have f5 : fieldAt z 0 1 = g := field_of (t.g.trans (low3_g _ _ _))
  unfold decode
  simp only [e1, e2, decodeRow0, f0, f1, f2, f3, f4, f5]

theorem minS (d : BitVec 7) (a : BitVec 7) (b : BitVec 7) (w : BitVec 1) (f : BitVec 1) (g : BitVec 1) : Statement (.minS d a b w f g) := by
  intro z hw
  have t := wordT_at (op := 12) (dn := d.toNat) (an := a.toNat) hw (by omega) (by decide) (d.isLt) (a.isLt) (low3_lt _ _ _)
  have e1 := t.hi
  have e2 := t.lo
  have f0 : fieldAt z 17 7 = d := field_of (t.d)
  have f1 : fieldAt z 10 7 = a := field_of (t.a)
  have f2 : fieldAt z 3 7 = b := field_of (t.b)
  have f3 : fieldAt z 2 1 = w := field_of (t.w.trans (low3_w _ _ _))
  have f4 : fieldAt z 1 1 = f := field_of (t.f.trans (low3_f _ _ _))
  have f5 : fieldAt z 0 1 = g := field_of (t.g.trans (low3_g _ _ _))
  unfold decode
  simp only [e1, e2, decodeRow0, f0, f1, f2, f3, f4, f5]

theorem maxS (d : BitVec 7) (a : BitVec 7) (b : BitVec 7) (w : BitVec 1) (f : BitVec 1) (g : BitVec 1) : Statement (.maxS d a b w f g) := by
  intro z hw
  have t := wordT_at (op := 13) (dn := d.toNat) (an := a.toNat) hw (by omega) (by decide) (d.isLt) (a.isLt) (low3_lt _ _ _)
  have e1 := t.hi
  have e2 := t.lo
  have f0 : fieldAt z 17 7 = d := field_of (t.d)
  have f1 : fieldAt z 10 7 = a := field_of (t.a)
  have f2 : fieldAt z 3 7 = b := field_of (t.b)
  have f3 : fieldAt z 2 1 = w := field_of (t.w.trans (low3_w _ _ _))
  have f4 : fieldAt z 1 1 = f := field_of (t.f.trans (low3_f _ _ _))
  have f5 : fieldAt z 0 1 = g := field_of (t.g.trans (low3_g _ _ _))
  unfold decode
  simp only [e1, e2, decodeRow0, f0, f1, f2, f3, f4, f5]

theorem minZ (d : BitVec 7) (a : BitVec 7) (b : BitVec 7) (w : BitVec 1) (f : BitVec 1) (g : BitVec 1) : Statement (.minZ d a b w f g) := by
  intro z hw
  have t := wordT_at (op := 14) (dn := d.toNat) (an := a.toNat) hw (by omega) (by decide) (d.isLt) (a.isLt) (low3_lt _ _ _)
  have e1 := t.hi
  have e2 := t.lo
  have f0 : fieldAt z 17 7 = d := field_of (t.d)
  have f1 : fieldAt z 10 7 = a := field_of (t.a)
  have f2 : fieldAt z 3 7 = b := field_of (t.b)
  have f3 : fieldAt z 2 1 = w := field_of (t.w.trans (low3_w _ _ _))
  have f4 : fieldAt z 1 1 = f := field_of (t.f.trans (low3_f _ _ _))
  have f5 : fieldAt z 0 1 = g := field_of (t.g.trans (low3_g _ _ _))
  unfold decode
  simp only [e1, e2, decodeRow0, f0, f1, f2, f3, f4, f5]

theorem maxZ (d : BitVec 7) (a : BitVec 7) (b : BitVec 7) (w : BitVec 1) (f : BitVec 1) (g : BitVec 1) : Statement (.maxZ d a b w f g) := by
  intro z hw
  have t := wordT_at (op := 15) (dn := d.toNat) (an := a.toNat) hw (by omega) (by decide) (d.isLt) (a.isLt) (low3_lt _ _ _)
  have e1 := t.hi
  have e2 := t.lo
  have f0 : fieldAt z 17 7 = d := field_of (t.d)
  have f1 : fieldAt z 10 7 = a := field_of (t.a)
  have f2 : fieldAt z 3 7 = b := field_of (t.b)
  have f3 : fieldAt z 2 1 = w := field_of (t.w.trans (low3_w _ _ _))
  have f4 : fieldAt z 1 1 = f := field_of (t.f.trans (low3_f _ _ _))
  have f5 : fieldAt z 0 1 = g := field_of (t.g.trans (low3_g _ _ _))
  unfold decode
  simp only [e1, e2, decodeRow0, f0, f1, f2, f3, f4, f5]

theorem adc (d : BitVec 7) (a : BitVec 7) (b : BitVec 7) (w : BitVec 1) (f : BitVec 1) (g : BitVec 1) : Statement (.adc d a b w f g) := by
  intro z hw
  have t := wordT_at (op := 16) (dn := d.toNat) (an := a.toNat) hw (by omega) (by decide) (d.isLt) (a.isLt) (low3_lt _ _ _)
  have e1 := t.hi
  have e2 := t.lo
  have f0 : fieldAt z 17 7 = d := field_of (t.d)
  have f1 : fieldAt z 10 7 = a := field_of (t.a)
  have f2 : fieldAt z 3 7 = b := field_of (t.b)
  have f3 : fieldAt z 2 1 = w := field_of (t.w.trans (low3_w _ _ _))
  have f4 : fieldAt z 1 1 = f := field_of (t.f.trans (low3_f _ _ _))
  have f5 : fieldAt z 0 1 = g := field_of (t.g.trans (low3_g _ _ _))
  unfold decode
  simp only [e1, e2, decodeRow1, f0, f1, f2, f3, f4, f5]

theorem sbc (d : BitVec 7) (a : BitVec 7) (b : BitVec 7) (w : BitVec 1) (f : BitVec 1) (g : BitVec 1) : Statement (.sbc d a b w f g) := by
  intro z hw
  have t := wordT_at (op := 17) (dn := d.toNat) (an := a.toNat) hw (by omega) (by decide) (d.isLt) (a.isLt) (low3_lt _ _ _)
  have e1 := t.hi
  have e2 := t.lo
  have f0 : fieldAt z 17 7 = d := field_of (t.d)
  have f1 : fieldAt z 10 7 = a := field_of (t.a)
  have f2 : fieldAt z 3 7 = b := field_of (t.b)
  have f3 : fieldAt z 2 1 = w := field_of (t.w.trans (low3_w _ _ _))
  have f4 : fieldAt z 1 1 = f := field_of (t.f.trans (low3_f _ _ _))
  have f5 : fieldAt z 0 1 = g := field_of (t.g.trans (low3_g _ _ _))
  unfold decode
  simp only [e1, e2, decodeRow1, f0, f1, f2, f3, f4, f5]

theorem cmpS (a : BitVec 7) (b : BitVec 7) (f : BitVec 1) (g : BitVec 1) : Statement (.cmpS a b f g) := by
  intro z hw
  have t := wordT_at (op := 18) (dn := 121) (an := a.toNat) hw (by simp) (by decide) (by decide) (a.isLt) (low3_lt _ _ _)
  have e1 := t.hi
  have e2 := t.lo
  have f0 : fieldAt z 10 7 = a := field_of (t.a)
  have f1 : fieldAt z 3 7 = b := field_of (t.b)
  have f2 : fieldAt z 1 1 = f := field_of (t.f.trans (low3_f _ _ _))
  have f3 : fieldAt z 0 1 = g := field_of (t.g.trans (low3_g _ _ _))
  have g0 : bitsAt z 17 7 = 121 := t.d
  have g1 : bitsAt z 2 1 = 0 := t.w.trans (low3_w _ _ _)
  unfold decode
  simp only [e1, e2, guardFixed, beq_self_eq_true, Bool.and_self, if_true, decodeRow1, f0, f1, f2, f3, g0, g1]

theorem cmpZ (a : BitVec 7) (b : BitVec 7) (f : BitVec 1) (g : BitVec 1) : Statement (.cmpZ a b f g) := by
  intro z hw
  have t := wordT_at (op := 19) (dn := 121) (an := a.toNat) hw (by simp) (by decide) (by decide) (a.isLt) (low3_lt _ _ _)
  have e1 := t.hi
  have e2 := t.lo
  have f0 : fieldAt z 10 7 = a := field_of (t.a)
  have f1 : fieldAt z 3 7 = b := field_of (t.b)
  have f2 : fieldAt z 1 1 = f := field_of (t.f.trans (low3_f _ _ _))
  have f3 : fieldAt z 0 1 = g := field_of (t.g.trans (low3_g _ _ _))
  have g0 : bitsAt z 17 7 = 121 := t.d
  have g1 : bitsAt z 2 1 = 0 := t.w.trans (low3_w _ _ _)
  unfold decode
  simp only [e1, e2, guardFixed, beq_self_eq_true, Bool.and_self, if_true, decodeRow1, f0, f1, f2, f3, g0, g1]

theorem divS (d : BitVec 7) (a : BitVec 7) (b : BitVec 7) (w : BitVec 1) (f : BitVec 1) (g : BitVec 1) : Statement (.divS d a b w f g) := by
  intro z hw
  have t := wordT_at (op := 20) (dn := d.toNat) (an := a.toNat) hw (by omega) (by decide) (d.isLt) (a.isLt) (low3_lt _ _ _)
  have e1 := t.hi
  have e2 := t.lo
  have f0 : fieldAt z 17 7 = d := field_of (t.d)
  have f1 : fieldAt z 10 7 = a := field_of (t.a)
  have f2 : fieldAt z 3 7 = b := field_of (t.b)
  have f3 : fieldAt z 2 1 = w := field_of (t.w.trans (low3_w _ _ _))
  have f4 : fieldAt z 1 1 = f := field_of (t.f.trans (low3_f _ _ _))
  have f5 : fieldAt z 0 1 = g := field_of (t.g.trans (low3_g _ _ _))
  unfold decode
  simp only [e1, e2, decodeRow1, f0, f1, f2, f3, f4, f5]

theorem divZ (d : BitVec 7) (a : BitVec 7) (b : BitVec 7) (w : BitVec 1) (f : BitVec 1) (g : BitVec 1) : Statement (.divZ d a b w f g) := by
  intro z hw
  have t := wordT_at (op := 21) (dn := d.toNat) (an := a.toNat) hw (by omega) (by decide) (d.isLt) (a.isLt) (low3_lt _ _ _)
  have e1 := t.hi
  have e2 := t.lo
  have f0 : fieldAt z 17 7 = d := field_of (t.d)
  have f1 : fieldAt z 10 7 = a := field_of (t.a)
  have f2 : fieldAt z 3 7 = b := field_of (t.b)
  have f3 : fieldAt z 2 1 = w := field_of (t.w.trans (low3_w _ _ _))
  have f4 : fieldAt z 1 1 = f := field_of (t.f.trans (low3_f _ _ _))
  have f5 : fieldAt z 0 1 = g := field_of (t.g.trans (low3_g _ _ _))
  unfold decode
  simp only [e1, e2, decodeRow1, f0, f1, f2, f3, f4, f5]

theorem remS (d : BitVec 7) (a : BitVec 7) (b : BitVec 7) (w : BitVec 1) (f : BitVec 1) (g : BitVec 1) : Statement (.remS d a b w f g) := by
  intro z hw
  have t := wordT_at (op := 22) (dn := d.toNat) (an := a.toNat) hw (by omega) (by decide) (d.isLt) (a.isLt) (low3_lt _ _ _)
  have e1 := t.hi
  have e2 := t.lo
  have f0 : fieldAt z 17 7 = d := field_of (t.d)
  have f1 : fieldAt z 10 7 = a := field_of (t.a)
  have f2 : fieldAt z 3 7 = b := field_of (t.b)
  have f3 : fieldAt z 2 1 = w := field_of (t.w.trans (low3_w _ _ _))
  have f4 : fieldAt z 1 1 = f := field_of (t.f.trans (low3_f _ _ _))
  have f5 : fieldAt z 0 1 = g := field_of (t.g.trans (low3_g _ _ _))
  unfold decode
  simp only [e1, e2, decodeRow1, f0, f1, f2, f3, f4, f5]

theorem remZ (d : BitVec 7) (a : BitVec 7) (b : BitVec 7) (w : BitVec 1) (f : BitVec 1) (g : BitVec 1) : Statement (.remZ d a b w f g) := by
  intro z hw
  have t := wordT_at (op := 23) (dn := d.toNat) (an := a.toNat) hw (by omega) (by decide) (d.isLt) (a.isLt) (low3_lt _ _ _)
  have e1 := t.hi
  have e2 := t.lo
  have f0 : fieldAt z 17 7 = d := field_of (t.d)
  have f1 : fieldAt z 10 7 = a := field_of (t.a)
  have f2 : fieldAt z 3 7 = b := field_of (t.b)
  have f3 : fieldAt z 2 1 = w := field_of (t.w.trans (low3_w _ _ _))
  have f4 : fieldAt z 1 1 = f := field_of (t.f.trans (low3_f _ _ _))
  have f5 : fieldAt z 0 1 = g := field_of (t.g.trans (low3_g _ _ _))
  unfold decode
  simp only [e1, e2, decodeRow1, f0, f1, f2, f3, f4, f5]

theorem addW (d : BitVec 7) (a : BitVec 7) (b : BitVec 7) (w : BitVec 1) (f : BitVec 1) (g : BitVec 1) : Statement (.addW d a b w f g) := by
  intro z hw
  have t := wordT_at (op := 24) (dn := d.toNat) (an := a.toNat) hw (by omega) (by decide) (d.isLt) (a.isLt) (low3_lt _ _ _)
  have e1 := t.hi
  have e2 := t.lo
  have f0 : fieldAt z 17 7 = d := field_of (t.d)
  have f1 : fieldAt z 10 7 = a := field_of (t.a)
  have f2 : fieldAt z 3 7 = b := field_of (t.b)
  have f3 : fieldAt z 2 1 = w := field_of (t.w.trans (low3_w _ _ _))
  have f4 : fieldAt z 1 1 = f := field_of (t.f.trans (low3_f _ _ _))
  have f5 : fieldAt z 0 1 = g := field_of (t.g.trans (low3_g _ _ _))
  unfold decode
  simp only [e1, e2, decodeRow1, f0, f1, f2, f3, f4, f5]

theorem subW (d : BitVec 7) (a : BitVec 7) (b : BitVec 7) (w : BitVec 1) (f : BitVec 1) (g : BitVec 1) : Statement (.subW d a b w f g) := by
  intro z hw
  have t := wordT_at (op := 25) (dn := d.toNat) (an := a.toNat) hw (by omega) (by decide) (d.isLt) (a.isLt) (low3_lt _ _ _)
  have e1 := t.hi
  have e2 := t.lo
  have f0 : fieldAt z 17 7 = d := field_of (t.d)
  have f1 : fieldAt z 10 7 = a := field_of (t.a)
  have f2 : fieldAt z 3 7 = b := field_of (t.b)
  have f3 : fieldAt z 2 1 = w := field_of (t.w.trans (low3_w _ _ _))
  have f4 : fieldAt z 1 1 = f := field_of (t.f.trans (low3_f _ _ _))
  have f5 : fieldAt z 0 1 = g := field_of (t.g.trans (low3_g _ _ _))
  unfold decode
  simp only [e1, e2, decodeRow1, f0, f1, f2, f3, f4, f5]

theorem mulW (d : BitVec 7) (a : BitVec 7) (b : BitVec 7) (w : BitVec 1) (f : BitVec 1) (g : BitVec 1) : Statement (.mulW d a b w f g) := by
  intro z hw
  have t := wordT_at (op := 26) (dn := d.toNat) (an := a.toNat) hw (by omega) (by decide) (d.isLt) (a.isLt) (low3_lt _ _ _)
  have e1 := t.hi
  have e2 := t.lo
  have f0 : fieldAt z 17 7 = d := field_of (t.d)
  have f1 : fieldAt z 10 7 = a := field_of (t.a)
  have f2 : fieldAt z 3 7 = b := field_of (t.b)
  have f3 : fieldAt z 2 1 = w := field_of (t.w.trans (low3_w _ _ _))
  have f4 : fieldAt z 1 1 = f := field_of (t.f.trans (low3_f _ _ _))
  have f5 : fieldAt z 0 1 = g := field_of (t.g.trans (low3_g _ _ _))
  unfold decode
  simp only [e1, e2, decodeRow1, f0, f1, f2, f3, f4, f5]

theorem popc (d : BitVec 7) (a : BitVec 7) (w : BitVec 1) (f : BitVec 1) : Statement (.popc d a w f) := by
  intro z hw
  have t := wordT_at (op := 27) (dn := d.toNat) (an := a.toNat) hw (by omega) (by decide) (d.isLt) (a.isLt) (low3_lt _ _ _)
  have e1 := t.hi
  have e2 := t.lo
  have f0 : fieldAt z 17 7 = d := field_of (t.d)
  have f1 : fieldAt z 10 7 = a := field_of (t.a)
  have f2 : fieldAt z 2 1 = w := field_of (t.w.trans (low3_w _ _ _))
  have f3 : fieldAt z 1 1 = f := field_of (t.f.trans (low3_f _ _ _))
  have g0 : bitsAt z 3 7 = 0 := t.b
  have g1 : bitsAt z 0 1 = 0 := t.g.trans (low3_g _ _ _)
  unfold decode
  simp only [e1, e2, guardFixed, beq_self_eq_true, Bool.and_self, if_true, decodeRow1, f0, f1, f2, f3, g0, g1]

theorem clz (d : BitVec 7) (a : BitVec 7) (w : BitVec 1) (f : BitVec 1) : Statement (.clz d a w f) := by
  intro z hw
  have t := wordT_at (op := 28) (dn := d.toNat) (an := a.toNat) hw (by omega) (by decide) (d.isLt) (a.isLt) (low3_lt _ _ _)
  have e1 := t.hi
  have e2 := t.lo
  have f0 : fieldAt z 17 7 = d := field_of (t.d)
  have f1 : fieldAt z 10 7 = a := field_of (t.a)
  have f2 : fieldAt z 2 1 = w := field_of (t.w.trans (low3_w _ _ _))
  have f3 : fieldAt z 1 1 = f := field_of (t.f.trans (low3_f _ _ _))
  have g0 : bitsAt z 3 7 = 0 := t.b
  have g1 : bitsAt z 0 1 = 0 := t.g.trans (low3_g _ _ _)
  unfold decode
  simp only [e1, e2, guardFixed, beq_self_eq_true, Bool.and_self, if_true, decodeRow1, f0, f1, f2, f3, g0, g1]

theorem brev (d : BitVec 7) (a : BitVec 7) (w : BitVec 1) (f : BitVec 1) : Statement (.brev d a w f) := by
  intro z hw
  have t := wordT_at (op := 29) (dn := d.toNat) (an := a.toNat) hw (by omega) (by decide) (d.isLt) (a.isLt) (low3_lt _ _ _)
  have e1 := t.hi
  have e2 := t.lo
  have f0 : fieldAt z 17 7 = d := field_of (t.d)
  have f1 : fieldAt z 10 7 = a := field_of (t.a)
  have f2 : fieldAt z 2 1 = w := field_of (t.w.trans (low3_w _ _ _))
  have f3 : fieldAt z 1 1 = f := field_of (t.f.trans (low3_f _ _ _))
  have g0 : bitsAt z 3 7 = 0 := t.b
  have g1 : bitsAt z 0 1 = 0 := t.g.trans (low3_g _ _ _)
  unfold decode
  simp only [e1, e2, guardFixed, beq_self_eq_true, Bool.and_self, if_true, decodeRow1, f0, f1, f2, f3, g0, g1]

theorem bfx (d : BitVec 7) (a : BitVec 7) (b : BitVec 7) (w : BitVec 1) (f : BitVec 1) (g : BitVec 1) : Statement (.bfx d a b w f g) := by
  intro z hw
  have t := wordT_at (op := 30) (dn := d.toNat) (an := a.toNat) hw (by omega) (by decide) (d.isLt) (a.isLt) (low3_lt _ _ _)
  have e1 := t.hi
  have e2 := t.lo
  have f0 : fieldAt z 17 7 = d := field_of (t.d)
  have f1 : fieldAt z 10 7 = a := field_of (t.a)
  have f2 : fieldAt z 3 7 = b := field_of (t.b)
  have f3 : fieldAt z 2 1 = w := field_of (t.w.trans (low3_w _ _ _))
  have f4 : fieldAt z 1 1 = f := field_of (t.f.trans (low3_f _ _ _))
  have f5 : fieldAt z 0 1 = g := field_of (t.g.trans (low3_g _ _ _))
  unfold decode
  simp only [e1, e2, decodeRow1, f0, f1, f2, f3, f4, f5]

theorem bfi (d : BitVec 7) (a : BitVec 7) (b : BitVec 7) (w : BitVec 1) (f : BitVec 1) (g : BitVec 1) : Statement (.bfi d a b w f g) := by
  intro z hw
  have t := wordT_at (op := 31) (dn := d.toNat) (an := a.toNat) hw (by omega) (by decide) (d.isLt) (a.isLt) (low3_lt _ _ _)
  have e1 := t.hi
  have e2 := t.lo
  have f0 : fieldAt z 17 7 = d := field_of (t.d)
  have f1 : fieldAt z 10 7 = a := field_of (t.a)
  have f2 : fieldAt z 3 7 = b := field_of (t.b)
  have f3 : fieldAt z 2 1 = w := field_of (t.w.trans (low3_w _ _ _))
  have f4 : fieldAt z 1 1 = f := field_of (t.f.trans (low3_f _ _ _))
  have f5 : fieldAt z 0 1 = g := field_of (t.g.trans (low3_g _ _ _))
  unfold decode
  simp only [e1, e2, decodeRow1, f0, f1, f2, f3, f4, f5]

theorem faddD (d : BitVec 7) (a : BitVec 7) (b : BitVec 7) (w : BitVec 1) (f : BitVec 1) (g : BitVec 1) : Statement (.faddD d a b w f g) := by
  intro z hw
  have t := wordT_at (op := 32) (dn := d.toNat) (an := a.toNat) hw (by omega) (by decide) (d.isLt) (a.isLt) (low3_lt _ _ _)
  have e1 := t.hi
  have e2 := t.lo
  have f0 : fieldAt z 17 7 = d := field_of (t.d)
  have f1 : fieldAt z 10 7 = a := field_of (t.a)
  have f2 : fieldAt z 3 7 = b := field_of (t.b)
  have f3 : fieldAt z 2 1 = w := field_of (t.w.trans (low3_w _ _ _))
  have f4 : fieldAt z 1 1 = f := field_of (t.f.trans (low3_f _ _ _))
  have f5 : fieldAt z 0 1 = g := field_of (t.g.trans (low3_g _ _ _))
  unfold decode
  simp only [e1, e2, decodeRow2, f0, f1, f2, f3, f4, f5]

theorem fsubD (d : BitVec 7) (a : BitVec 7) (b : BitVec 7) (w : BitVec 1) (f : BitVec 1) (g : BitVec 1) : Statement (.fsubD d a b w f g) := by
  intro z hw
  have t := wordT_at (op := 33) (dn := d.toNat) (an := a.toNat) hw (by omega) (by decide) (d.isLt) (a.isLt) (low3_lt _ _ _)
  have e1 := t.hi
  have e2 := t.lo
  have f0 : fieldAt z 17 7 = d := field_of (t.d)
  have f1 : fieldAt z 10 7 = a := field_of (t.a)
  have f2 : fieldAt z 3 7 = b := field_of (t.b)
  have f3 : fieldAt z 2 1 = w := field_of (t.w.trans (low3_w _ _ _))
  have f4 : fieldAt z 1 1 = f := field_of (t.f.trans (low3_f _ _ _))
  have f5 : fieldAt z 0 1 = g := field_of (t.g.trans (low3_g _ _ _))
  unfold decode
  simp only [e1, e2, decodeRow2, f0, f1, f2, f3, f4, f5]

theorem fmulD (d : BitVec 7) (a : BitVec 7) (b : BitVec 7) (w : BitVec 1) (f : BitVec 1) (g : BitVec 1) : Statement (.fmulD d a b w f g) := by
  intro z hw
  have t := wordT_at (op := 34) (dn := d.toNat) (an := a.toNat) hw (by omega) (by decide) (d.isLt) (a.isLt) (low3_lt _ _ _)
  have e1 := t.hi
  have e2 := t.lo
  have f0 : fieldAt z 17 7 = d := field_of (t.d)
  have f1 : fieldAt z 10 7 = a := field_of (t.a)
  have f2 : fieldAt z 3 7 = b := field_of (t.b)
  have f3 : fieldAt z 2 1 = w := field_of (t.w.trans (low3_w _ _ _))
  have f4 : fieldAt z 1 1 = f := field_of (t.f.trans (low3_f _ _ _))
  have f5 : fieldAt z 0 1 = g := field_of (t.g.trans (low3_g _ _ _))
  unfold decode
  simp only [e1, e2, decodeRow2, f0, f1, f2, f3, f4, f5]

theorem ffmaD (d : BitVec 7) (a : BitVec 7) (b : BitVec 7) (w : BitVec 1) (f : BitVec 1) (g : BitVec 1) : Statement (.ffmaD d a b w f g) := by
  intro z hw
  have t := wordT_at (op := 35) (dn := d.toNat) (an := a.toNat) hw (by omega) (by decide) (d.isLt) (a.isLt) (low3_lt _ _ _)
  have e1 := t.hi
  have e2 := t.lo
  have f0 : fieldAt z 17 7 = d := field_of (t.d)
  have f1 : fieldAt z 10 7 = a := field_of (t.a)
  have f2 : fieldAt z 3 7 = b := field_of (t.b)
  have f3 : fieldAt z 2 1 = w := field_of (t.w.trans (low3_w _ _ _))
  have f4 : fieldAt z 1 1 = f := field_of (t.f.trans (low3_f _ _ _))
  have f5 : fieldAt z 0 1 = g := field_of (t.g.trans (low3_g _ _ _))
  unfold decode
  simp only [e1, e2, decodeRow2, f0, f1, f2, f3, f4, f5]

theorem ffmsD (d : BitVec 7) (a : BitVec 7) (b : BitVec 7) (w : BitVec 1) (f : BitVec 1) (g : BitVec 1) : Statement (.ffmsD d a b w f g) := by
  intro z hw
  have t := wordT_at (op := 36) (dn := d.toNat) (an := a.toNat) hw (by omega) (by decide) (d.isLt) (a.isLt) (low3_lt _ _ _)
  have e1 := t.hi
  have e2 := t.lo
  have f0 : fieldAt z 17 7 = d := field_of (t.d)
  have f1 : fieldAt z 10 7 = a := field_of (t.a)
  have f2 : fieldAt z 3 7 = b := field_of (t.b)
  have f3 : fieldAt z 2 1 = w := field_of (t.w.trans (low3_w _ _ _))
  have f4 : fieldAt z 1 1 = f := field_of (t.f.trans (low3_f _ _ _))
  have f5 : fieldAt z 0 1 = g := field_of (t.g.trans (low3_g _ _ _))
  unfold decode
  simp only [e1, e2, decodeRow2, f0, f1, f2, f3, f4, f5]

theorem ffnmD (d : BitVec 7) (a : BitVec 7) (b : BitVec 7) (w : BitVec 1) (f : BitVec 1) (g : BitVec 1) : Statement (.ffnmD d a b w f g) := by
  intro z hw
  have t := wordT_at (op := 37) (dn := d.toNat) (an := a.toNat) hw (by omega) (by decide) (d.isLt) (a.isLt) (low3_lt _ _ _)
  have e1 := t.hi
  have e2 := t.lo
  have f0 : fieldAt z 17 7 = d := field_of (t.d)
  have f1 : fieldAt z 10 7 = a := field_of (t.a)
  have f2 : fieldAt z 3 7 = b := field_of (t.b)
  have f3 : fieldAt z 2 1 = w := field_of (t.w.trans (low3_w _ _ _))
  have f4 : fieldAt z 1 1 = f := field_of (t.f.trans (low3_f _ _ _))
  have f5 : fieldAt z 0 1 = g := field_of (t.g.trans (low3_g _ _ _))
  unfold decode
  simp only [e1, e2, decodeRow2, f0, f1, f2, f3, f4, f5]

theorem fminD (d : BitVec 7) (a : BitVec 7) (b : BitVec 7) (w : BitVec 1) (f : BitVec 1) (g : BitVec 1) : Statement (.fminD d a b w f g) := by
  intro z hw
  have t := wordT_at (op := 38) (dn := d.toNat) (an := a.toNat) hw (by omega) (by decide) (d.isLt) (a.isLt) (low3_lt _ _ _)
  have e1 := t.hi
  have e2 := t.lo
  have f0 : fieldAt z 17 7 = d := field_of (t.d)
  have f1 : fieldAt z 10 7 = a := field_of (t.a)
  have f2 : fieldAt z 3 7 = b := field_of (t.b)
  have f3 : fieldAt z 2 1 = w := field_of (t.w.trans (low3_w _ _ _))
  have f4 : fieldAt z 1 1 = f := field_of (t.f.trans (low3_f _ _ _))
  have f5 : fieldAt z 0 1 = g := field_of (t.g.trans (low3_g _ _ _))
  unfold decode
  simp only [e1, e2, decodeRow2, f0, f1, f2, f3, f4, f5]

theorem fmaxD (d : BitVec 7) (a : BitVec 7) (b : BitVec 7) (w : BitVec 1) (f : BitVec 1) (g : BitVec 1) : Statement (.fmaxD d a b w f g) := by
  intro z hw
  have t := wordT_at (op := 39) (dn := d.toNat) (an := a.toNat) hw (by omega) (by decide) (d.isLt) (a.isLt) (low3_lt _ _ _)
  have e1 := t.hi
  have e2 := t.lo
  have f0 : fieldAt z 17 7 = d := field_of (t.d)
  have f1 : fieldAt z 10 7 = a := field_of (t.a)
  have f2 : fieldAt z 3 7 = b := field_of (t.b)
  have f3 : fieldAt z 2 1 = w := field_of (t.w.trans (low3_w _ _ _))
  have f4 : fieldAt z 1 1 = f := field_of (t.f.trans (low3_f _ _ _))
  have f5 : fieldAt z 0 1 = g := field_of (t.g.trans (low3_g _ _ _))
  unfold decode
  simp only [e1, e2, decodeRow2, f0, f1, f2, f3, f4, f5]

theorem fdivD (d : BitVec 7) (a : BitVec 7) (b : BitVec 7) (w : BitVec 1) (f : BitVec 1) (g : BitVec 1) : Statement (.fdivD d a b w f g) := by
  intro z hw
  have t := wordT_at (op := 40) (dn := d.toNat) (an := a.toNat) hw (by omega) (by decide) (d.isLt) (a.isLt) (low3_lt _ _ _)
  have e1 := t.hi
  have e2 := t.lo
  have f0 : fieldAt z 17 7 = d := field_of (t.d)
  have f1 : fieldAt z 10 7 = a := field_of (t.a)
  have f2 : fieldAt z 3 7 = b := field_of (t.b)
  have f3 : fieldAt z 2 1 = w := field_of (t.w.trans (low3_w _ _ _))
  have f4 : fieldAt z 1 1 = f := field_of (t.f.trans (low3_f _ _ _))
  have f5 : fieldAt z 0 1 = g := field_of (t.g.trans (low3_g _ _ _))
  unfold decode
  simp only [e1, e2, decodeRow2, f0, f1, f2, f3, f4, f5]

theorem fsqrtD (d : BitVec 7) (a : BitVec 7) (w : BitVec 1) (f : BitVec 1) : Statement (.fsqrtD d a w f) := by
  intro z hw
  have t := wordT_at (op := 41) (dn := d.toNat) (an := a.toNat) hw (by omega) (by decide) (d.isLt) (a.isLt) (low3_lt _ _ _)
  have e1 := t.hi
  have e2 := t.lo
  have f0 : fieldAt z 17 7 = d := field_of (t.d)
  have f1 : fieldAt z 10 7 = a := field_of (t.a)
  have f2 : fieldAt z 2 1 = w := field_of (t.w.trans (low3_w _ _ _))
  have f3 : fieldAt z 1 1 = f := field_of (t.f.trans (low3_f _ _ _))
  have g0 : bitsAt z 3 7 = 0 := t.b
  have g1 : bitsAt z 0 1 = 0 := t.g.trans (low3_g _ _ _)
  unfold decode
  simp only [e1, e2, guardFixed, beq_self_eq_true, Bool.and_self, if_true, decodeRow2, f0, f1, f2, f3, g0, g1]

theorem fcmpD (a : BitVec 7) (b : BitVec 7) (f : BitVec 1) (g : BitVec 1) : Statement (.fcmpD a b f g) := by
  intro z hw
  have t := wordT_at (op := 42) (dn := 121) (an := a.toNat) hw (by simp) (by decide) (by decide) (a.isLt) (low3_lt _ _ _)
  have e1 := t.hi
  have e2 := t.lo
  have f0 : fieldAt z 10 7 = a := field_of (t.a)
  have f1 : fieldAt z 3 7 = b := field_of (t.b)
  have f2 : fieldAt z 1 1 = f := field_of (t.f.trans (low3_f _ _ _))
  have f3 : fieldAt z 0 1 = g := field_of (t.g.trans (low3_g _ _ _))
  have g0 : bitsAt z 17 7 = 121 := t.d
  have g1 : bitsAt z 2 1 = 0 := t.w.trans (low3_w _ _ _)
  unfold decode
  simp only [e1, e2, guardFixed, beq_self_eq_true, Bool.and_self, if_true, decodeRow2, f0, f1, f2, f3, g0, g1]

theorem fabsD (d : BitVec 7) (a : BitVec 7) (w : BitVec 1) (f : BitVec 1) : Statement (.fabsD d a w f) := by
  intro z hw
  have t := wordT_at (op := 43) (dn := d.toNat) (an := a.toNat) hw (by omega) (by decide) (d.isLt) (a.isLt) (low3_lt _ _ _)
  have e1 := t.hi
  have e2 := t.lo
  have f0 : fieldAt z 17 7 = d := field_of (t.d)
  have f1 : fieldAt z 10 7 = a := field_of (t.a)
  have f2 : fieldAt z 2 1 = w := field_of (t.w.trans (low3_w _ _ _))
  have f3 : fieldAt z 1 1 = f := field_of (t.f.trans (low3_f _ _ _))
  have g0 : bitsAt z 3 7 = 0 := t.b
  have g1 : bitsAt z 0 1 = 0 := t.g.trans (low3_g _ _ _)
  unfold decode
  simp only [e1, e2, guardFixed, beq_self_eq_true, Bool.and_self, if_true, decodeRow2, f0, f1, f2, f3, g0, g1]

theorem fnegD (d : BitVec 7) (a : BitVec 7) (w : BitVec 1) (f : BitVec 1) : Statement (.fnegD d a w f) := by
  intro z hw
  have t := wordT_at (op := 44) (dn := d.toNat) (an := a.toNat) hw (by omega) (by decide) (d.isLt) (a.isLt) (low3_lt _ _ _)
  have e1 := t.hi
  have e2 := t.lo
  have f0 : fieldAt z 17 7 = d := field_of (t.d)
  have f1 : fieldAt z 10 7 = a := field_of (t.a)
  have f2 : fieldAt z 2 1 = w := field_of (t.w.trans (low3_w _ _ _))
  have f3 : fieldAt z 1 1 = f := field_of (t.f.trans (low3_f _ _ _))
  have g0 : bitsAt z 3 7 = 0 := t.b
  have g1 : bitsAt z 0 1 = 0 := t.g.trans (low3_g _ _ _)
  unfold decode
  simp only [e1, e2, guardFixed, beq_self_eq_true, Bool.and_self, if_true, decodeRow2, f0, f1, f2, f3, g0, g1]

theorem fcpysD (d : BitVec 7) (a : BitVec 7) (b : BitVec 7) (w : BitVec 1) (f : BitVec 1) (g : BitVec 1) : Statement (.fcpysD d a b w f g) := by
  intro z hw
  have t := wordT_at (op := 45) (dn := d.toNat) (an := a.toNat) hw (by omega) (by decide) (d.isLt) (a.isLt) (low3_lt _ _ _)
  have e1 := t.hi
  have e2 := t.lo
  have f0 : fieldAt z 17 7 = d := field_of (t.d)
  have f1 : fieldAt z 10 7 = a := field_of (t.a)
  have f2 : fieldAt z 3 7 = b := field_of (t.b)
  have f3 : fieldAt z 2 1 = w := field_of (t.w.trans (low3_w _ _ _))
  have f4 : fieldAt z 1 1 = f := field_of (t.f.trans (low3_f _ _ _))
  have f5 : fieldAt z 0 1 = g := field_of (t.g.trans (low3_g _ _ _))
  unfold decode
  simp only [e1, e2, decodeRow2, f0, f1, f2, f3, f4, f5]

theorem frndD (d : BitVec 7) (a : BitVec 7) (m : BitVec 7) (w : BitVec 1) (f : BitVec 1) : Statement (.frndD d a m w f) := by
  intro z hw
  have t := wordT_at (op := 46) (dn := d.toNat) (an := a.toNat) hw (by omega) (by decide) (d.isLt) (a.isLt) (low3_lt _ _ _)
  have e1 := t.hi
  have e2 := t.lo
  have f0 : fieldAt z 17 7 = d := field_of (t.d)
  have f1 : fieldAt z 10 7 = a := field_of (t.a)
  have f2 : fieldAt z 3 7 = m := field_of (t.b)
  have f3 : fieldAt z 2 1 = w := field_of (t.w.trans (low3_w _ _ _))
  have f4 : fieldAt z 1 1 = f := field_of (t.f.trans (low3_f _ _ _))
  have g0 : bitsAt z 0 1 = 0 := t.g.trans (low3_g _ _ _)
  unfold decode
  simp only [e1, e2, guardFixed, beq_self_eq_true, if_true, decodeRow2, f0, f1, f2, f3, f4, g0]

theorem fclsD (d : BitVec 7) (a : BitVec 7) (w : BitVec 1) (f : BitVec 1) : Statement (.fclsD d a w f) := by
  intro z hw
  have t := wordT_at (op := 47) (dn := d.toNat) (an := a.toNat) hw (by omega) (by decide) (d.isLt) (a.isLt) (low3_lt _ _ _)
  have e1 := t.hi
  have e2 := t.lo
  have f0 : fieldAt z 17 7 = d := field_of (t.d)
  have f1 : fieldAt z 10 7 = a := field_of (t.a)
  have f2 : fieldAt z 2 1 = w := field_of (t.w.trans (low3_w _ _ _))
  have f3 : fieldAt z 1 1 = f := field_of (t.f.trans (low3_f _ _ _))
  have g0 : bitsAt z 3 7 = 0 := t.b
  have g1 : bitsAt z 0 1 = 0 := t.g.trans (low3_g _ _ _)
  unfold decode
  simp only [e1, e2, guardFixed, beq_self_eq_true, Bool.and_self, if_true, decodeRow2, f0, f1, f2, f3, g0, g1]

theorem faddF (d : BitVec 7) (a : BitVec 7) (b : BitVec 7) (w : BitVec 1) (f : BitVec 1) (g : BitVec 1) : Statement (.faddF d a b w f g) := by
  intro z hw
  have t := wordT_at (op := 48) (dn := d.toNat) (an := a.toNat) hw (by omega) (by decide) (d.isLt) (a.isLt) (low3_lt _ _ _)
  have e1 := t.hi
  have e2 := t.lo
  have f0 : fieldAt z 17 7 = d := field_of (t.d)
  have f1 : fieldAt z 10 7 = a := field_of (t.a)
  have f2 : fieldAt z 3 7 = b := field_of (t.b)
  have f3 : fieldAt z 2 1 = w := field_of (t.w.trans (low3_w _ _ _))
  have f4 : fieldAt z 1 1 = f := field_of (t.f.trans (low3_f _ _ _))
  have f5 : fieldAt z 0 1 = g := field_of (t.g.trans (low3_g _ _ _))
  unfold decode
  simp only [e1, e2, decodeRow3, f0, f1, f2, f3, f4, f5]

theorem fsubF (d : BitVec 7) (a : BitVec 7) (b : BitVec 7) (w : BitVec 1) (f : BitVec 1) (g : BitVec 1) : Statement (.fsubF d a b w f g) := by
  intro z hw
  have t := wordT_at (op := 49) (dn := d.toNat) (an := a.toNat) hw (by omega) (by decide) (d.isLt) (a.isLt) (low3_lt _ _ _)
  have e1 := t.hi
  have e2 := t.lo
  have f0 : fieldAt z 17 7 = d := field_of (t.d)
  have f1 : fieldAt z 10 7 = a := field_of (t.a)
  have f2 : fieldAt z 3 7 = b := field_of (t.b)
  have f3 : fieldAt z 2 1 = w := field_of (t.w.trans (low3_w _ _ _))
  have f4 : fieldAt z 1 1 = f := field_of (t.f.trans (low3_f _ _ _))
  have f5 : fieldAt z 0 1 = g := field_of (t.g.trans (low3_g _ _ _))
  unfold decode
  simp only [e1, e2, decodeRow3, f0, f1, f2, f3, f4, f5]

theorem fmulF (d : BitVec 7) (a : BitVec 7) (b : BitVec 7) (w : BitVec 1) (f : BitVec 1) (g : BitVec 1) : Statement (.fmulF d a b w f g) := by
  intro z hw
  have t := wordT_at (op := 50) (dn := d.toNat) (an := a.toNat) hw (by omega) (by decide) (d.isLt) (a.isLt) (low3_lt _ _ _)
  have e1 := t.hi
  have e2 := t.lo
  have f0 : fieldAt z 17 7 = d := field_of (t.d)
  have f1 : fieldAt z 10 7 = a := field_of (t.a)
  have f2 : fieldAt z 3 7 = b := field_of (t.b)
  have f3 : fieldAt z 2 1 = w := field_of (t.w.trans (low3_w _ _ _))
  have f4 : fieldAt z 1 1 = f := field_of (t.f.trans (low3_f _ _ _))
  have f5 : fieldAt z 0 1 = g := field_of (t.g.trans (low3_g _ _ _))
  unfold decode
  simp only [e1, e2, decodeRow3, f0, f1, f2, f3, f4, f5]

theorem ffmaF (d : BitVec 7) (a : BitVec 7) (b : BitVec 7) (w : BitVec 1) (f : BitVec 1) (g : BitVec 1) : Statement (.ffmaF d a b w f g) := by
  intro z hw
  have t := wordT_at (op := 51) (dn := d.toNat) (an := a.toNat) hw (by omega) (by decide) (d.isLt) (a.isLt) (low3_lt _ _ _)
  have e1 := t.hi
  have e2 := t.lo
  have f0 : fieldAt z 17 7 = d := field_of (t.d)
  have f1 : fieldAt z 10 7 = a := field_of (t.a)
  have f2 : fieldAt z 3 7 = b := field_of (t.b)
  have f3 : fieldAt z 2 1 = w := field_of (t.w.trans (low3_w _ _ _))
  have f4 : fieldAt z 1 1 = f := field_of (t.f.trans (low3_f _ _ _))
  have f5 : fieldAt z 0 1 = g := field_of (t.g.trans (low3_g _ _ _))
  unfold decode
  simp only [e1, e2, decodeRow3, f0, f1, f2, f3, f4, f5]

theorem ffmsF (d : BitVec 7) (a : BitVec 7) (b : BitVec 7) (w : BitVec 1) (f : BitVec 1) (g : BitVec 1) : Statement (.ffmsF d a b w f g) := by
  intro z hw
  have t := wordT_at (op := 52) (dn := d.toNat) (an := a.toNat) hw (by omega) (by decide) (d.isLt) (a.isLt) (low3_lt _ _ _)
  have e1 := t.hi
  have e2 := t.lo
  have f0 : fieldAt z 17 7 = d := field_of (t.d)
  have f1 : fieldAt z 10 7 = a := field_of (t.a)
  have f2 : fieldAt z 3 7 = b := field_of (t.b)
  have f3 : fieldAt z 2 1 = w := field_of (t.w.trans (low3_w _ _ _))
  have f4 : fieldAt z 1 1 = f := field_of (t.f.trans (low3_f _ _ _))
  have f5 : fieldAt z 0 1 = g := field_of (t.g.trans (low3_g _ _ _))
  unfold decode
  simp only [e1, e2, decodeRow3, f0, f1, f2, f3, f4, f5]

theorem ffnmF (d : BitVec 7) (a : BitVec 7) (b : BitVec 7) (w : BitVec 1) (f : BitVec 1) (g : BitVec 1) : Statement (.ffnmF d a b w f g) := by
  intro z hw
  have t := wordT_at (op := 53) (dn := d.toNat) (an := a.toNat) hw (by omega) (by decide) (d.isLt) (a.isLt) (low3_lt _ _ _)
  have e1 := t.hi
  have e2 := t.lo
  have f0 : fieldAt z 17 7 = d := field_of (t.d)
  have f1 : fieldAt z 10 7 = a := field_of (t.a)
  have f2 : fieldAt z 3 7 = b := field_of (t.b)
  have f3 : fieldAt z 2 1 = w := field_of (t.w.trans (low3_w _ _ _))
  have f4 : fieldAt z 1 1 = f := field_of (t.f.trans (low3_f _ _ _))
  have f5 : fieldAt z 0 1 = g := field_of (t.g.trans (low3_g _ _ _))
  unfold decode
  simp only [e1, e2, decodeRow3, f0, f1, f2, f3, f4, f5]

theorem fminF (d : BitVec 7) (a : BitVec 7) (b : BitVec 7) (w : BitVec 1) (f : BitVec 1) (g : BitVec 1) : Statement (.fminF d a b w f g) := by
  intro z hw
  have t := wordT_at (op := 54) (dn := d.toNat) (an := a.toNat) hw (by omega) (by decide) (d.isLt) (a.isLt) (low3_lt _ _ _)
  have e1 := t.hi
  have e2 := t.lo
  have f0 : fieldAt z 17 7 = d := field_of (t.d)
  have f1 : fieldAt z 10 7 = a := field_of (t.a)
  have f2 : fieldAt z 3 7 = b := field_of (t.b)
  have f3 : fieldAt z 2 1 = w := field_of (t.w.trans (low3_w _ _ _))
  have f4 : fieldAt z 1 1 = f := field_of (t.f.trans (low3_f _ _ _))
  have f5 : fieldAt z 0 1 = g := field_of (t.g.trans (low3_g _ _ _))
  unfold decode
  simp only [e1, e2, decodeRow3, f0, f1, f2, f3, f4, f5]

theorem fmaxF (d : BitVec 7) (a : BitVec 7) (b : BitVec 7) (w : BitVec 1) (f : BitVec 1) (g : BitVec 1) : Statement (.fmaxF d a b w f g) := by
  intro z hw
  have t := wordT_at (op := 55) (dn := d.toNat) (an := a.toNat) hw (by omega) (by decide) (d.isLt) (a.isLt) (low3_lt _ _ _)
  have e1 := t.hi
  have e2 := t.lo
  have f0 : fieldAt z 17 7 = d := field_of (t.d)
  have f1 : fieldAt z 10 7 = a := field_of (t.a)
  have f2 : fieldAt z 3 7 = b := field_of (t.b)
  have f3 : fieldAt z 2 1 = w := field_of (t.w.trans (low3_w _ _ _))
  have f4 : fieldAt z 1 1 = f := field_of (t.f.trans (low3_f _ _ _))
  have f5 : fieldAt z 0 1 = g := field_of (t.g.trans (low3_g _ _ _))
  unfold decode
  simp only [e1, e2, decodeRow3, f0, f1, f2, f3, f4, f5]

theorem fdivF (d : BitVec 7) (a : BitVec 7) (b : BitVec 7) (w : BitVec 1) (f : BitVec 1) (g : BitVec 1) : Statement (.fdivF d a b w f g) := by
  intro z hw
  have t := wordT_at (op := 56) (dn := d.toNat) (an := a.toNat) hw (by omega) (by decide) (d.isLt) (a.isLt) (low3_lt _ _ _)
  have e1 := t.hi
  have e2 := t.lo
  have f0 : fieldAt z 17 7 = d := field_of (t.d)
  have f1 : fieldAt z 10 7 = a := field_of (t.a)
  have f2 : fieldAt z 3 7 = b := field_of (t.b)
  have f3 : fieldAt z 2 1 = w := field_of (t.w.trans (low3_w _ _ _))
  have f4 : fieldAt z 1 1 = f := field_of (t.f.trans (low3_f _ _ _))
  have f5 : fieldAt z 0 1 = g := field_of (t.g.trans (low3_g _ _ _))
  unfold decode
  simp only [e1, e2, decodeRow3, f0, f1, f2, f3, f4, f5]

theorem fsqrtF (d : BitVec 7) (a : BitVec 7) (w : BitVec 1) (f : BitVec 1) : Statement (.fsqrtF d a w f) := by
  intro z hw
  have t := wordT_at (op := 57) (dn := d.toNat) (an := a.toNat) hw (by omega) (by decide) (d.isLt) (a.isLt) (low3_lt _ _ _)
  have e1 := t.hi
  have e2 := t.lo
  have f0 : fieldAt z 17 7 = d := field_of (t.d)
  have f1 : fieldAt z 10 7 = a := field_of (t.a)
  have f2 : fieldAt z 2 1 = w := field_of (t.w.trans (low3_w _ _ _))
  have f3 : fieldAt z 1 1 = f := field_of (t.f.trans (low3_f _ _ _))
  have g0 : bitsAt z 3 7 = 0 := t.b
  have g1 : bitsAt z 0 1 = 0 := t.g.trans (low3_g _ _ _)
  unfold decode
  simp only [e1, e2, guardFixed, beq_self_eq_true, Bool.and_self, if_true, decodeRow3, f0, f1, f2, f3, g0, g1]

theorem fcmpF (a : BitVec 7) (b : BitVec 7) (f : BitVec 1) (g : BitVec 1) : Statement (.fcmpF a b f g) := by
  intro z hw
  have t := wordT_at (op := 58) (dn := 121) (an := a.toNat) hw (by simp) (by decide) (by decide) (a.isLt) (low3_lt _ _ _)
  have e1 := t.hi
  have e2 := t.lo
  have f0 : fieldAt z 10 7 = a := field_of (t.a)
  have f1 : fieldAt z 3 7 = b := field_of (t.b)
  have f2 : fieldAt z 1 1 = f := field_of (t.f.trans (low3_f _ _ _))
  have f3 : fieldAt z 0 1 = g := field_of (t.g.trans (low3_g _ _ _))
  have g0 : bitsAt z 17 7 = 121 := t.d
  have g1 : bitsAt z 2 1 = 0 := t.w.trans (low3_w _ _ _)
  unfold decode
  simp only [e1, e2, guardFixed, beq_self_eq_true, Bool.and_self, if_true, decodeRow3, f0, f1, f2, f3, g0, g1]

theorem fabsF (d : BitVec 7) (a : BitVec 7) (w : BitVec 1) (f : BitVec 1) : Statement (.fabsF d a w f) := by
  intro z hw
  have t := wordT_at (op := 59) (dn := d.toNat) (an := a.toNat) hw (by omega) (by decide) (d.isLt) (a.isLt) (low3_lt _ _ _)
  have e1 := t.hi
  have e2 := t.lo
  have f0 : fieldAt z 17 7 = d := field_of (t.d)
  have f1 : fieldAt z 10 7 = a := field_of (t.a)
  have f2 : fieldAt z 2 1 = w := field_of (t.w.trans (low3_w _ _ _))
  have f3 : fieldAt z 1 1 = f := field_of (t.f.trans (low3_f _ _ _))
  have g0 : bitsAt z 3 7 = 0 := t.b
  have g1 : bitsAt z 0 1 = 0 := t.g.trans (low3_g _ _ _)
  unfold decode
  simp only [e1, e2, guardFixed, beq_self_eq_true, Bool.and_self, if_true, decodeRow3, f0, f1, f2, f3, g0, g1]

theorem fnegF (d : BitVec 7) (a : BitVec 7) (w : BitVec 1) (f : BitVec 1) : Statement (.fnegF d a w f) := by
  intro z hw
  have t := wordT_at (op := 60) (dn := d.toNat) (an := a.toNat) hw (by omega) (by decide) (d.isLt) (a.isLt) (low3_lt _ _ _)
  have e1 := t.hi
  have e2 := t.lo
  have f0 : fieldAt z 17 7 = d := field_of (t.d)
  have f1 : fieldAt z 10 7 = a := field_of (t.a)
  have f2 : fieldAt z 2 1 = w := field_of (t.w.trans (low3_w _ _ _))
  have f3 : fieldAt z 1 1 = f := field_of (t.f.trans (low3_f _ _ _))
  have g0 : bitsAt z 3 7 = 0 := t.b
  have g1 : bitsAt z 0 1 = 0 := t.g.trans (low3_g _ _ _)
  unfold decode
  simp only [e1, e2, guardFixed, beq_self_eq_true, Bool.and_self, if_true, decodeRow3, f0, f1, f2, f3, g0, g1]

theorem fcpysF (d : BitVec 7) (a : BitVec 7) (b : BitVec 7) (w : BitVec 1) (f : BitVec 1) (g : BitVec 1) : Statement (.fcpysF d a b w f g) := by
  intro z hw
  have t := wordT_at (op := 61) (dn := d.toNat) (an := a.toNat) hw (by omega) (by decide) (d.isLt) (a.isLt) (low3_lt _ _ _)
  have e1 := t.hi
  have e2 := t.lo
  have f0 : fieldAt z 17 7 = d := field_of (t.d)
  have f1 : fieldAt z 10 7 = a := field_of (t.a)
  have f2 : fieldAt z 3 7 = b := field_of (t.b)
  have f3 : fieldAt z 2 1 = w := field_of (t.w.trans (low3_w _ _ _))
  have f4 : fieldAt z 1 1 = f := field_of (t.f.trans (low3_f _ _ _))
  have f5 : fieldAt z 0 1 = g := field_of (t.g.trans (low3_g _ _ _))
  unfold decode
  simp only [e1, e2, decodeRow3, f0, f1, f2, f3, f4, f5]

theorem frndF (d : BitVec 7) (a : BitVec 7) (m : BitVec 7) (w : BitVec 1) (f : BitVec 1) : Statement (.frndF d a m w f) := by
  intro z hw
  have t := wordT_at (op := 62) (dn := d.toNat) (an := a.toNat) hw (by omega) (by decide) (d.isLt) (a.isLt) (low3_lt _ _ _)
  have e1 := t.hi
  have e2 := t.lo
  have f0 : fieldAt z 17 7 = d := field_of (t.d)
  have f1 : fieldAt z 10 7 = a := field_of (t.a)
  have f2 : fieldAt z 3 7 = m := field_of (t.b)
  have f3 : fieldAt z 2 1 = w := field_of (t.w.trans (low3_w _ _ _))
  have f4 : fieldAt z 1 1 = f := field_of (t.f.trans (low3_f _ _ _))
  have g0 : bitsAt z 0 1 = 0 := t.g.trans (low3_g _ _ _)
  unfold decode
  simp only [e1, e2, guardFixed, beq_self_eq_true, if_true, decodeRow3, f0, f1, f2, f3, f4, g0]

theorem fclsF (d : BitVec 7) (a : BitVec 7) (w : BitVec 1) (f : BitVec 1) : Statement (.fclsF d a w f) := by
  intro z hw
  have t := wordT_at (op := 63) (dn := d.toNat) (an := a.toNat) hw (by omega) (by decide) (d.isLt) (a.isLt) (low3_lt _ _ _)
  have e1 := t.hi
  have e2 := t.lo
  have f0 : fieldAt z 17 7 = d := field_of (t.d)
  have f1 : fieldAt z 10 7 = a := field_of (t.a)
  have f2 : fieldAt z 2 1 = w := field_of (t.w.trans (low3_w _ _ _))
  have f3 : fieldAt z 1 1 = f := field_of (t.f.trans (low3_f _ _ _))
  have g0 : bitsAt z 3 7 = 0 := t.b
  have g1 : bitsAt z 0 1 = 0 := t.g.trans (low3_g _ _ _)
  unfold decode
  simp only [e1, e2, guardFixed, beq_self_eq_true, Bool.and_self, if_true, decodeRow3, f0, f1, f2, f3, g0, g1]

theorem cvtDF (d : BitVec 7) (a : BitVec 7) (m : BitVec 7) : Statement (.cvtDF d a m) := by
  intro z hw
  have t := wordT_at (op := 64) (dn := d.toNat) (an := a.toNat) hw (by omega) (by decide) (d.isLt) (a.isLt) (by decide)
  have e1 := t.hi
  have e2 := t.lo
  have f0 : fieldAt z 17 7 = d := field_of (t.d)
  have f1 : fieldAt z 10 7 = a := field_of (t.a)
  have f2 : fieldAt z 3 7 = m := field_of (t.b)
  have g0 : bitsAt z 0 3 = 0 := t.low
  unfold decode
  simp only [e1, e2, guardFixed, beq_self_eq_true, if_true, decodeRow4, f0, f1, f2, g0]

theorem cvtFD (d : BitVec 7) (a : BitVec 7) (m : BitVec 7) : Statement (.cvtFD d a m) := by
  intro z hw
  have t := wordT_at (op := 65) (dn := d.toNat) (an := a.toNat) hw (by omega) (by decide) (d.isLt) (a.isLt) (by decide)
  have e1 := t.hi
  have e2 := t.lo
  have f0 : fieldAt z 17 7 = d := field_of (t.d)
  have f1 : fieldAt z 10 7 = a := field_of (t.a)
  have f2 : fieldAt z 3 7 = m := field_of (t.b)
  have g0 : bitsAt z 0 3 = 0 := t.low
  unfold decode
  simp only [e1, e2, guardFixed, beq_self_eq_true, if_true, decodeRow4, f0, f1, f2, g0]

theorem cvtDS64 (d : BitVec 7) (a : BitVec 7) (m : BitVec 7) : Statement (.cvtDS64 d a m) := by
  intro z hw
  have t := wordT_at (op := 66) (dn := d.toNat) (an := a.toNat) hw (by omega) (by decide) (d.isLt) (a.isLt) (by decide)
  have e1 := t.hi
  have e2 := t.lo
  have f0 : fieldAt z 17 7 = d := field_of (t.d)
  have f1 : fieldAt z 10 7 = a := field_of (t.a)
  have f2 : fieldAt z 3 7 = m := field_of (t.b)
  have g0 : bitsAt z 0 3 = 0 := t.low
  unfold decode
  simp only [e1, e2, guardFixed, beq_self_eq_true, if_true, decodeRow4, f0, f1, f2, g0]

theorem cvtS64D (d : BitVec 7) (a : BitVec 7) (m : BitVec 7) : Statement (.cvtS64D d a m) := by
  intro z hw
  have t := wordT_at (op := 67) (dn := d.toNat) (an := a.toNat) hw (by omega) (by decide) (d.isLt) (a.isLt) (by decide)
  have e1 := t.hi
  have e2 := t.lo
  have f0 : fieldAt z 17 7 = d := field_of (t.d)
  have f1 : fieldAt z 10 7 = a := field_of (t.a)
  have f2 : fieldAt z 3 7 = m := field_of (t.b)
  have g0 : bitsAt z 0 3 = 0 := t.low
  unfold decode
  simp only [e1, e2, guardFixed, beq_self_eq_true, if_true, decodeRow4, f0, f1, f2, g0]

theorem cvtDZ64 (d : BitVec 7) (a : BitVec 7) (m : BitVec 7) : Statement (.cvtDZ64 d a m) := by
  intro z hw
  have t := wordT_at (op := 68) (dn := d.toNat) (an := a.toNat) hw (by omega) (by decide) (d.isLt) (a.isLt) (by decide)
  have e1 := t.hi
  have e2 := t.lo
  have f0 : fieldAt z 17 7 = d := field_of (t.d)
  have f1 : fieldAt z 10 7 = a := field_of (t.a)
  have f2 : fieldAt z 3 7 = m := field_of (t.b)
  have g0 : bitsAt z 0 3 = 0 := t.low
  unfold decode
  simp only [e1, e2, guardFixed, beq_self_eq_true, if_true, decodeRow4, f0, f1, f2, g0]

theorem cvtZ64D (d : BitVec 7) (a : BitVec 7) (m : BitVec 7) : Statement (.cvtZ64D d a m) := by
  intro z hw
  have t := wordT_at (op := 69) (dn := d.toNat) (an := a.toNat) hw (by omega) (by decide) (d.isLt) (a.isLt) (by decide)
  have e1 := t.hi
  have e2 := t.lo
  have f0 : fieldAt z 17 7 = d := field_of (t.d)
  have f1 : fieldAt z 10 7 = a := field_of (t.a)
  have f2 : fieldAt z 3 7 = m := field_of (t.b)
  have g0 : bitsAt z 0 3 = 0 := t.low
  unfold decode
  simp only [e1, e2, guardFixed, beq_self_eq_true, if_true, decodeRow4, f0, f1, f2, g0]

theorem cvtFS32 (d : BitVec 7) (a : BitVec 7) (m : BitVec 7) : Statement (.cvtFS32 d a m) := by
  intro z hw
  have t := wordT_at (op := 70) (dn := d.toNat) (an := a.toNat) hw (by omega) (by decide) (d.isLt) (a.isLt) (by decide)
  have e1 := t.hi
  have e2 := t.lo
  have f0 : fieldAt z 17 7 = d := field_of (t.d)
  have f1 : fieldAt z 10 7 = a := field_of (t.a)
  have f2 : fieldAt z 3 7 = m := field_of (t.b)
  have g0 : bitsAt z 0 3 = 0 := t.low
  unfold decode
  simp only [e1, e2, guardFixed, beq_self_eq_true, if_true, decodeRow4, f0, f1, f2, g0]

theorem cvtS32F (d : BitVec 7) (a : BitVec 7) (m : BitVec 7) : Statement (.cvtS32F d a m) := by
  intro z hw
  have t := wordT_at (op := 71) (dn := d.toNat) (an := a.toNat) hw (by omega) (by decide) (d.isLt) (a.isLt) (by decide)
  have e1 := t.hi
  have e2 := t.lo
  have f0 : fieldAt z 17 7 = d := field_of (t.d)
  have f1 : fieldAt z 10 7 = a := field_of (t.a)
  have f2 : fieldAt z 3 7 = m := field_of (t.b)
  have g0 : bitsAt z 0 3 = 0 := t.low
  unfold decode
  simp only [e1, e2, guardFixed, beq_self_eq_true, if_true, decodeRow4, f0, f1, f2, g0]

theorem cvtBF (d : BitVec 7) (a : BitVec 7) (m : BitVec 7) : Statement (.cvtBF d a m) := by
  intro z hw
  have t := wordT_at (op := 72) (dn := d.toNat) (an := a.toNat) hw (by omega) (by decide) (d.isLt) (a.isLt) (by decide)
  have e1 := t.hi
  have e2 := t.lo
  have f0 : fieldAt z 17 7 = d := field_of (t.d)
  have f1 : fieldAt z 10 7 = a := field_of (t.a)
  have f2 : fieldAt z 3 7 = m := field_of (t.b)
  have g0 : bitsAt z 0 3 = 0 := t.low
  unfold decode
  simp only [e1, e2, guardFixed, beq_self_eq_true, if_true, decodeRow4, f0, f1, f2, g0]

theorem cvtFB (d : BitVec 7) (a : BitVec 7) (m : BitVec 7) : Statement (.cvtFB d a m) := by
  intro z hw
  have t := wordT_at (op := 73) (dn := d.toNat) (an := a.toNat) hw (by omega) (by decide) (d.isLt) (a.isLt) (by decide)
  have e1 := t.hi
  have e2 := t.lo
  have f0 : fieldAt z 17 7 = d := field_of (t.d)
  have f1 : fieldAt z 10 7 = a := field_of (t.a)
  have f2 : fieldAt z 3 7 = m := field_of (t.b)
  have g0 : bitsAt z 0 3 = 0 := t.low
  unfold decode
  simp only [e1, e2, guardFixed, beq_self_eq_true, if_true, decodeRow4, f0, f1, f2, g0]

theorem cvtHF (d : BitVec 7) (a : BitVec 7) (m : BitVec 7) : Statement (.cvtHF d a m) := by
  intro z hw
  have t := wordT_at (op := 74) (dn := d.toNat) (an := a.toNat) hw (by omega) (by decide) (d.isLt) (a.isLt) (by decide)
  have e1 := t.hi
  have e2 := t.lo
  have f0 : fieldAt z 17 7 = d := field_of (t.d)
  have f1 : fieldAt z 10 7 = a := field_of (t.a)
  have f2 : fieldAt z 3 7 = m := field_of (t.b)
  have g0 : bitsAt z 0 3 = 0 := t.low
  unfold decode
  simp only [e1, e2, guardFixed, beq_self_eq_true, if_true, decodeRow4, f0, f1, f2, g0]

theorem cvtFH (d : BitVec 7) (a : BitVec 7) (m : BitVec 7) : Statement (.cvtFH d a m) := by
  intro z hw
  have t := wordT_at (op := 75) (dn := d.toNat) (an := a.toNat) hw (by omega) (by decide) (d.isLt) (a.isLt) (by decide)
  have e1 := t.hi
  have e2 := t.lo
  have f0 : fieldAt z 17 7 = d := field_of (t.d)
  have f1 : fieldAt z 10 7 = a := field_of (t.a)
  have f2 : fieldAt z 3 7 = m := field_of (t.b)
  have g0 : bitsAt z 0 3 = 0 := t.low
  unfold decode
  simp only [e1, e2, guardFixed, beq_self_eq_true, if_true, decodeRow4, f0, f1, f2, g0]

theorem qdxX8 (d : BitVec 7) (a : BitVec 7) (g : BitVec 7) (c : BitVec 3) : Statement (.qdxX8 d a g c) := by
  intro z hw
  have t := wordT_at (op := 76) (dn := d.toNat) (an := a.toNat) hw (by omega) (by decide) (d.isLt) (a.isLt) (c.isLt)
  have e1 := t.hi
  have e2 := t.lo
  have f0 : fieldAt z 17 7 = d := field_of (t.d)
  have f1 : fieldAt z 10 7 = a := field_of (t.a)
  have f2 : fieldAt z 3 7 = g := field_of (t.b)
  have f3 : fieldAt z 0 3 = c := field_of (t.low)
  unfold decode
  simp only [e1, e2, decodeRow4, f0, f1, f2, f3]

theorem qdxX4 (d : BitVec 7) (a : BitVec 7) (g : BitVec 7) (c : BitVec 3) : Statement (.qdxX4 d a g c) := by
  intro z hw
  have t := wordT_at (op := 77) (dn := d.toNat) (an := a.toNat) hw (by omega) (by decide) (d.isLt) (a.isLt) (c.isLt)
  have e1 := t.hi
  have e2 := t.lo
  have f0 : fieldAt z 17 7 = d := field_of (t.d)
  have f1 : fieldAt z 10 7 = a := field_of (t.a)
  have f2 : fieldAt z 3 7 = g := field_of (t.b)
  have f3 : fieldAt z 0 3 = c := field_of (t.low)
  unfold decode
  simp only [e1, e2, decodeRow4, f0, f1, f2, f3]

theorem dqxX8 (d : BitVec 7) (a : BitVec 7) (b : BitVec 7) : Statement (.dqxX8 d a b) := by
  intro z hw
  have t := wordT_at (op := 78) (dn := d.toNat) (an := a.toNat) hw (by omega) (by decide) (d.isLt) (a.isLt) (by decide)
  have e1 := t.hi
  have e2 := t.lo
  have f0 : fieldAt z 17 7 = d := field_of (t.d)
  have f1 : fieldAt z 10 7 = a := field_of (t.a)
  have f2 : fieldAt z 3 7 = b := field_of (t.b)
  have g0 : bitsAt z 0 3 = 0 := t.low
  unfold decode
  simp only [e1, e2, guardFixed, beq_self_eq_true, if_true, decodeRow4, f0, f1, f2, g0]

theorem dqxX4 (d : BitVec 7) (a : BitVec 7) (b : BitVec 7) : Statement (.dqxX4 d a b) := by
  intro z hw
  have t := wordT_at (op := 79) (dn := d.toNat) (an := a.toNat) hw (by omega) (by decide) (d.isLt) (a.isLt) (by decide)
  have e1 := t.hi
  have e2 := t.lo
  have f0 : fieldAt z 17 7 = d := field_of (t.d)
  have f1 : fieldAt z 10 7 = a := field_of (t.a)
  have f2 : fieldAt z 3 7 = b := field_of (t.b)
  have g0 : bitsAt z 0 3 = 0 := t.low
  unfold decode
  simp only [e1, e2, guardFixed, beq_self_eq_true, if_true, decodeRow4, f0, f1, f2, g0]

theorem frcpF (d : BitVec 7) (a : BitVec 7) (w : BitVec 1) (f : BitVec 1) : Statement (.frcpF d a w f) := by
  intro z hw
  have t := wordT_at (op := 80) (dn := d.toNat) (an := a.toNat) hw (by omega) (by decide) (d.isLt) (a.isLt) (low3_lt _ _ _)
  have e1 := t.hi
  have e2 := t.lo
  have f0 : fieldAt z 17 7 = d := field_of (t.d)
  have f1 : fieldAt z 10 7 = a := field_of (t.a)
  have f2 : fieldAt z 2 1 = w := field_of (t.w.trans (low3_w _ _ _))
  have f3 : fieldAt z 1 1 = f := field_of (t.f.trans (low3_f _ _ _))
  have g0 : bitsAt z 3 7 = 0 := t.b
  have g1 : bitsAt z 0 1 = 0 := t.g.trans (low3_g _ _ _)
  unfold decode
  simp only [e1, e2, guardFixed, beq_self_eq_true, Bool.and_self, if_true, decodeRow5, f0, f1, f2, f3, g0, g1]

theorem frsqF (d : BitVec 7) (a : BitVec 7) (w : BitVec 1) (f : BitVec 1) : Statement (.frsqF d a w f) := by
  intro z hw
  have t := wordT_at (op := 81) (dn := d.toNat) (an := a.toNat) hw (by omega) (by decide) (d.isLt) (a.isLt) (low3_lt _ _ _)
  have e1 := t.hi
  have e2 := t.lo
  have f0 : fieldAt z 17 7 = d := field_of (t.d)
  have f1 : fieldAt z 10 7 = a := field_of (t.a)
  have f2 : fieldAt z 2 1 = w := field_of (t.w.trans (low3_w _ _ _))
  have f3 : fieldAt z 1 1 = f := field_of (t.f.trans (low3_f _ _ _))
  have g0 : bitsAt z 3 7 = 0 := t.b
  have g1 : bitsAt z 0 1 = 0 := t.g.trans (low3_g _ _ _)
  unfold decode
  simp only [e1, e2, guardFixed, beq_self_eq_true, Bool.and_self, if_true, decodeRow5, f0, f1, f2, f3, g0, g1]

theorem fex2F (d : BitVec 7) (a : BitVec 7) (w : BitVec 1) (f : BitVec 1) : Statement (.fex2F d a w f) := by
  intro z hw
  have t := wordT_at (op := 82) (dn := d.toNat) (an := a.toNat) hw (by omega) (by decide) (d.isLt) (a.isLt) (low3_lt _ _ _)
  have e1 := t.hi
  have e2 := t.lo
  have f0 : fieldAt z 17 7 = d := field_of (t.d)
  have f1 : fieldAt z 10 7 = a := field_of (t.a)
  have f2 : fieldAt z 2 1 = w := field_of (t.w.trans (low3_w _ _ _))
  have f3 : fieldAt z 1 1 = f := field_of (t.f.trans (low3_f _ _ _))
  have g0 : bitsAt z 3 7 = 0 := t.b
  have g1 : bitsAt z 0 1 = 0 := t.g.trans (low3_g _ _ _)
  unfold decode
  simp only [e1, e2, guardFixed, beq_self_eq_true, Bool.and_self, if_true, decodeRow5, f0, f1, f2, f3, g0, g1]

theorem flg2F (d : BitVec 7) (a : BitVec 7) (w : BitVec 1) (f : BitVec 1) : Statement (.flg2F d a w f) := by
  intro z hw
  have t := wordT_at (op := 83) (dn := d.toNat) (an := a.toNat) hw (by omega) (by decide) (d.isLt) (a.isLt) (low3_lt _ _ _)
  have e1 := t.hi
  have e2 := t.lo
  have f0 : fieldAt z 17 7 = d := field_of (t.d)
  have f1 : fieldAt z 10 7 = a := field_of (t.a)
  have f2 : fieldAt z 2 1 = w := field_of (t.w.trans (low3_w _ _ _))
  have f3 : fieldAt z 1 1 = f := field_of (t.f.trans (low3_f _ _ _))
  have g0 : bitsAt z 3 7 = 0 := t.b
  have g1 : bitsAt z 0 1 = 0 := t.g.trans (low3_g _ _ _)
  unfold decode
  simp only [e1, e2, guardFixed, beq_self_eq_true, Bool.and_self, if_true, decodeRow5, f0, f1, f2, f3, g0, g1]

theorem fsinF (d : BitVec 7) (a : BitVec 7) (w : BitVec 1) (f : BitVec 1) : Statement (.fsinF d a w f) := by
  intro z hw
  have t := wordT_at (op := 84) (dn := d.toNat) (an := a.toNat) hw (by omega) (by decide) (d.isLt) (a.isLt) (low3_lt _ _ _)
  have e1 := t.hi
  have e2 := t.lo
  have f0 : fieldAt z 17 7 = d := field_of (t.d)
  have f1 : fieldAt z 10 7 = a := field_of (t.a)
  have f2 : fieldAt z 2 1 = w := field_of (t.w.trans (low3_w _ _ _))
  have f3 : fieldAt z 1 1 = f := field_of (t.f.trans (low3_f _ _ _))
  have g0 : bitsAt z 3 7 = 0 := t.b
  have g1 : bitsAt z 0 1 = 0 := t.g.trans (low3_g _ _ _)
  unfold decode
  simp only [e1, e2, guardFixed, beq_self_eq_true, Bool.and_self, if_true, decodeRow5, f0, f1, f2, f3, g0, g1]

theorem fcosF (d : BitVec 7) (a : BitVec 7) (w : BitVec 1) (f : BitVec 1) : Statement (.fcosF d a w f) := by
  intro z hw
  have t := wordT_at (op := 85) (dn := d.toNat) (an := a.toNat) hw (by omega) (by decide) (d.isLt) (a.isLt) (low3_lt _ _ _)
  have e1 := t.hi
  have e2 := t.lo
  have f0 : fieldAt z 17 7 = d := field_of (t.d)
  have f1 : fieldAt z 10 7 = a := field_of (t.a)
  have f2 : fieldAt z 2 1 = w := field_of (t.w.trans (low3_w _ _ _))
  have f3 : fieldAt z 1 1 = f := field_of (t.f.trans (low3_f _ _ _))
  have g0 : bitsAt z 3 7 = 0 := t.b
  have g1 : bitsAt z 0 1 = 0 := t.g.trans (low3_g _ _ _)
  unfold decode
  simp only [e1, e2, guardFixed, beq_self_eq_true, Bool.and_self, if_true, decodeRow5, f0, f1, f2, f3, g0, g1]

theorem drca (d : BitVec 7) (a : BitVec 7) (w : BitVec 1) (f : BitVec 1) : Statement (.drca d a w f) := by
  intro z hw
  have t := wordT_at (op := 86) (dn := d.toNat) (an := a.toNat) hw (by omega) (by decide) (d.isLt) (a.isLt) (low3_lt _ _ _)
  have e1 := t.hi
  have e2 := t.lo
  have f0 : fieldAt z 17 7 = d := field_of (t.d)
  have f1 : fieldAt z 10 7 = a := field_of (t.a)
  have f2 : fieldAt z 2 1 = w := field_of (t.w.trans (low3_w _ _ _))
  have f3 : fieldAt z 1 1 = f := field_of (t.f.trans (low3_f _ _ _))
  have g0 : bitsAt z 3 7 = 0 := t.b
  have g1 : bitsAt z 0 1 = 0 := t.g.trans (low3_g _ _ _)
  unfold decode
  simp only [e1, e2, guardFixed, beq_self_eq_true, Bool.and_self, if_true, decodeRow5, f0, f1, f2, f3, g0, g1]

theorem drsa (d : BitVec 7) (a : BitVec 7) (w : BitVec 1) (f : BitVec 1) : Statement (.drsa d a w f) := by
  intro z hw
  have t := wordT_at (op := 87) (dn := d.toNat) (an := a.toNat) hw (by omega) (by decide) (d.isLt) (a.isLt) (low3_lt _ _ _)
  have e1 := t.hi
  have e2 := t.lo
  have f0 : fieldAt z 17 7 = d := field_of (t.d)
  have f1 : fieldAt z 10 7 = a := field_of (t.a)
  have f2 : fieldAt z 2 1 = w := field_of (t.w.trans (low3_w _ _ _))
  have f3 : fieldAt z 1 1 = f := field_of (t.f.trans (low3_f _ _ _))
  have g0 : bitsAt z 3 7 = 0 := t.b
  have g1 : bitsAt z 0 1 = 0 := t.g.trans (low3_g _ _ _)
  unfold decode
  simp only [e1, e2, guardFixed, beq_self_eq_true, Bool.and_self, if_true, decodeRow5, f0, f1, f2, f3, g0, g1]

theorem rbox (d : BitVec 7) (a : BitVec 7) (f : BitVec 1) : Statement (.rbox d a f) := by
  intro z hw
  have t := wordT_at (op := 88) (dn := d.toNat) (an := a.toNat) hw (by omega) (by decide) (d.isLt) (a.isLt) (low3_lt _ _ _)
  have e1 := t.hi
  have e2 := t.lo
  have f0 : fieldAt z 17 7 = d := field_of (t.d)
  have f1 : fieldAt z 10 7 = a := field_of (t.a)
  have f2 : fieldAt z 1 1 = f := field_of (t.f.trans (low3_f _ _ _))
  have g0 : bitsAt z 2 8 = 0 := by
    have hv := t.val
    simp only [low3, BitVec.ofNat_eq_ofNat, BitVec.toNat_ofNat, Nat.zero_mod] at hv
    have := f.isLt
    unfold bitsAt; omega
  have g1 : bitsAt z 0 1 = 0 := t.g.trans (low3_g _ _ _)
  unfold decode
  simp only [e1, e2, guardFixed, beq_self_eq_true, Bool.and_self, if_true, decodeRow5, f0, f1, f2, g0, g1]

theorem rtri (d : BitVec 7) (a : BitVec 7) (f : BitVec 1) : Statement (.rtri d a f) := by
  intro z hw
  have t := wordT_at (op := 89) (dn := d.toNat) (an := a.toNat) hw (by omega) (by decide) (d.isLt) (a.isLt) (low3_lt _ _ _)
  have e1 := t.hi
  have e2 := t.lo
  have f0 : fieldAt z 17 7 = d := field_of (t.d)
  have f1 : fieldAt z 10 7 = a := field_of (t.a)
  have f2 : fieldAt z 1 1 = f := field_of (t.f.trans (low3_f _ _ _))
  have g0 : bitsAt z 2 8 = 0 := by
    have hv := t.val
    simp only [low3, BitVec.ofNat_eq_ofNat, BitVec.toNat_ofNat, Nat.zero_mod] at hv
    have := f.isLt
    unfold bitsAt; omega
  have g1 : bitsAt z 0 1 = 0 := t.g.trans (low3_g _ _ _)
  unfold decode
  simp only [e1, e2, guardFixed, beq_self_eq_true, Bool.and_self, if_true, decodeRow5, f0, f1, f2, g0, g1]

theorem sel (d : BitVec 7) (a : BitVec 7) (b : BitVec 7) (c : BitVec 3) : Statement (.sel d a b c) := by
  intro z hw
  have t := wordT_at (op := 90) (dn := d.toNat) (an := a.toNat) hw (by omega) (by decide) (d.isLt) (a.isLt) (c.isLt)
  have e1 := t.hi
  have e2 := t.lo
  have f0 : fieldAt z 17 7 = d := field_of (t.d)
  have f1 : fieldAt z 10 7 = a := field_of (t.a)
  have f2 : fieldAt z 3 7 = b := field_of (t.b)
  have f3 : fieldAt z 0 3 = c := field_of (t.low)
  unfold decode
  simp only [e1, e2, decodeRow5, f0, f1, f2, f3]

theorem mov (d : BitVec 7) (a : BitVec 7) (w : BitVec 1) (f : BitVec 1) : Statement (.mov d a w f) := by
  intro z hw
  have t := wordT_at (op := 91) (dn := d.toNat) (an := a.toNat) hw (by omega) (by decide) (d.isLt) (a.isLt) (low3_lt _ _ _)
  have e1 := t.hi
  have e2 := t.lo
  have f0 : fieldAt z 17 7 = d := field_of (t.d)
  have f1 : fieldAt z 10 7 = a := field_of (t.a)
  have f2 : fieldAt z 2 1 = w := field_of (t.w.trans (low3_w _ _ _))
  have f3 : fieldAt z 1 1 = f := field_of (t.f.trans (low3_f _ _ _))
  have g0 : bitsAt z 3 7 = 0 := t.b
  have g1 : bitsAt z 0 1 = 0 := t.g.trans (low3_g _ _ _)
  unfold decode
  simp only [e1, e2, guardFixed, beq_self_eq_true, Bool.and_self, if_true, decodeRow5, f0, f1, f2, f3, g0, g1]

theorem ccget (d : BitVec 7) : Statement (.ccget d) := by
  intro z hw
  have t := wordT_at (op := 92) (dn := d.toNat) (an := 0) hw (by simp) (by decide) (d.isLt) (by decide) (by decide)
  have e1 := t.hi
  have e2 := t.lo
  have f0 : fieldAt z 17 7 = d := field_of (t.d)
  have g0 : bitsAt z 0 17 = 0 := by
    have hv := t.val
    try simp only [BitVec.ofNat_eq_ofNat, BitVec.toNat_ofNat, Nat.zero_mod] at hv
    unfold bitsAt; omega
  unfold decode
  simp only [e1, e2, guardFixed, beq_self_eq_true, if_true, decodeRow5, f0, g0]

theorem ccset (a : BitVec 7) (f : BitVec 1) : Statement (.ccset a f) := by
  intro z hw
  have t := wordT_at (op := 93) (dn := 121) (an := a.toNat) hw (by simp) (by decide) (by decide) (a.isLt) (low3_lt _ _ _)
  have e1 := t.hi
  have e2 := t.lo
  have f0 : fieldAt z 10 7 = a := field_of (t.a)
  have f1 : fieldAt z 1 1 = f := field_of (t.f.trans (low3_f _ _ _))
  have g0 : bitsAt z 17 7 = 121 := t.d
  have g1 : bitsAt z 2 8 = 0 := by
    have hv := t.val
    simp only [low3, BitVec.ofNat_eq_ofNat, BitVec.toNat_ofNat, Nat.zero_mod] at hv
    have := f.isLt
    unfold bitsAt; omega
  have g2 : bitsAt z 0 1 = 0 := t.g.trans (low3_g _ _ _)
  unfold decode
  simp only [e1, e2, guardFixed, beq_self_eq_true, Bool.and_self, if_true, decodeRow5, f0, f1, g0, g1, g2]

theorem shflIdx (d : BitVec 7) (a : BitVec 7) (b : BitVec 7) (f : BitVec 1) (g : BitVec 1) : Statement (.shflIdx d a b f g) := by
  intro z hw
  have t := wordT_at (op := 96) (dn := d.toNat) (an := a.toNat) hw (by omega) (by decide) (d.isLt) (a.isLt) (low3_lt _ _ _)
  have e1 := t.hi
  have e2 := t.lo
  have f0 : fieldAt z 17 7 = d := field_of (t.d)
  have f1 : fieldAt z 10 7 = a := field_of (t.a)
  have f2 : fieldAt z 3 7 = b := field_of (t.b)
  have f3 : fieldAt z 1 1 = f := field_of (t.f.trans (low3_f _ _ _))
  have f4 : fieldAt z 0 1 = g := field_of (t.g.trans (low3_g _ _ _))
  have g0 : bitsAt z 2 1 = 0 := t.w.trans (low3_w _ _ _)
  unfold decode
  simp only [e1, e2, guardFixed, beq_self_eq_true, if_true, decodeRow6, f0, f1, f2, f3, f4, g0]

theorem shflXor (d : BitVec 7) (a : BitVec 7) (b : BitVec 7) (f : BitVec 1) (g : BitVec 1) : Statement (.shflXor d a b f g) := by
  intro z hw
  have t := wordT_at (op := 97) (dn := d.toNat) (an := a.toNat) hw (by omega) (by decide) (d.isLt) (a.isLt) (low3_lt _ _ _)
  have e1 := t.hi
  have e2 := t.lo
  have f0 : fieldAt z 17 7 = d := field_of (t.d)
  have f1 : fieldAt z 10 7 = a := field_of (t.a)
  have f2 : fieldAt z 3 7 = b := field_of (t.b)
  have f3 : fieldAt z 1 1 = f := field_of (t.f.trans (low3_f _ _ _))
  have f4 : fieldAt z 0 1 = g := field_of (t.g.trans (low3_g _ _ _))
  have g0 : bitsAt z 2 1 = 0 := t.w.trans (low3_w _ _ _)
  unfold decode
  simp only [e1, e2, guardFixed, beq_self_eq_true, if_true, decodeRow6, f0, f1, f2, f3, f4, g0]

theorem shflUp (d : BitVec 7) (a : BitVec 7) (b : BitVec 7) (f : BitVec 1) (g : BitVec 1) : Statement (.shflUp d a b f g) := by
  intro z hw
  have t := wordT_at (op := 98) (dn := d.toNat) (an := a.toNat) hw (by omega) (by decide) (d.isLt) (a.isLt) (low3_lt _ _ _)
  have e1 := t.hi
  have e2 := t.lo
  have f0 : fieldAt z 17 7 = d := field_of (t.d)
  have f1 : fieldAt z 10 7 = a := field_of (t.a)
  have f2 : fieldAt z 3 7 = b := field_of (t.b)
  have f3 : fieldAt z 1 1 = f := field_of (t.f.trans (low3_f _ _ _))
  have f4 : fieldAt z 0 1 = g := field_of (t.g.trans (low3_g _ _ _))
  have g0 : bitsAt z 2 1 = 0 := t.w.trans (low3_w _ _ _)
  unfold decode
  simp only [e1, e2, guardFixed, beq_self_eq_true, if_true, decodeRow6, f0, f1, f2, f3, f4, g0]

theorem shflDn (d : BitVec 7) (a : BitVec 7) (b : BitVec 7) (f : BitVec 1) (g : BitVec 1) : Statement (.shflDn d a b f g) := by
  intro z hw
  have t := wordT_at (op := 99) (dn := d.toNat) (an := a.toNat) hw (by omega) (by decide) (d.isLt) (a.isLt) (low3_lt _ _ _)
  have e1 := t.hi
  have e2 := t.lo
  have f0 : fieldAt z 17 7 = d := field_of (t.d)
  have f1 : fieldAt z 10 7 = a := field_of (t.a)
  have f2 : fieldAt z 3 7 = b := field_of (t.b)
  have f3 : fieldAt z 1 1 = f := field_of (t.f.trans (low3_f _ _ _))
  have f4 : fieldAt z 0 1 = g := field_of (t.g.trans (low3_g _ _ _))
  have g0 : bitsAt z 2 1 = 0 := t.w.trans (low3_w _ _ _)
  unfold decode
  simp only [e1, e2, guardFixed, beq_self_eq_true, if_true, decodeRow6, f0, f1, f2, f3, f4, g0]

theorem bcst (d : BitVec 7) (a : BitVec 7) (b : BitVec 7) (f : BitVec 1) (g : BitVec 1) : Statement (.bcst d a b f g) := by
  intro z hw
  have t := wordT_at (op := 100) (dn := d.toNat) (an := a.toNat) hw (by omega) (by decide) (d.isLt) (a.isLt) (low3_lt _ _ _)
  have e1 := t.hi
  have e2 := t.lo
  have f0 : fieldAt z 17 7 = d := field_of (t.d)
  have f1 : fieldAt z 10 7 = a := field_of (t.a)
  have f2 : fieldAt z 3 7 = b := field_of (t.b)
  have f3 : fieldAt z 1 1 = f := field_of (t.f.trans (low3_f _ _ _))
  have f4 : fieldAt z 0 1 = g := field_of (t.g.trans (low3_g _ _ _))
  have g0 : bitsAt z 2 1 = 0 := t.w.trans (low3_w _ _ _)
  unfold decode
  simp only [e1, e2, guardFixed, beq_self_eq_true, if_true, decodeRow6, f0, f1, f2, f3, f4, g0]

theorem vote (d : BitVec 7) (a : BitVec 7) (f : BitVec 1) : Statement (.vote d a f) := by
  intro z hw
  have t := wordT_at (op := 101) (dn := d.toNat) (an := a.toNat) hw (by omega) (by decide) (d.isLt) (a.isLt) (low3_lt _ _ _)
  have e1 := t.hi
  have e2 := t.lo
  have f0 : fieldAt z 17 7 = d := field_of (t.d)
  have f1 : fieldAt z 10 7 = a := field_of (t.a)
  have f2 : fieldAt z 1 1 = f := field_of (t.f.trans (low3_f _ _ _))
  have g0 : bitsAt z 2 8 = 0 := by
    have hv := t.val
    simp only [low3, BitVec.ofNat_eq_ofNat, BitVec.toNat_ofNat, Nat.zero_mod] at hv
    have := f.isLt
    unfold bitsAt; omega
  have g1 : bitsAt z 0 1 = 0 := t.g.trans (low3_g _ _ _)
  unfold decode
  simp only [e1, e2, guardFixed, beq_self_eq_true, Bool.and_self, if_true, decodeRow6, f0, f1, f2, g0, g1]

theorem mtch (d : BitVec 7) (a : BitVec 7) (f : BitVec 1) : Statement (.mtch d a f) := by
  intro z hw
  have t := wordT_at (op := 102) (dn := d.toNat) (an := a.toNat) hw (by omega) (by decide) (d.isLt) (a.isLt) (low3_lt _ _ _)
  have e1 := t.hi
  have e2 := t.lo
  have f0 : fieldAt z 17 7 = d := field_of (t.d)
  have f1 : fieldAt z 10 7 = a := field_of (t.a)
  have f2 : fieldAt z 1 1 = f := field_of (t.f.trans (low3_f _ _ _))
  have g0 : bitsAt z 2 8 = 0 := by
    have hv := t.val
    simp only [low3, BitVec.ofNat_eq_ofNat, BitVec.toNat_ofNat, Nat.zero_mod] at hv
    have := f.isLt
    unfold bitsAt; omega
  have g1 : bitsAt z 0 1 = 0 := t.g.trans (low3_g _ _ _)
  unfold decode
  simp only [e1, e2, guardFixed, beq_self_eq_true, Bool.and_self, if_true, decodeRow6, f0, f1, f2, g0, g1]

theorem xrd (d : BitVec 7) (a : BitVec 7) (b : BitVec 7) (g : BitVec 1) : Statement (.xrd d a b g) := by
  intro z hw
  have t := wordT_at (op := 103) (dn := d.toNat) (an := a.toNat) hw (by omega) (by decide) (d.isLt) (a.isLt) (low3_lt _ _ _)
  have e1 := t.hi
  have e2 := t.lo
  have f0 : fieldAt z 17 7 = d := field_of (t.d)
  have f1 : fieldAt z 10 7 = a := field_of (t.a)
  have f2 : fieldAt z 3 7 = b := field_of (t.b)
  have f3 : fieldAt z 0 1 = g := field_of (t.g.trans (low3_g _ _ _))
  have g0 : bitsAt z 1 2 = 0 := by
    have hv := t.val
    simp only [low3, BitVec.ofNat_eq_ofNat, BitVec.toNat_ofNat, Nat.zero_mod] at hv
    have := g.isLt
    unfold bitsAt; omega
  unfold decode
  simp only [e1, e2, guardFixed, beq_self_eq_true, if_true, decodeRow6, f0, f1, f2, f3, g0]

theorem redAdd (d : BitVec 7) (b : BitVec 7) (g : BitVec 1) : Statement (.redAdd d b g) := by
  intro z hw
  have t := wordT_at (op := 104) (dn := d.toNat) (an := 121) hw (by simp; omega) (by decide) (d.isLt) (by decide) (low3_lt _ _ _)
  have e1 := t.hi
  have e2 := t.lo
  have f0 : fieldAt z 17 7 = d := field_of (t.d)
  have f1 : fieldAt z 3 7 = b := field_of (t.b)
  have f2 : fieldAt z 0 1 = g := field_of (t.g.trans (low3_g _ _ _))
  have g0 : bitsAt z 10 7 = 121 := t.a
  have g1 : bitsAt z 1 2 = 0 := by
    have hv := t.val
    simp only [low3, BitVec.ofNat_eq_ofNat, BitVec.toNat_ofNat, Nat.zero_mod] at hv
    have := g.isLt
    unfold bitsAt; omega
  unfold decode
  simp only [e1, e2, guardFixed, beq_self_eq_true, Bool.and_self, if_true, decodeRow6, f0, f1, f2, g0, g1]

theorem redMin (d : BitVec 7) (b : BitVec 7) (g : BitVec 1) : Statement (.redMin d b g) := by
  intro z hw
  have t := wordT_at (op := 105) (dn := d.toNat) (an := 121) hw (by simp; omega) (by decide) (d.isLt) (by decide) (low3_lt _ _ _)
  have e1 := t.hi
  have e2 := t.lo
  have f0 : fieldAt z 17 7 = d := field_of (t.d)
  have f1 : fieldAt z 3 7 = b := field_of (t.b)
  have f2 : fieldAt z 0 1 = g := field_of (t.g.trans (low3_g _ _ _))
  have g0 : bitsAt z 10 7 = 121 := t.a
  have g1 : bitsAt z 1 2 = 0 := by
    have hv := t.val
    simp only [low3, BitVec.ofNat_eq_ofNat, BitVec.toNat_ofNat, Nat.zero_mod] at hv
    have := g.isLt
    unfold bitsAt; omega
  unfold decode
  simp only [e1, e2, guardFixed, beq_self_eq_true, Bool.and_self, if_true, decodeRow6, f0, f1, f2, g0, g1]

theorem redMax (d : BitVec 7) (b : BitVec 7) (g : BitVec 1) : Statement (.redMax d b g) := by
  intro z hw
  have t := wordT_at (op := 106) (dn := d.toNat) (an := 121) hw (by simp; omega) (by decide) (d.isLt) (by decide) (low3_lt _ _ _)
  have e1 := t.hi
  have e2 := t.lo
  have f0 : fieldAt z 17 7 = d := field_of (t.d)
  have f1 : fieldAt z 3 7 = b := field_of (t.b)
  have f2 : fieldAt z 0 1 = g := field_of (t.g.trans (low3_g _ _ _))
  have g0 : bitsAt z 10 7 = 121 := t.a
  have g1 : bitsAt z 1 2 = 0 := by
    have hv := t.val
    simp only [low3, BitVec.ofNat_eq_ofNat, BitVec.toNat_ofNat, Nat.zero_mod] at hv
    have := g.isLt
    unfold bitsAt; omega
  unfold decode
  simp only [e1, e2, guardFixed, beq_self_eq_true, Bool.and_self, if_true, decodeRow6, f0, f1, f2, g0, g1]

theorem redFaddD (d : BitVec 7) (b : BitVec 7) (g : BitVec 1) : Statement (.redFaddD d b g) := by
  intro z hw
  have t := wordT_at (op := 107) (dn := d.toNat) (an := 121) hw (by simp; omega) (by decide) (d.isLt) (by decide) (low3_lt _ _ _)
  have e1 := t.hi
  have e2 := t.lo
  have f0 : fieldAt z 17 7 = d := field_of (t.d)
  have f1 : fieldAt z 3 7 = b := field_of (t.b)
  have f2 : fieldAt z 0 1 = g := field_of (t.g.trans (low3_g _ _ _))
  have g0 : bitsAt z 10 7 = 121 := t.a
  have g1 : bitsAt z 1 2 = 0 := by
    have hv := t.val
    simp only [low3, BitVec.ofNat_eq_ofNat, BitVec.toNat_ofNat, Nat.zero_mod] at hv
    have := g.isLt
    unfold bitsAt; omega
  unfold decode
  simp only [e1, e2, guardFixed, beq_self_eq_true, Bool.and_self, if_true, decodeRow6, f0, f1, f2, g0, g1]

theorem redFaddF (d : BitVec 7) (b : BitVec 7) (g : BitVec 1) : Statement (.redFaddF d b g) := by
  intro z hw
  have t := wordT_at (op := 108) (dn := d.toNat) (an := 121) hw (by simp; omega) (by decide) (d.isLt) (by decide) (low3_lt _ _ _)
  have e1 := t.hi
  have e2 := t.lo
  have f0 : fieldAt z 17 7 = d := field_of (t.d)
  have f1 : fieldAt z 3 7 = b := field_of (t.b)
  have f2 : fieldAt z 0 1 = g := field_of (t.g.trans (low3_g _ _ _))
  have g0 : bitsAt z 10 7 = 121 := t.a
  have g1 : bitsAt z 1 2 = 0 := by
    have hv := t.val
    simp only [low3, BitVec.ofNat_eq_ofNat, BitVec.toNat_ofNat, Nat.zero_mod] at hv
    have := g.isLt
    unfold bitsAt; omega
  unfold decode
  simp only [e1, e2, guardFixed, beq_self_eq_true, Bool.and_self, if_true, decodeRow6, f0, f1, f2, g0, g1]

theorem scanAdd (d : BitVec 7) (b : BitVec 7) (g : BitVec 1) : Statement (.scanAdd d b g) := by
  intro z hw
  have t := wordT_at (op := 109) (dn := d.toNat) (an := 121) hw (by simp; omega) (by decide) (d.isLt) (by decide) (low3_lt _ _ _)
  have e1 := t.hi
  have e2 := t.lo
  have f0 : fieldAt z 17 7 = d := field_of (t.d)
  have f1 : fieldAt z 3 7 = b := field_of (t.b)
  have f2 : fieldAt z 0 1 = g := field_of (t.g.trans (low3_g _ _ _))
  have g0 : bitsAt z 10 7 = 121 := t.a
  have g1 : bitsAt z 1 2 = 0 := by
    have hv := t.val
    simp only [low3, BitVec.ofNat_eq_ofNat, BitVec.toNat_ofNat, Nat.zero_mod] at hv
    have := g.isLt
    unfold bitsAt; omega
  unfold decode
  simp only [e1, e2, guardFixed, beq_self_eq_true, Bool.and_self, if_true, decodeRow6, f0, f1, f2, g0, g1]

theorem scanFaddD (d : BitVec 7) (b : BitVec 7) (g : BitVec 1) : Statement (.scanFaddD d b g) := by
  intro z hw
  have t := wordT_at (op := 110) (dn := d.toNat) (an := 121) hw (by simp; omega) (by decide) (d.isLt) (by decide) (low3_lt _ _ _)
  have e1 := t.hi
  have e2 := t.lo
  have f0 : fieldAt z 17 7 = d := field_of (t.d)
  have f1 : fieldAt z 3 7 = b := field_of (t.b)
  have f2 : fieldAt z 0 1 = g := field_of (t.g.trans (low3_g _ _ _))
  have g0 : bitsAt z 10 7 = 121 := t.a
  have g1 : bitsAt z 1 2 = 0 := by
    have hv := t.val
    simp only [low3, BitVec.ofNat_eq_ofNat, BitVec.toNat_ofNat, Nat.zero_mod] at hv
    have := g.isLt
    unfold bitsAt; omega
  unfold decode
  simp only [e1, e2, guardFixed, beq_self_eq_true, Bool.and_self, if_true, decodeRow6, f0, f1, f2, g0, g1]

theorem ldx64 (d : BitVec 7) (a : BitVec 7) (b : BitVec 7) (f : BitVec 1) (g : BitVec 1) : Statement (.ldx64 d a b f g) := by
  intro z hw
  have t := wordT_at (op := 112) (dn := d.toNat) (an := a.toNat) hw (by omega) (by decide) (d.isLt) (a.isLt) (low3_lt _ _ _)
  have e1 := t.hi
  have e2 := t.lo
  have f0 : fieldAt z 17 7 = d := field_of (t.d)
  have f1 : fieldAt z 10 7 = a := field_of (t.a)
  have f2 : fieldAt z 3 7 = b := field_of (t.b)
  have f3 : fieldAt z 1 1 = f := field_of (t.f.trans (low3_f _ _ _))
  have f4 : fieldAt z 0 1 = g := field_of (t.g.trans (low3_g _ _ _))
  have g0 : bitsAt z 2 1 = 0 := t.w.trans (low3_w _ _ _)
  unfold decode
  simp only [e1, e2, guardFixed, beq_self_eq_true, if_true, decodeRow7, f0, f1, f2, f3, f4, g0]

theorem ldxS32 (d : BitVec 7) (a : BitVec 7) (b : BitVec 7) (f : BitVec 1) (g : BitVec 1) : Statement (.ldxS32 d a b f g) := by
  intro z hw
  have t := wordT_at (op := 113) (dn := d.toNat) (an := a.toNat) hw (by omega) (by decide) (d.isLt) (a.isLt) (low3_lt _ _ _)
  have e1 := t.hi
  have e2 := t.lo
  have f0 : fieldAt z 17 7 = d := field_of (t.d)
  have f1 : fieldAt z 10 7 = a := field_of (t.a)
  have f2 : fieldAt z 3 7 = b := field_of (t.b)
  have f3 : fieldAt z 1 1 = f := field_of (t.f.trans (low3_f _ _ _))
  have f4 : fieldAt z 0 1 = g := field_of (t.g.trans (low3_g _ _ _))
  have g0 : bitsAt z 2 1 = 0 := t.w.trans (low3_w _ _ _)
  unfold decode
  simp only [e1, e2, guardFixed, beq_self_eq_true, if_true, decodeRow7, f0, f1, f2, f3, f4, g0]

theorem stx64 (d : BitVec 7) (a : BitVec 7) (b : BitVec 7) (f : BitVec 1) (g : BitVec 1) : Statement (.stx64 d a b f g) := by
  intro z hw
  have t := wordT_at (op := 114) (dn := d.toNat) (an := a.toNat) hw (by omega) (by decide) (d.isLt) (a.isLt) (low3_lt _ _ _)
  have e1 := t.hi
  have e2 := t.lo
  have f0 : fieldAt z 17 7 = d := field_of (t.d)
  have f1 : fieldAt z 10 7 = a := field_of (t.a)
  have f2 : fieldAt z 3 7 = b := field_of (t.b)
  have f3 : fieldAt z 1 1 = f := field_of (t.f.trans (low3_f _ _ _))
  have f4 : fieldAt z 0 1 = g := field_of (t.g.trans (low3_g _ _ _))
  have g0 : bitsAt z 2 1 = 0 := t.w.trans (low3_w _ _ _)
  unfold decode
  simp only [e1, e2, guardFixed, beq_self_eq_true, if_true, decodeRow7, f0, f1, f2, f3, f4, g0]

theorem stx32 (d : BitVec 7) (a : BitVec 7) (b : BitVec 7) (f : BitVec 1) (g : BitVec 1) : Statement (.stx32 d a b f g) := by
  intro z hw
  have t := wordT_at (op := 115) (dn := d.toNat) (an := a.toNat) hw (by omega) (by decide) (d.isLt) (a.isLt) (low3_lt _ _ _)
  have e1 := t.hi
  have e2 := t.lo
  have f0 : fieldAt z 17 7 = d := field_of (t.d)
  have f1 : fieldAt z 10 7 = a := field_of (t.a)
  have f2 : fieldAt z 3 7 = b := field_of (t.b)
  have f3 : fieldAt z 1 1 = f := field_of (t.f.trans (low3_f _ _ _))
  have f4 : fieldAt z 0 1 = g := field_of (t.g.trans (low3_g _ _ _))
  have g0 : bitsAt z 2 1 = 0 := t.w.trans (low3_w _ _ _)
  unfold decode
  simp only [e1, e2, guardFixed, beq_self_eq_true, if_true, decodeRow7, f0, f1, f2, f3, f4, g0]

theorem ldv (d : BitVec 7) (a : BitVec 7) (b : BitVec 7) (x : BitVec 3) : Statement (.ldv d a b x) := by
  intro z hw
  have t := wordT_at (op := 116) (dn := d.toNat) (an := a.toNat) hw (by omega) (by decide) (d.isLt) (a.isLt) (x.isLt)
  have e1 := t.hi
  have e2 := t.lo
  have f0 : fieldAt z 17 7 = d := field_of (t.d)
  have f1 : fieldAt z 10 7 = a := field_of (t.a)
  have f2 : fieldAt z 3 7 = b := field_of (t.b)
  have f3 : fieldAt z 0 3 = x := field_of (t.low)
  unfold decode
  simp only [e1, e2, decodeRow7, f0, f1, f2, f3]

theorem lda (d : BitVec 7) (a : BitVec 7) (x : BitVec 3) : Statement (.lda d a x) := by
  intro z hw
  have t := wordT_at (op := 117) (dn := d.toNat) (an := a.toNat) hw (by omega) (by decide) (d.isLt) (a.isLt) (x.isLt)
  have e1 := t.hi
  have e2 := t.lo
  have f0 : fieldAt z 17 7 = d := field_of (t.d)
  have f1 : fieldAt z 10 7 = a := field_of (t.a)
  have f2 : fieldAt z 0 3 = x := field_of (t.low)
  have g0 : bitsAt z 3 7 = 0 := t.b
  unfold decode
  simp only [e1, e2, guardFixed, beq_self_eq_true, if_true, decodeRow7, f0, f1, f2, g0]

theorem str (d : BitVec 7) (a : BitVec 7) (x : BitVec 3) : Statement (.str d a x) := by
  intro z hw
  have t := wordT_at (op := 118) (dn := d.toNat) (an := a.toNat) hw (by omega) (by decide) (d.isLt) (a.isLt) (x.isLt)
  have e1 := t.hi
  have e2 := t.lo
  have f0 : fieldAt z 17 7 = d := field_of (t.d)
  have f1 : fieldAt z 10 7 = a := field_of (t.a)
  have f2 : fieldAt z 0 3 = x := field_of (t.low)
  have g0 : bitsAt z 3 7 = 0 := t.b
  unfold decode
  simp only [e1, e2, guardFixed, beq_self_eq_true, if_true, decodeRow7, f0, f1, f2, g0]

theorem ptog (d : BitVec 7) (a : BitVec 7) (f : BitVec 1) : Statement (.ptog d a f) := by
  intro z hw
  have t := wordT_at (op := 119) (dn := d.toNat) (an := a.toNat) hw (by omega) (by decide) (d.isLt) (a.isLt) (low3_lt _ _ _)
  have e1 := t.hi
  have e2 := t.lo
  have f0 : fieldAt z 17 7 = d := field_of (t.d)
  have f1 : fieldAt z 10 7 = a := field_of (t.a)
  have f2 : fieldAt z 1 1 = f := field_of (t.f.trans (low3_f _ _ _))
  have g0 : bitsAt z 2 8 = 0 := by
    have hv := t.val
    simp only [low3, BitVec.ofNat_eq_ofNat, BitVec.toNat_ofNat, Nat.zero_mod] at hv
    have := f.isLt
    unfold bitsAt; omega
  have g1 : bitsAt z 0 1 = 0 := t.g.trans (low3_g _ _ _)
  unfold decode
  simp only [e1, e2, guardFixed, beq_self_eq_true, Bool.and_self, if_true, decodeRow7, f0, f1, f2, g0, g1]

theorem pref (a : BitVec 7) (h : BitVec 3) : Statement (.pref a h) := by
  intro z hw
  have t := wordT_at (op := 120) (dn := 0) (an := a.toNat) hw (by simp) (by decide) (by decide) (a.isLt) (h.isLt)
  have e1 := t.hi
  have e2 := t.lo
  have f0 : fieldAt z 10 7 = a := field_of (t.a)
  have f1 : fieldAt z 0 3 = h := field_of (t.low)
  have g0 : bitsAt z 17 7 = 0 := t.d
  have g1 : bitsAt z 3 7 = 0 := t.b
  unfold decode
  simp only [e1, e2, guardFixed, beq_self_eq_true, Bool.and_self, if_true, decodeRow7, f0, f1, g0, g1]

theorem flsh (x : BitVec 3) : Statement (.flsh x) := by
  intro z hw
  have t := wordT_at (op := 121) (dn := 0) (an := 0) hw (rfl) (by decide) (by decide) (by decide) (x.isLt)
  have e1 := t.hi
  have e2 := t.lo
  have f0 : fieldAt z 0 3 = x := field_of (t.low)
  have g0 : bitsAt z 3 21 = 0 := by
    have hv := t.val
    try simp only [BitVec.ofNat_eq_ofNat, BitVec.toNat_ofNat, Nat.zero_mod] at hv
    unfold bitsAt; omega
  unfold decode
  simp only [e1, e2, guardFixed, beq_self_eq_true, if_true, decodeRow7, f0, g0]

theorem invl (x : BitVec 3) : Statement (.invl x) := by
  intro z hw
  have t := wordT_at (op := 122) (dn := 0) (an := 0) hw (rfl) (by decide) (by decide) (by decide) (x.isLt)
  have e1 := t.hi
  have e2 := t.lo
  have f0 : fieldAt z 0 3 = x := field_of (t.low)
  have g0 : bitsAt z 3 21 = 0 := by
    have hv := t.val
    try simp only [BitVec.ofNat_eq_ofNat, BitVec.toNat_ofNat, Nat.zero_mod] at hv
    unfold bitsAt; omega
  unfold decode
  simp only [e1, e2, guardFixed, beq_self_eq_true, if_true, decodeRow7, f0, g0]

theorem ldq (d : BitVec 7) (a : BitVec 7) (f : BitVec 1) : Statement (.ldq d a f) := by
  intro z hw
  have t := wordT_at (op := 123) (dn := d.toNat) (an := a.toNat) hw (by omega) (by decide) (d.isLt) (a.isLt) (low3_lt _ _ _)
  have e1 := t.hi
  have e2 := t.lo
  have f0 : fieldAt z 17 7 = d := field_of (t.d)
  have f1 : fieldAt z 10 7 = a := field_of (t.a)
  have f2 : fieldAt z 1 1 = f := field_of (t.f.trans (low3_f _ _ _))
  have g0 : bitsAt z 2 8 = 0 := by
    have hv := t.val
    simp only [low3, BitVec.ofNat_eq_ofNat, BitVec.toNat_ofNat, Nat.zero_mod] at hv
    have := f.isLt
    unfold bitsAt; omega
  have g1 : bitsAt z 0 1 = 0 := t.g.trans (low3_g _ _ _)
  unfold decode
  simp only [e1, e2, guardFixed, beq_self_eq_true, Bool.and_self, if_true, decodeRow7, f0, f1, f2, g0, g1]

theorem stq (d : BitVec 7) (a : BitVec 7) (f : BitVec 1) : Statement (.stq d a f) := by
  intro z hw
  have t := wordT_at (op := 124) (dn := d.toNat) (an := a.toNat) hw (by omega) (by decide) (d.isLt) (a.isLt) (low3_lt _ _ _)
  have e1 := t.hi
  have e2 := t.lo
  have f0 : fieldAt z 17 7 = d := field_of (t.d)
  have f1 : fieldAt z 10 7 = a := field_of (t.a)
  have f2 : fieldAt z 1 1 = f := field_of (t.f.trans (low3_f _ _ _))
  have g0 : bitsAt z 2 8 = 0 := by
    have hv := t.val
    simp only [low3, BitVec.ofNat_eq_ofNat, BitVec.toNat_ofNat, Nat.zero_mod] at hv
    have := f.isLt
    unfold bitsAt; omega
  have g1 : bitsAt z 0 1 = 0 := t.g.trans (low3_g _ _ _)
  unfold decode
  simp only [e1, e2, guardFixed, beq_self_eq_true, Bool.and_self, if_true, decodeRow7, f0, f1, f2, g0, g1]

theorem ldS8 (d : BitVec 7) (a : BitVec 7) (i : BitVec 10) : Statement (.ldS8 d a i) := by
  intro z hw
  obtain ⟨e1, e2, t1, t2, t3⟩ := wordI10_at (op := 128) hw rfl (by decide)
  have f0 : fieldAt z 17 7 = d := field_of t1
  have f1 : fieldAt z 10 7 = a := field_of t2
  have f2 : fieldAt z 0 10 = i := field_of t3
  unfold decode
  simp only [e1, e2, decodeRow8, f0, f1, f2]

theorem ldZ8 (d : BitVec 7) (a : BitVec 7) (i : BitVec 10) : Statement (.ldZ8 d a i) := by
  intro z hw
  obtain ⟨e1, e2, t1, t2, t3⟩ := wordI10_at (op := 129) hw rfl (by decide)
  have f0 : fieldAt z 17 7 = d := field_of t1
  have f1 : fieldAt z 10 7 = a := field_of t2
  have f2 : fieldAt z 0 10 = i := field_of t3
  unfold decode
  simp only [e1, e2, decodeRow8, f0, f1, f2]

theorem ldS16 (d : BitVec 7) (a : BitVec 7) (i : BitVec 10) : Statement (.ldS16 d a i) := by
  intro z hw
  obtain ⟨e1, e2, t1, t2, t3⟩ := wordI10_at (op := 130) hw rfl (by decide)
  have f0 : fieldAt z 17 7 = d := field_of t1
  have f1 : fieldAt z 10 7 = a := field_of t2
  have f2 : fieldAt z 0 10 = i := field_of t3
  unfold decode
  simp only [e1, e2, decodeRow8, f0, f1, f2]

theorem ldZ16 (d : BitVec 7) (a : BitVec 7) (i : BitVec 10) : Statement (.ldZ16 d a i) := by
  intro z hw
  obtain ⟨e1, e2, t1, t2, t3⟩ := wordI10_at (op := 131) hw rfl (by decide)
  have f0 : fieldAt z 17 7 = d := field_of t1
  have f1 : fieldAt z 10 7 = a := field_of t2
  have f2 : fieldAt z 0 10 = i := field_of t3
  unfold decode
  simp only [e1, e2, decodeRow8, f0, f1, f2]

theorem ldS32 (d : BitVec 7) (a : BitVec 7) (i : BitVec 10) : Statement (.ldS32 d a i) := by
  intro z hw
  obtain ⟨e1, e2, t1, t2, t3⟩ := wordI10_at (op := 132) hw rfl (by decide)
  have f0 : fieldAt z 17 7 = d := field_of t1
  have f1 : fieldAt z 10 7 = a := field_of t2
  have f2 : fieldAt z 0 10 = i := field_of t3
  unfold decode
  simp only [e1, e2, decodeRow8, f0, f1, f2]

theorem ldZ32 (d : BitVec 7) (a : BitVec 7) (i : BitVec 10) : Statement (.ldZ32 d a i) := by
  intro z hw
  obtain ⟨e1, e2, t1, t2, t3⟩ := wordI10_at (op := 133) hw rfl (by decide)
  have f0 : fieldAt z 17 7 = d := field_of t1
  have f1 : fieldAt z 10 7 = a := field_of t2
  have f2 : fieldAt z 0 10 = i := field_of t3
  unfold decode
  simp only [e1, e2, decodeRow8, f0, f1, f2]

theorem ld64 (d : BitVec 7) (a : BitVec 7) (i : BitVec 10) : Statement (.ld64 d a i) := by
  intro z hw
  obtain ⟨e1, e2, t1, t2, t3⟩ := wordI10_at (op := 134) hw rfl (by decide)
  have f0 : fieldAt z 17 7 = d := field_of t1
  have f1 : fieldAt z 10 7 = a := field_of t2
  have f2 : fieldAt z 0 10 = i := field_of t3
  unfold decode
  simp only [e1, e2, decodeRow8, f0, f1, f2]

theorem st8 (d : BitVec 7) (a : BitVec 7) (i : BitVec 10) : Statement (.st8 d a i) := by
  intro z hw
  obtain ⟨e1, e2, t1, t2, t3⟩ := wordI10_at (op := 135) hw rfl (by decide)
  have f0 : fieldAt z 17 7 = d := field_of t1
  have f1 : fieldAt z 10 7 = a := field_of t2
  have f2 : fieldAt z 0 10 = i := field_of t3
  unfold decode
  simp only [e1, e2, decodeRow8, f0, f1, f2]

theorem st16 (d : BitVec 7) (a : BitVec 7) (i : BitVec 10) : Statement (.st16 d a i) := by
  intro z hw
  obtain ⟨e1, e2, t1, t2, t3⟩ := wordI10_at (op := 136) hw rfl (by decide)
  have f0 : fieldAt z 17 7 = d := field_of t1
  have f1 : fieldAt z 10 7 = a := field_of t2
  have f2 : fieldAt z 0 10 = i := field_of t3
  unfold decode
  simp only [e1, e2, decodeRow8, f0, f1, f2]

theorem st32 (d : BitVec 7) (a : BitVec 7) (i : BitVec 10) : Statement (.st32 d a i) := by
  intro z hw
  obtain ⟨e1, e2, t1, t2, t3⟩ := wordI10_at (op := 137) hw rfl (by decide)
  have f0 : fieldAt z 17 7 = d := field_of t1
  have f1 : fieldAt z 10 7 = a := field_of t2
  have f2 : fieldAt z 0 10 = i := field_of t3
  unfold decode
  simp only [e1, e2, decodeRow8, f0, f1, f2]

theorem st64 (d : BitVec 7) (a : BitVec 7) (i : BitVec 10) : Statement (.st64 d a i) := by
  intro z hw
  obtain ⟨e1, e2, t1, t2, t3⟩ := wordI10_at (op := 138) hw rfl (by decide)
  have f0 : fieldAt z 17 7 = d := field_of t1
  have f1 : fieldAt z 10 7 = a := field_of t2
  have f2 : fieldAt z 0 10 = i := field_of t3
  unfold decode
  simp only [e1, e2, decodeRow8, f0, f1, f2]

theorem addi (d : BitVec 7) (a : BitVec 7) (i : BitVec 10) : Statement (.addi d a i) := by
  intro z hw
  obtain ⟨e1, e2, t1, t2, t3⟩ := wordI10_at (op := 139) hw rfl (by decide)
  have f0 : fieldAt z 17 7 = d := field_of t1
  have f1 : fieldAt z 10 7 = a := field_of t2
  have f2 : fieldAt z 0 10 = i := field_of t3
  unfold decode
  simp only [e1, e2, decodeRow8, f0, f1, f2]

theorem andi (d : BitVec 7) (a : BitVec 7) (i : BitVec 10) : Statement (.andi d a i) := by
  intro z hw
  obtain ⟨e1, e2, t1, t2, t3⟩ := wordI10_at (op := 140) hw rfl (by decide)
  have f0 : fieldAt z 17 7 = d := field_of t1
  have f1 : fieldAt z 10 7 = a := field_of t2
  have f2 : fieldAt z 0 10 = i := field_of t3
  unfold decode
  simp only [e1, e2, decodeRow8, f0, f1, f2]

theorem ori (d : BitVec 7) (a : BitVec 7) (i : BitVec 10) : Statement (.ori d a i) := by
  intro z hw
  obtain ⟨e1, e2, t1, t2, t3⟩ := wordI10_at (op := 141) hw rfl (by decide)
  have f0 : fieldAt z 17 7 = d := field_of t1
  have f1 : fieldAt z 10 7 = a := field_of t2
  have f2 : fieldAt z 0 10 = i := field_of t3
  unfold decode
  simp only [e1, e2, decodeRow8, f0, f1, f2]

theorem xori (d : BitVec 7) (a : BitVec 7) (i : BitVec 10) : Statement (.xori d a i) := by
  intro z hw
  obtain ⟨e1, e2, t1, t2, t3⟩ := wordI10_at (op := 142) hw rfl (by decide)
  have f0 : fieldAt z 17 7 = d := field_of t1
  have f1 : fieldAt z 10 7 = a := field_of t2
  have f2 : fieldAt z 0 10 = i := field_of t3
  unfold decode
  simp only [e1, e2, decodeRow8, f0, f1, f2]

theorem cmpi (a : BitVec 7) (i : BitVec 10) : Statement (.cmpi a i) := by
  intro z hw
  have h_a := a.isLt
  have h_i := i.isLt
  have hx : z.toNat = 0x8FF20000 + (0 : BitVec 7).toNat * 2 ^ 17 + a.toNat * 2 ^ 10 + (i).toNat := toNat_word hw (by simp; omega)
  try simp only [BitVec.ofNat_eq_ofNat, BitVec.toNat_ofNat, Nat.zero_mod] at hx
  have e1 : bitsAt z 28 4 = 8 := by unfold bitsAt; omega
  have e2 : bitsAt z 24 4 = 15 := by unfold bitsAt; omega
  have f0 : fieldAt z 10 7 = a := field_of (by unfold bitsAt; omega)
  have f1 : fieldAt z 0 10 = i := field_of (by unfold bitsAt; omega)
  have g0 : bitsAt z 17 7 = 121 := by unfold bitsAt; omega
  unfold decode
  simp only [e1, e2, guardFixed, beq_self_eq_true, if_true, decodeRow8, f0, f1, g0]

theorem shli (d : BitVec 7) (a : BitVec 7) (i : BitVec 6) : Statement (.shli d a i) := by
  intro z hw
  have h_d := d.isLt
  have h_a := a.isLt
  have h_i := i.isLt
  have hs : (i.setWidth 10).toNat = i.toNat := by rw [BitVec.toNat_setWidth]; omega
  have hx : z.toNat = 0x90000000 + d.toNat * 2 ^ 17 + a.toNat * 2 ^ 10 + ((i.setWidth 10)).toNat := toNat_word hw (by simp; omega)
  try simp only [BitVec.ofNat_eq_ofNat, BitVec.toNat_ofNat, Nat.zero_mod] at hx
  have e1 : bitsAt z 28 4 = 9 := by unfold bitsAt; omega
  have e2 : bitsAt z 24 4 = 0 := by unfold bitsAt; omega
  have f0 : fieldAt z 17 7 = d := field_of (by unfold bitsAt; omega)
  have f1 : fieldAt z 10 7 = a := field_of (by unfold bitsAt; omega)
  have f2 : fieldAt z 0 6 = i := field_of (by unfold bitsAt; omega)
  have g0 : bitsAt z 6 4 = 0 := by unfold bitsAt; omega
  unfold decode
  simp only [e1, e2, guardFixed, beq_self_eq_true, if_true, decodeRow9, f0, f1, f2, g0]

theorem shri (d : BitVec 7) (a : BitVec 7) (i : BitVec 6) : Statement (.shri d a i) := by
  intro z hw
  have h_d := d.isLt
  have h_a := a.isLt
  have h_i := i.isLt
  have hs : (i.setWidth 10).toNat = i.toNat := by rw [BitVec.toNat_setWidth]; omega
  have hx : z.toNat = 0x91000000 + d.toNat * 2 ^ 17 + a.toNat * 2 ^ 10 + ((i.setWidth 10)).toNat := toNat_word hw (by simp; omega)
  try simp only [BitVec.ofNat_eq_ofNat, BitVec.toNat_ofNat, Nat.zero_mod] at hx
  have e1 : bitsAt z 28 4 = 9 := by unfold bitsAt; omega
  have e2 : bitsAt z 24 4 = 1 := by unfold bitsAt; omega
  have f0 : fieldAt z 17 7 = d := field_of (by unfold bitsAt; omega)
  have f1 : fieldAt z 10 7 = a := field_of (by unfold bitsAt; omega)
  have f2 : fieldAt z 0 6 = i := field_of (by unfold bitsAt; omega)
  have g0 : bitsAt z 6 4 = 0 := by unfold bitsAt; omega
  unfold decode
  simp only [e1, e2, guardFixed, beq_self_eq_true, if_true, decodeRow9, f0, f1, f2, g0]

theorem sari (d : BitVec 7) (a : BitVec 7) (i : BitVec 6) : Statement (.sari d a i) := by
  intro z hw
  have h_d := d.isLt
  have h_a := a.isLt
  have h_i := i.isLt
  have hs : (i.setWidth 10).toNat = i.toNat := by rw [BitVec.toNat_setWidth]; omega
  have hx : z.toNat = 0x92000000 + d.toNat * 2 ^ 17 + a.toNat * 2 ^ 10 + ((i.setWidth 10)).toNat := toNat_word hw (by simp; omega)
  try simp only [BitVec.ofNat_eq_ofNat, BitVec.toNat_ofNat, Nat.zero_mod] at hx
  have e1 : bitsAt z 28 4 = 9 := by unfold bitsAt; omega
  have e2 : bitsAt z 24 4 = 2 := by unfold bitsAt; omega
  have f0 : fieldAt z 17 7 = d := field_of (by unfold bitsAt; omega)
  have f1 : fieldAt z 10 7 = a := field_of (by unfold bitsAt; omega)
  have f2 : fieldAt z 0 6 = i := field_of (by unfold bitsAt; omega)
  have g0 : bitsAt z 6 4 = 0 := by unfold bitsAt; omega
  unfold decode
  simp only [e1, e2, guardFixed, beq_self_eq_true, if_true, decodeRow9, f0, f1, f2, g0]

theorem muli (d : BitVec 7) (a : BitVec 7) (i : BitVec 10) : Statement (.muli d a i) := by
  intro z hw
  obtain ⟨e1, e2, t1, t2, t3⟩ := wordI10_at (op := 147) hw rfl (by decide)
  have f0 : fieldAt z 17 7 = d := field_of t1
  have f1 : fieldAt z 10 7 = a := field_of t2
  have f2 : fieldAt z 0 10 = i := field_of t3
  unfold decode
  simp only [e1, e2, decodeRow9, f0, f1, f2]

theorem movi (d : BitVec 7) (i : BitVec 17) : Statement (.movi d i) := by
  intro z hw
  have h_d := d.isLt
  have h_i := i.isLt
  have hx : z.toNat = 0x98000000 + d.toNat * 2 ^ 17 + i.toNat := toNat_word hw (by omega)
  have e1 : bitsAt z 28 4 = 9 := by unfold bitsAt; omega
  have e2 : bitsAt z 24 4 = 8 := by unfold bitsAt; omega
  have f0 : fieldAt z 17 7 = d := field_of (by unfold bitsAt; omega)
  have f1 : fieldAt z 0 17 = i := field_of (by unfold bitsAt; omega)
  unfold decode
  simp only [e1, e2, decodeRow9, f0, f1]

theorem movh (d : BitVec 7) (i : BitVec 17) : Statement (.movh d i) := by
  intro z hw
  have h_d := d.isLt
  have h_i := i.isLt
  have hx : z.toNat = 0x99000000 + d.toNat * 2 ^ 17 + i.toNat := toNat_word hw (by omega)
  have e1 : bitsAt z 28 4 = 9 := by unfold bitsAt; omega
  have e2 : bitsAt z 24 4 = 9 := by unfold bitsAt; omega
  have f0 : fieldAt z 17 7 = d := field_of (by unfold bitsAt; omega)
  have f1 : fieldAt z 0 17 = i := field_of (by unfold bitsAt; omega)
  unfold decode
  simp only [e1, e2, decodeRow9, f0, f1]

theorem adpc (d : BitVec 7) (i : BitVec 17) : Statement (.adpc d i) := by
  intro z hw
  have h_d := d.isLt
  have h_i := i.isLt
  have hx : z.toNat = 0x9A000000 + d.toNat * 2 ^ 17 + i.toNat := toNat_word hw (by omega)
  have e1 : bitsAt z 28 4 = 9 := by unfold bitsAt; omega
  have e2 : bitsAt z 24 4 = 10 := by unfold bitsAt; omega
  have f0 : fieldAt z 17 7 = d := field_of (by unfold bitsAt; omega)
  have f1 : fieldAt z 0 17 = i := field_of (by unfold bitsAt; omega)
  unfold decode
  simp only [e1, e2, decodeRow9, f0, f1]

theorem aadd (d : BitVec 7) (a : BitVec 7) (b : BitVec 7) (x : BitVec 3) : Statement (.aadd d a b x) := by
  intro z hw
  have t := wordT_at (op := 160) (dn := d.toNat) (an := a.toNat) hw (by omega) (by decide) (d.isLt) (a.isLt) (x.isLt)
  have e1 := t.hi
  have e2 := t.lo
  have f0 : fieldAt z 17 7 = d := field_of (t.d)
  have f1 : fieldAt z 10 7 = a := field_of (t.a)
  have f2 : fieldAt z 3 7 = b := field_of (t.b)
  have f3 : fieldAt z 0 3 = x := field_of (t.low)
  unfold decode
  simp only [e1, e2, decodeRowA, f0, f1, f2, f3]

theorem aaddW (d : BitVec 7) (a : BitVec 7) (b : BitVec 7) (x : BitVec 3) : Statement (.aaddW d a b x) := by
  intro z hw
  have t := wordT_at (op := 161) (dn := d.toNat) (an := a.toNat) hw (by omega) (by decide) (d.isLt) (a.isLt) (x.isLt)
  have e1 := t.hi
  have e2 := t.lo
  have f0 : fieldAt z 17 7 = d := field_of (t.d)
  have f1 : fieldAt z 10 7 = a := field_of (t.a)
  have f2 : fieldAt z 3 7 = b := field_of (t.b)
  have f3 : fieldAt z 0 3 = x := field_of (t.low)
  unfold decode
  simp only [e1, e2, decodeRowA, f0, f1, f2, f3]

theorem aminS (d : BitVec 7) (a : BitVec 7) (b : BitVec 7) (x : BitVec 3) : Statement (.aminS d a b x) := by
  intro z hw
  have t := wordT_at (op := 162) (dn := d.toNat) (an := a.toNat) hw (by omega) (by decide) (d.isLt) (a.isLt) (x.isLt)
  have e1 := t.hi
  have e2 := t.lo
  have f0 : fieldAt z 17 7 = d := field_of (t.d)
  have f1 : fieldAt z 10 7 = a := field_of (t.a)
  have f2 : fieldAt z 3 7 = b := field_of (t.b)
  have f3 : fieldAt z 0 3 = x := field_of (t.low)
  unfold decode
  simp only [e1, e2, decodeRowA, f0, f1, f2, f3]

theorem amaxS (d : BitVec 7) (a : BitVec 7) (b : BitVec 7) (x : BitVec 3) : Statement (.amaxS d a b x) := by
  intro z hw
  have t := wordT_at (op := 163) (dn := d.toNat) (an := a.toNat) hw (by omega) (by decide) (d.isLt) (a.isLt) (x.isLt)
  have e1 := t.hi
  have e2 := t.lo
  have f0 : fieldAt z 17 7 = d := field_of (t.d)
  have f1 : fieldAt z 10 7 = a := field_of (t.a)
  have f2 : fieldAt z 3 7 = b := field_of (t.b)
  have f3 : fieldAt z 0 3 = x := field_of (t.low)
  unfold decode
  simp only [e1, e2, decodeRowA, f0, f1, f2, f3]

theorem aminZ (d : BitVec 7) (a : BitVec 7) (b : BitVec 7) (x : BitVec 3) : Statement (.aminZ d a b x) := by
  intro z hw
  have t := wordT_at (op := 164) (dn := d.toNat) (an := a.toNat) hw (by omega) (by decide) (d.isLt) (a.isLt) (x.isLt)
  have e1 := t.hi
  have e2 := t.lo
  have f0 : fieldAt z 17 7 = d := field_of (t.d)
  have f1 : fieldAt z 10 7 = a := field_of (t.a)
  have f2 : fieldAt z 3 7 = b := field_of (t.b)
  have f3 : fieldAt z 0 3 = x := field_of (t.low)
  unfold decode
  simp only [e1, e2, decodeRowA, f0, f1, f2, f3]

theorem amaxZ (d : BitVec 7) (a : BitVec 7) (b : BitVec 7) (x : BitVec 3) : Statement (.amaxZ d a b x) := by
  intro z hw
  have t := wordT_at (op := 165) (dn := d.toNat) (an := a.toNat) hw (by omega) (by decide) (d.isLt) (a.isLt) (x.isLt)
  have e1 := t.hi
  have e2 := t.lo
  have f0 : fieldAt z 17 7 = d := field_of (t.d)
  have f1 : fieldAt z 10 7 = a := field_of (t.a)
  have f2 : fieldAt z 3 7 = b := field_of (t.b)
  have f3 : fieldAt z 0 3 = x := field_of (t.low)
  unfold decode
  simp only [e1, e2, decodeRowA, f0, f1, f2, f3]

theorem aand (d : BitVec 7) (a : BitVec 7) (b : BitVec 7) (x : BitVec 3) : Statement (.aand d a b x) := by
  intro z hw
  have t := wordT_at (op := 166) (dn := d.toNat) (an := a.toNat) hw (by omega) (by decide) (d.isLt) (a.isLt) (x.isLt)
  have e1 := t.hi
  have e2 := t.lo
  have f0 : fieldAt z 17 7 = d := field_of (t.d)
  have f1 : fieldAt z 10 7 = a := field_of (t.a)
  have f2 : fieldAt z 3 7 = b := field_of (t.b)
  have f3 : fieldAt z 0 3 = x := field_of (t.low)
  unfold decode
  simp only [e1, e2, decodeRowA, f0, f1, f2, f3]

theorem aor (d : BitVec 7) (a : BitVec 7) (b : BitVec 7) (x : BitVec 3) : Statement (.aor d a b x) := by
  intro z hw
  have t := wordT_at (op := 167) (dn := d.toNat) (an := a.toNat) hw (by omega) (by decide) (d.isLt) (a.isLt) (x.isLt)
  have e1 := t.hi
  have e2 := t.lo
  have f0 : fieldAt z 17 7 = d := field_of (t.d)
  have f1 : fieldAt z 10 7 = a := field_of (t.a)
  have f2 : fieldAt z 3 7 = b := field_of (t.b)
  have f3 : fieldAt z 0 3 = x := field_of (t.low)
  unfold decode
  simp only [e1, e2, decodeRowA, f0, f1, f2, f3]

theorem axor (d : BitVec 7) (a : BitVec 7) (b : BitVec 7) (x : BitVec 3) : Statement (.axor d a b x) := by
  intro z hw
  have t := wordT_at (op := 168) (dn := d.toNat) (an := a.toNat) hw (by omega) (by decide) (d.isLt) (a.isLt) (x.isLt)
  have e1 := t.hi
  have e2 := t.lo
  have f0 : fieldAt z 17 7 = d := field_of (t.d)
  have f1 : fieldAt z 10 7 = a := field_of (t.a)
  have f2 : fieldAt z 3 7 = b := field_of (t.b)
  have f3 : fieldAt z 0 3 = x := field_of (t.low)
  unfold decode
  simp only [e1, e2, decodeRowA, f0, f1, f2, f3]

theorem axch (d : BitVec 7) (a : BitVec 7) (b : BitVec 7) (x : BitVec 3) : Statement (.axch d a b x) := by
  intro z hw
  have t := wordT_at (op := 169) (dn := d.toNat) (an := a.toNat) hw (by omega) (by decide) (d.isLt) (a.isLt) (x.isLt)
  have e1 := t.hi
  have e2 := t.lo
  have f0 : fieldAt z 17 7 = d := field_of (t.d)
  have f1 : fieldAt z 10 7 = a := field_of (t.a)
  have f2 : fieldAt z 3 7 = b := field_of (t.b)
  have f3 : fieldAt z 0 3 = x := field_of (t.low)
  unfold decode
  simp only [e1, e2, decodeRowA, f0, f1, f2, f3]

theorem acas (d : BitVec 7) (a : BitVec 7) (b : BitVec 7) (x : BitVec 3) : Statement (.acas d a b x) := by
  intro z hw
  have t := wordT_at (op := 170) (dn := d.toNat) (an := a.toNat) hw (by omega) (by decide) (d.isLt) (a.isLt) (x.isLt)
  have e1 := t.hi
  have e2 := t.lo
  have f0 : fieldAt z 17 7 = d := field_of (t.d)
  have f1 : fieldAt z 10 7 = a := field_of (t.a)
  have f2 : fieldAt z 3 7 = b := field_of (t.b)
  have f3 : fieldAt z 0 3 = x := field_of (t.low)
  unfold decode
  simp only [e1, e2, decodeRowA, f0, f1, f2, f3]

theorem acasW (d : BitVec 7) (a : BitVec 7) (b : BitVec 7) (x : BitVec 3) : Statement (.acasW d a b x) := by
  intro z hw
  have t := wordT_at (op := 171) (dn := d.toNat) (an := a.toNat) hw (by omega) (by decide) (d.isLt) (a.isLt) (x.isLt)
  have e1 := t.hi
  have e2 := t.lo
  have f0 : fieldAt z 17 7 = d := field_of (t.d)
  have f1 : fieldAt z 10 7 = a := field_of (t.a)
  have f2 : fieldAt z 3 7 = b := field_of (t.b)
  have f3 : fieldAt z 0 3 = x := field_of (t.low)
  unfold decode
  simp only [e1, e2, decodeRowA, f0, f1, f2, f3]

theorem afaddF (d : BitVec 7) (a : BitVec 7) (b : BitVec 7) (x : BitVec 3) : Statement (.afaddF d a b x) := by
  intro z hw
  have t := wordT_at (op := 172) (dn := d.toNat) (an := a.toNat) hw (by omega) (by decide) (d.isLt) (a.isLt) (x.isLt)
  have e1 := t.hi
  have e2 := t.lo
  have f0 : fieldAt z 17 7 = d := field_of (t.d)
  have f1 : fieldAt z 10 7 = a := field_of (t.a)
  have f2 : fieldAt z 3 7 = b := field_of (t.b)
  have f3 : fieldAt z 0 3 = x := field_of (t.low)
  unfold decode
  simp only [e1, e2, decodeRowA, f0, f1, f2, f3]

theorem afaddD (d : BitVec 7) (a : BitVec 7) (b : BitVec 7) (x : BitVec 3) : Statement (.afaddD d a b x) := by
  intro z hw
  have t := wordT_at (op := 173) (dn := d.toNat) (an := a.toNat) hw (by omega) (by decide) (d.isLt) (a.isLt) (x.isLt)
  have e1 := t.hi
  have e2 := t.lo
  have f0 : fieldAt z 17 7 = d := field_of (t.d)
  have f1 : fieldAt z 10 7 = a := field_of (t.a)
  have f2 : fieldAt z 3 7 = b := field_of (t.b)
  have f3 : fieldAt z 0 3 = x := field_of (t.low)
  unfold decode
  simp only [e1, e2, decodeRowA, f0, f1, f2, f3]

theorem ainc (d : BitVec 7) (a : BitVec 7) (b : BitVec 7) (x : BitVec 3) : Statement (.ainc d a b x) := by
  intro z hw
  have t := wordT_at (op := 174) (dn := d.toNat) (an := a.toNat) hw (by omega) (by decide) (d.isLt) (a.isLt) (x.isLt)
  have e1 := t.hi
  have e2 := t.lo
  have f0 : fieldAt z 17 7 = d := field_of (t.d)
  have f1 : fieldAt z 10 7 = a := field_of (t.a)
  have f2 : fieldAt z 3 7 = b := field_of (t.b)
  have f3 : fieldAt z 0 3 = x := field_of (t.low)
  unfold decode
  simp only [e1, e2, decodeRowA, f0, f1, f2, f3]

theorem adec (d : BitVec 7) (a : BitVec 7) (b : BitVec 7) (x : BitVec 3) : Statement (.adec d a b x) := by
  intro z hw
  have t := wordT_at (op := 175) (dn := d.toNat) (an := a.toNat) hw (by omega) (by decide) (d.isLt) (a.isLt) (x.isLt)
  have e1 := t.hi
  have e2 := t.lo
  have f0 : fieldAt z 17 7 = d := field_of (t.d)
  have f1 : fieldAt z 10 7 = a := field_of (t.a)
  have f2 : fieldAt z 3 7 = b := field_of (t.b)
  have f3 : fieldAt z 0 3 = x := field_of (t.low)
  unfold decode
  simp only [e1, e2, decodeRowA, f0, f1, f2, f3]

theorem aaddAr (d : BitVec 7) (a : BitVec 7) (b : BitVec 7) (x : BitVec 3) : Statement (.aaddAr d a b x) := by
  intro z hw
  have t := wordT_at (op := 176) (dn := d.toNat) (an := a.toNat) hw (by omega) (by decide) (d.isLt) (a.isLt) (x.isLt)
  have e1 := t.hi
  have e2 := t.lo
  have f0 : fieldAt z 17 7 = d := field_of (t.d)
  have f1 : fieldAt z 10 7 = a := field_of (t.a)
  have f2 : fieldAt z 3 7 = b := field_of (t.b)
  have f3 : fieldAt z 0 3 = x := field_of (t.low)
  unfold decode
  simp only [e1, e2, decodeRowB, f0, f1, f2, f3]

theorem aaddWAr (d : BitVec 7) (a : BitVec 7) (b : BitVec 7) (x : BitVec 3) : Statement (.aaddWAr d a b x) := by
  intro z hw
  have t := wordT_at (op := 177) (dn := d.toNat) (an := a.toNat) hw (by omega) (by decide) (d.isLt) (a.isLt) (x.isLt)
  have e1 := t.hi
  have e2 := t.lo
  have f0 : fieldAt z 17 7 = d := field_of (t.d)
  have f1 : fieldAt z 10 7 = a := field_of (t.a)
  have f2 : fieldAt z 3 7 = b := field_of (t.b)
  have f3 : fieldAt z 0 3 = x := field_of (t.low)
  unfold decode
  simp only [e1, e2, decodeRowB, f0, f1, f2, f3]

theorem aminSAr (d : BitVec 7) (a : BitVec 7) (b : BitVec 7) (x : BitVec 3) : Statement (.aminSAr d a b x) := by
  intro z hw
  have t := wordT_at (op := 178) (dn := d.toNat) (an := a.toNat) hw (by omega) (by decide) (d.isLt) (a.isLt) (x.isLt)
  have e1 := t.hi
  have e2 := t.lo
  have f0 : fieldAt z 17 7 = d := field_of (t.d)
  have f1 : fieldAt z 10 7 = a := field_of (t.a)
  have f2 : fieldAt z 3 7 = b := field_of (t.b)
  have f3 : fieldAt z 0 3 = x := field_of (t.low)
  unfold decode
  simp only [e1, e2, decodeRowB, f0, f1, f2, f3]

theorem amaxSAr (d : BitVec 7) (a : BitVec 7) (b : BitVec 7) (x : BitVec 3) : Statement (.amaxSAr d a b x) := by
  intro z hw
  have t := wordT_at (op := 179) (dn := d.toNat) (an := a.toNat) hw (by omega) (by decide) (d.isLt) (a.isLt) (x.isLt)
  have e1 := t.hi
  have e2 := t.lo
  have f0 : fieldAt z 17 7 = d := field_of (t.d)
  have f1 : fieldAt z 10 7 = a := field_of (t.a)
  have f2 : fieldAt z 3 7 = b := field_of (t.b)
  have f3 : fieldAt z 0 3 = x := field_of (t.low)
  unfold decode
  simp only [e1, e2, decodeRowB, f0, f1, f2, f3]

theorem aminZAr (d : BitVec 7) (a : BitVec 7) (b : BitVec 7) (x : BitVec 3) : Statement (.aminZAr d a b x) := by
  intro z hw
  have t := wordT_at (op := 180) (dn := d.toNat) (an := a.toNat) hw (by omega) (by decide) (d.isLt) (a.isLt) (x.isLt)
  have e1 := t.hi
  have e2 := t.lo
  have f0 : fieldAt z 17 7 = d := field_of (t.d)
  have f1 : fieldAt z 10 7 = a := field_of (t.a)
  have f2 : fieldAt z 3 7 = b := field_of (t.b)
  have f3 : fieldAt z 0 3 = x := field_of (t.low)
  unfold decode
  simp only [e1, e2, decodeRowB, f0, f1, f2, f3]

theorem amaxZAr (d : BitVec 7) (a : BitVec 7) (b : BitVec 7) (x : BitVec 3) : Statement (.amaxZAr d a b x) := by
  intro z hw
  have t := wordT_at (op := 181) (dn := d.toNat) (an := a.toNat) hw (by omega) (by decide) (d.isLt) (a.isLt) (x.isLt)
  have e1 := t.hi
  have e2 := t.lo
  have f0 : fieldAt z 17 7 = d := field_of (t.d)
  have f1 : fieldAt z 10 7 = a := field_of (t.a)
  have f2 : fieldAt z 3 7 = b := field_of (t.b)
  have f3 : fieldAt z 0 3 = x := field_of (t.low)
  unfold decode
  simp only [e1, e2, decodeRowB, f0, f1, f2, f3]

theorem aandAr (d : BitVec 7) (a : BitVec 7) (b : BitVec 7) (x : BitVec 3) : Statement (.aandAr d a b x) := by
  intro z hw
  have t := wordT_at (op := 182) (dn := d.toNat) (an := a.toNat) hw (by omega) (by decide) (d.isLt) (a.isLt) (x.isLt)
  have e1 := t.hi
  have e2 := t.lo
  have f0 : fieldAt z 17 7 = d := field_of (t.d)
  have f1 : fieldAt z 10 7 = a := field_of (t.a)
  have f2 : fieldAt z 3 7 = b := field_of (t.b)
  have f3 : fieldAt z 0 3 = x := field_of (t.low)
  unfold decode
  simp only [e1, e2, decodeRowB, f0, f1, f2, f3]

theorem aorAr (d : BitVec 7) (a : BitVec 7) (b : BitVec 7) (x : BitVec 3) : Statement (.aorAr d a b x) := by
  intro z hw
  have t := wordT_at (op := 183) (dn := d.toNat) (an := a.toNat) hw (by omega) (by decide) (d.isLt) (a.isLt) (x.isLt)
  have e1 := t.hi
  have e2 := t.lo
  have f0 : fieldAt z 17 7 = d := field_of (t.d)
  have f1 : fieldAt z 10 7 = a := field_of (t.a)
  have f2 : fieldAt z 3 7 = b := field_of (t.b)
  have f3 : fieldAt z 0 3 = x := field_of (t.low)
  unfold decode
  simp only [e1, e2, decodeRowB, f0, f1, f2, f3]

theorem axorAr (d : BitVec 7) (a : BitVec 7) (b : BitVec 7) (x : BitVec 3) : Statement (.axorAr d a b x) := by
  intro z hw
  have t := wordT_at (op := 184) (dn := d.toNat) (an := a.toNat) hw (by omega) (by decide) (d.isLt) (a.isLt) (x.isLt)
  have e1 := t.hi
  have e2 := t.lo
  have f0 : fieldAt z 17 7 = d := field_of (t.d)
  have f1 : fieldAt z 10 7 = a := field_of (t.a)
  have f2 : fieldAt z 3 7 = b := field_of (t.b)
  have f3 : fieldAt z 0 3 = x := field_of (t.low)
  unfold decode
  simp only [e1, e2, decodeRowB, f0, f1, f2, f3]

theorem axchAr (d : BitVec 7) (a : BitVec 7) (b : BitVec 7) (x : BitVec 3) : Statement (.axchAr d a b x) := by
  intro z hw
  have t := wordT_at (op := 185) (dn := d.toNat) (an := a.toNat) hw (by omega) (by decide) (d.isLt) (a.isLt) (x.isLt)
  have e1 := t.hi
  have e2 := t.lo
  have f0 : fieldAt z 17 7 = d := field_of (t.d)
  have f1 : fieldAt z 10 7 = a := field_of (t.a)
  have f2 : fieldAt z 3 7 = b := field_of (t.b)
  have f3 : fieldAt z 0 3 = x := field_of (t.low)
  unfold decode
  simp only [e1, e2, decodeRowB, f0, f1, f2, f3]

theorem acasAr (d : BitVec 7) (a : BitVec 7) (b : BitVec 7) (x : BitVec 3) : Statement (.acasAr d a b x) := by
  intro z hw
  have t := wordT_at (op := 186) (dn := d.toNat) (an := a.toNat) hw (by omega) (by decide) (d.isLt) (a.isLt) (x.isLt)
  have e1 := t.hi
  have e2 := t.lo
  have f0 : fieldAt z 17 7 = d := field_of (t.d)
  have f1 : fieldAt z 10 7 = a := field_of (t.a)
  have f2 : fieldAt z 3 7 = b := field_of (t.b)
  have f3 : fieldAt z 0 3 = x := field_of (t.low)
  unfold decode
  simp only [e1, e2, decodeRowB, f0, f1, f2, f3]

theorem acasWAr (d : BitVec 7) (a : BitVec 7) (b : BitVec 7) (x : BitVec 3) : Statement (.acasWAr d a b x) := by
  intro z hw
  have t := wordT_at (op := 187) (dn := d.toNat) (an := a.toNat) hw (by omega) (by decide) (d.isLt) (a.isLt) (x.isLt)
  have e1 := t.hi
  have e2 := t.lo
  have f0 : fieldAt z 17 7 = d := field_of (t.d)
  have f1 : fieldAt z 10 7 = a := field_of (t.a)
  have f2 : fieldAt z 3 7 = b := field_of (t.b)
  have f3 : fieldAt z 0 3 = x := field_of (t.low)
  unfold decode
  simp only [e1, e2, decodeRowB, f0, f1, f2, f3]

theorem afaddFAr (d : BitVec 7) (a : BitVec 7) (b : BitVec 7) (x : BitVec 3) : Statement (.afaddFAr d a b x) := by
  intro z hw
  have t := wordT_at (op := 188) (dn := d.toNat) (an := a.toNat) hw (by omega) (by decide) (d.isLt) (a.isLt) (x.isLt)
  have e1 := t.hi
  have e2 := t.lo
  have f0 : fieldAt z 17 7 = d := field_of (t.d)
  have f1 : fieldAt z 10 7 = a := field_of (t.a)
  have f2 : fieldAt z 3 7 = b := field_of (t.b)
  have f3 : fieldAt z 0 3 = x := field_of (t.low)
  unfold decode
  simp only [e1, e2, decodeRowB, f0, f1, f2, f3]

theorem afaddDAr (d : BitVec 7) (a : BitVec 7) (b : BitVec 7) (x : BitVec 3) : Statement (.afaddDAr d a b x) := by
  intro z hw
  have t := wordT_at (op := 189) (dn := d.toNat) (an := a.toNat) hw (by omega) (by decide) (d.isLt) (a.isLt) (x.isLt)
  have e1 := t.hi
  have e2 := t.lo
  have f0 : fieldAt z 17 7 = d := field_of (t.d)
  have f1 : fieldAt z 10 7 = a := field_of (t.a)
  have f2 : fieldAt z 3 7 = b := field_of (t.b)
  have f3 : fieldAt z 0 3 = x := field_of (t.low)
  unfold decode
  simp only [e1, e2, decodeRowB, f0, f1, f2, f3]

theorem aincAr (d : BitVec 7) (a : BitVec 7) (b : BitVec 7) (x : BitVec 3) : Statement (.aincAr d a b x) := by
  intro z hw
  have t := wordT_at (op := 190) (dn := d.toNat) (an := a.toNat) hw (by omega) (by decide) (d.isLt) (a.isLt) (x.isLt)
  have e1 := t.hi
  have e2 := t.lo
  have f0 : fieldAt z 17 7 = d := field_of (t.d)
  have f1 : fieldAt z 10 7 = a := field_of (t.a)
  have f2 : fieldAt z 3 7 = b := field_of (t.b)
  have f3 : fieldAt z 0 3 = x := field_of (t.low)
  unfold decode
  simp only [e1, e2, decodeRowB, f0, f1, f2, f3]

theorem adecAr (d : BitVec 7) (a : BitVec 7) (b : BitVec 7) (x : BitVec 3) : Statement (.adecAr d a b x) := by
  intro z hw
  have t := wordT_at (op := 191) (dn := d.toNat) (an := a.toNat) hw (by omega) (by decide) (d.isLt) (a.isLt) (x.isLt)
  have e1 := t.hi
  have e2 := t.lo
  have f0 : fieldAt z 17 7 = d := field_of (t.d)
  have f1 : fieldAt z 10 7 = a := field_of (t.a)
  have f2 : fieldAt z 3 7 = b := field_of (t.b)
  have f3 : fieldAt z 0 3 = x := field_of (t.low)
  unfold decode
  simp only [e1, e2, decodeRowB, f0, f1, f2, f3]

theorem br (c : BitVec 4) (p : BitVec 20) : Statement (.br c p) := by
  intro z hw
  have h_c := c.isLt
  have h_p := p.isLt
  have hx : z.toNat = 0xC0000000 + c.toNat * 2 ^ 20 + p.toNat := toNat_word hw (by omega)
  have e1 : bitsAt z 28 4 = 12 := by unfold bitsAt; omega
  have e2 : bitsAt z 24 4 = 0 := by unfold bitsAt; omega
  have f0 : fieldAt z 20 4 = c := field_of (by unfold bitsAt; omega)
  have f1 : fieldAt z 0 20 = p := field_of (by unfold bitsAt; omega)
  unfold decode
  simp only [e1, e2, decodeRowC, f0, f1]

theorem brg (c : BitVec 4) (p : BitVec 20) : Statement (.brg c p) := by
  intro z hw
  have h_c := c.isLt
  have h_p := p.isLt
  have hx : z.toNat = 0xC1000000 + c.toNat * 2 ^ 20 + p.toNat := toNat_word hw (by omega)
  have e1 : bitsAt z 28 4 = 12 := by unfold bitsAt; omega
  have e2 : bitsAt z 24 4 = 1 := by unfold bitsAt; omega
  have f0 : fieldAt z 20 4 = c := field_of (by unfold bitsAt; omega)
  have f1 : fieldAt z 0 20 = p := field_of (by unfold bitsAt; omega)
  unfold decode
  simp only [e1, e2, decodeRowC, f0, f1]

theorem call (p : BitVec 20) : Statement (.call p) := by
  intro z hw
  have h_p := p.isLt
  have hx : z.toNat = 0xC2F00000 + (0 : BitVec 4).toNat * 2 ^ 20 + p.toNat := toNat_word hw (by simp; omega)
  try simp only [BitVec.ofNat_eq_ofNat, BitVec.toNat_ofNat, Nat.zero_mod] at hx
  have e1 : bitsAt z 28 4 = 12 := by unfold bitsAt; omega
  have e2 : bitsAt z 24 4 = 2 := by unfold bitsAt; omega
  have f0 : fieldAt z 0 20 = p := field_of (by unfold bitsAt; omega)
  have g0 : bitsAt z 20 4 = 15 := by unfold bitsAt; omega
  unfold decode
  simp only [e1, e2, guardFixed, beq_self_eq_true, if_true, decodeRowC, f0, g0]

theorem ret : Statement (.ret) := by
  intro z hw
  have t := wordT_at (op := 195) (dn := 0) (an := 0) hw (rfl) (by decide) (by decide) (by decide) (by decide)
  have e1 := t.hi
  have e2 := t.lo
  have g0 : bitsAt z 0 24 = 0 := by
    have hv := t.val
    try simp only [BitVec.ofNat_eq_ofNat, BitVec.toNat_ofNat, Nat.zero_mod] at hv
    unfold bitsAt; omega
  unfold decode
  simp only [e1, e2, guardFixed, beq_self_eq_true, if_true, decodeRowC, g0]

theorem jmp (a : BitVec 7) : Statement (.jmp a) := by
  intro z hw
  have t := wordT_at (op := 196) (dn := 0) (an := a.toNat) hw (by simp) (by decide) (by decide) (a.isLt) (by decide)
  have e1 := t.hi
  have e2 := t.lo
  have f0 : fieldAt z 10 7 = a := field_of (t.a)
  have g0 : bitsAt z 17 7 = 0 := t.d
  have g1 : bitsAt z 0 10 = 0 := by
    have hv := t.val
    try simp only [BitVec.ofNat_eq_ofNat, BitVec.toNat_ofNat, Nat.zero_mod] at hv
    unfold bitsAt; omega
  unfold decode
  simp only [e1, e2, guardFixed, beq_self_eq_true, Bool.and_self, if_true, decodeRowC, f0, g0, g1]

theorem jmpl (d : BitVec 7) (a : BitVec 7) : Statement (.jmpl d a) := by
  intro z hw
  have t := wordT_at (op := 197) (dn := d.toNat) (an := a.toNat) hw (by omega) (by decide) (d.isLt) (a.isLt) (by decide)
  have e1 := t.hi
  have e2 := t.lo
  have f0 : fieldAt z 17 7 = d := field_of (t.d)
  have f1 : fieldAt z 10 7 = a := field_of (t.a)
  have g0 : bitsAt z 0 10 = 0 := by
    have hv := t.val
    try simp only [BitVec.ofNat_eq_ofNat, BitVec.toNat_ofNat, Nat.zero_mod] at hv
    unfold bitsAt; omega
  unfold decode
  simp only [e1, e2, guardFixed, beq_self_eq_true, if_true, decodeRowC, f0, f1, g0]

theorem spawn (d : BitVec 7) (a : BitVec 7) (b : BitVec 7) : Statement (.spawn d a b) := by
  intro z hw
  have t := wordT_at (op := 198) (dn := d.toNat) (an := a.toNat) hw (by omega) (by decide) (d.isLt) (a.isLt) (by decide)
  have e1 := t.hi
  have e2 := t.lo
  have f0 : fieldAt z 17 7 = d := field_of (t.d)
  have f1 : fieldAt z 10 7 = a := field_of (t.a)
  have f2 : fieldAt z 3 7 = b := field_of (t.b)
  have g0 : bitsAt z 0 3 = 0 := t.low
  unfold decode
  simp only [e1, e2, guardFixed, beq_self_eq_true, if_true, decodeRowC, f0, f1, f2, g0]

theorem exit : Statement (.exit) := by
  intro z hw
  have t := wordT_at (op := 199) (dn := 0) (an := 0) hw (rfl) (by decide) (by decide) (by decide) (by decide)
  have e1 := t.hi
  have e2 := t.lo
  have g0 : bitsAt z 0 24 = 0 := by
    have hv := t.val
    try simp only [BitVec.ofNat_eq_ofNat, BitVec.toNat_ofNat, Nat.zero_mod] at hv
    unfold bitsAt; omega
  unfold decode
  simp only [e1, e2, guardFixed, beq_self_eq_true, if_true, decodeRowC, g0]

theorem yield : Statement (.yield) := by
  intro z hw
  have t := wordT_at (op := 200) (dn := 0) (an := 0) hw (rfl) (by decide) (by decide) (by decide) (by decide)
  have e1 := t.hi
  have e2 := t.lo
  have g0 : bitsAt z 0 24 = 0 := by
    have hv := t.val
    try simp only [BitVec.ofNat_eq_ofNat, BitVec.toNat_ofNat, Nat.zero_mod] at hv
    unfold bitsAt; omega
  unfold decode
  simp only [e1, e2, guardFixed, beq_self_eq_true, if_true, decodeRowC, g0]

theorem resm (d : BitVec 7) (a : BitVec 7) : Statement (.resm d a) := by
  intro z hw
  have t := wordT_at (op := 201) (dn := d.toNat) (an := a.toNat) hw (by omega) (by decide) (d.isLt) (a.isLt) (by decide)
  have e1 := t.hi
  have e2 := t.lo
  have f0 : fieldAt z 17 7 = d := field_of (t.d)
  have f1 : fieldAt z 10 7 = a := field_of (t.a)
  have g0 : bitsAt z 0 10 = 0 := by
    have hv := t.val
    try simp only [BitVec.ofNat_eq_ofNat, BitVec.toNat_ofNat, Nat.zero_mod] at hv
    unfold bitsAt; omega
  unfold decode
  simp only [e1, e2, guardFixed, beq_self_eq_true, if_true, decodeRowC, f0, f1, g0]

theorem winb (m : BitVec 7) : Statement (.winb m) := by
  intro z hw
  have t := wordT_at (op := 202) (dn := 0) (an := 0) hw (rfl) (by decide) (by decide) (by decide) (by decide)
  have e1 := t.hi
  have e2 := t.lo
  have f0 : fieldAt z 3 7 = m := field_of (t.b)
  have g0 : bitsAt z 10 14 = 0 := by
    have hv := t.val
    try simp only [BitVec.ofNat_eq_ofNat, BitVec.toNat_ofNat, Nat.zero_mod] at hv
    unfold bitsAt; omega
  have g1 : bitsAt z 0 3 = 0 := t.low
  unfold decode
  simp only [e1, e2, guardFixed, beq_self_eq_true, Bool.and_self, if_true, decodeRowC, f0, g0, g1]

theorem nop : Statement (.nop) := by
  intro z hw
  have t := wordT_at (op := 203) (dn := 0) (an := 0) hw (rfl) (by decide) (by decide) (by decide) (by decide)
  have e1 := t.hi
  have e2 := t.lo
  have g0 : bitsAt z 0 24 = 0 := by
    have hv := t.val
    try simp only [BitVec.ofNat_eq_ofNat, BitVec.toNat_ofNat, Nat.zero_mod] at hv
    unfold bitsAt; omega
  unfold decode
  simp only [e1, e2, guardFixed, beq_self_eq_true, if_true, decodeRowC, g0]

theorem trap (c : BitVec 7) : Statement (.trap c) := by
  intro z hw
  have t := wordT_at (op := 204) (dn := 0) (an := 0) hw (rfl) (by decide) (by decide) (by decide) (by decide)
  have e1 := t.hi
  have e2 := t.lo
  have f0 : fieldAt z 3 7 = c := field_of (t.b)
  have g0 : bitsAt z 10 14 = 0 := by
    have hv := t.val
    try simp only [BitVec.ofNat_eq_ofNat, BitVec.toNat_ofNat, Nat.zero_mod] at hv
    unfold bitsAt; omega
  have g1 : bitsAt z 0 3 = 0 := t.low
  unfold decode
  simp only [e1, e2, guardFixed, beq_self_eq_true, Bool.and_self, if_true, decodeRowC, f0, g0, g1]

theorem eret : Statement (.eret) := by
  intro z hw
  have t := wordT_at (op := 205) (dn := 0) (an := 0) hw (rfl) (by decide) (by decide) (by decide) (by decide)
  have e1 := t.hi
  have e2 := t.lo
  have g0 : bitsAt z 0 24 = 0 := by
    have hv := t.val
    try simp only [BitVec.ofNat_eq_ofNat, BitVec.toNat_ofNat, Nat.zero_mod] at hv
    unfold bitsAt; omega
  unfold decode
  simp only [e1, e2, guardFixed, beq_self_eq_true, if_true, decodeRowC, g0]

theorem bkpt (c : BitVec 7) : Statement (.bkpt c) := by
  intro z hw
  have t := wordT_at (op := 206) (dn := 0) (an := 0) hw (rfl) (by decide) (by decide) (by decide) (by decide)
  have e1 := t.hi
  have e2 := t.lo
  have f0 : fieldAt z 3 7 = c := field_of (t.b)
  have g0 : bitsAt z 10 14 = 0 := by
    have hv := t.val
    try simp only [BitVec.ofNat_eq_ofNat, BitVec.toNat_ofNat, Nat.zero_mod] at hv
    unfold bitsAt; omega
  have g1 : bitsAt z 0 3 = 0 := t.low
  unfold decode
  simp only [e1, e2, guardFixed, beq_self_eq_true, Bool.and_self, if_true, decodeRowC, f0, g0, g1]

theorem svc (c : BitVec 7) : Statement (.svc c) := by
  intro z hw
  have t := wordT_at (op := 207) (dn := 0) (an := 0) hw (rfl) (by decide) (by decide) (by decide) (by decide)
  have e1 := t.hi
  have e2 := t.lo
  have f0 : fieldAt z 3 7 = c := field_of (t.b)
  have g0 : bitsAt z 10 14 = 0 := by
    have hv := t.val
    try simp only [BitVec.ofNat_eq_ofNat, BitVec.toNat_ofNat, Nat.zero_mod] at hv
    unfold bitsAt; omega
  have g1 : bitsAt z 0 3 = 0 := t.low
  unfold decode
  simp only [e1, e2, guardFixed, beq_self_eq_true, Bool.and_self, if_true, decodeRowC, f0, g0, g1]

theorem join (k : BitVec 7) : Statement (.join k) := by
  intro z hw
  have t := wordT_at (op := 208) (dn := k.toNat) (an := 0) hw (by simp) (by decide) (k.isLt) (by decide) (by decide)
  have e1 := t.hi
  have e2 := t.lo
  have f0 : fieldAt z 17 7 = k := field_of (t.d)
  have g0 : bitsAt z 0 17 = 0 := by
    have hv := t.val
    try simp only [BitVec.ofNat_eq_ofNat, BitVec.toNat_ofNat, Nat.zero_mod] at hv
    unfold bitsAt; omega
  unfold decode
  simp only [e1, e2, guardFixed, beq_self_eq_true, if_true, decodeRowD, f0, g0]

theorem leave (k : BitVec 7) : Statement (.leave k) := by
  intro z hw
  have t := wordT_at (op := 209) (dn := k.toNat) (an := 0) hw (by simp) (by decide) (k.isLt) (by decide) (by decide)
  have e1 := t.hi
  have e2 := t.lo
  have f0 : fieldAt z 17 7 = k := field_of (t.d)
  have g0 : bitsAt z 0 17 = 0 := by
    have hv := t.val
    try simp only [BitVec.ofNat_eq_ofNat, BitVec.toNat_ofNat, Nat.zero_mod] at hv
    unfold bitsAt; omega
  unfold decode
  simp only [e1, e2, guardFixed, beq_self_eq_true, if_true, decodeRowD, f0, g0]

theorem waitk (k : BitVec 7) : Statement (.waitk k) := by
  intro z hw
  have t := wordT_at (op := 210) (dn := k.toNat) (an := 0) hw (by simp) (by decide) (k.isLt) (by decide) (by decide)
  have e1 := t.hi
  have e2 := t.lo
  have f0 : fieldAt z 17 7 = k := field_of (t.d)
  have g0 : bitsAt z 0 17 = 0 := by
    have hv := t.val
    try simp only [BitVec.ofNat_eq_ofNat, BitVec.toNat_ofNat, Nat.zero_mod] at hv
    unfold bitsAt; omega
  unfold decode
  simp only [e1, e2, guardFixed, beq_self_eq_true, if_true, decodeRowD, f0, g0]

theorem kget (k : BitVec 7) (a : BitVec 7) : Statement (.kget k a) := by
  intro z hw
  have t := wordT_at (op := 211) (dn := k.toNat) (an := a.toNat) hw (by omega) (by decide) (k.isLt) (a.isLt) (by decide)
  have e1 := t.hi
  have e2 := t.lo
  have f0 : fieldAt z 17 7 = k := field_of (t.d)
  have f1 : fieldAt z 10 7 = a := field_of (t.a)
  have g0 : bitsAt z 0 10 = 0 := by
    have hv := t.val
    try simp only [BitVec.ofNat_eq_ofNat, BitVec.toNat_ofNat, Nat.zero_mod] at hv
    unfold bitsAt; omega
  unfold decode
  simp only [e1, e2, guardFixed, beq_self_eq_true, if_true, decodeRowD, f0, f1, g0]

theorem kset (k : BitVec 7) (a : BitVec 7) : Statement (.kset k a) := by
  intro z hw
  have t := wordT_at (op := 212) (dn := k.toNat) (an := a.toNat) hw (by omega) (by decide) (k.isLt) (a.isLt) (by decide)
  have e1 := t.hi
  have e2 := t.lo
  have f0 : fieldAt z 17 7 = k := field_of (t.d)
  have f1 : fieldAt z 10 7 = a := field_of (t.a)
  have g0 : bitsAt z 0 10 = 0 := by
    have hv := t.val
    try simp only [BitVec.ofNat_eq_ofNat, BitVec.toNat_ofNat, Nat.zero_mod] at hv
    unfold bitsAt; omega
  unfold decode
  simp only [e1, e2, guardFixed, beq_self_eq_true, if_true, decodeRowD, f0, f1, g0]

theorem klog (k : BitVec 7) (j : BitVec 7) (m : BitVec 7) (op : BitVec 3) : Statement (.klog k j m op) := by
  intro z hw
  have t := wordT_at (op := 213) (dn := k.toNat) (an := j.toNat) hw (by omega) (by decide) (k.isLt) (j.isLt) (op.isLt)
  have e1 := t.hi
  have e2 := t.lo
  have f0 : fieldAt z 17 7 = k := field_of (t.d)
  have f1 : fieldAt z 10 7 = j := field_of (t.a)
  have f2 : fieldAt z 3 7 = m := field_of (t.b)
  have f3 : fieldAt z 0 3 = op := field_of (t.low)
  unfold decode
  simp only [e1, e2, decodeRowD, f0, f1, f2, f3]

theorem bart : Statement (.bart) := by
  intro z hw
  have t := wordT_at (op := 214) (dn := 0) (an := 0) hw (rfl) (by decide) (by decide) (by decide) (by decide)
  have e1 := t.hi
  have e2 := t.lo
  have g0 : bitsAt z 0 24 = 0 := by
    have hv := t.val
    try simp only [BitVec.ofNat_eq_ofNat, BitVec.toNat_ofNat, Nat.zero_mod] at hv
    unfold bitsAt; omega
  unfold decode
  simp only [e1, e2, guardFixed, beq_self_eq_true, if_true, decodeRowD, g0]

theorem barg : Statement (.barg) := by
  intro z hw
  have t := wordT_at (op := 215) (dn := 0) (an := 0) hw (rfl) (by decide) (by decide) (by decide) (by decide)
  have e1 := t.hi
  have e2 := t.lo
  have g0 : bitsAt z 0 24 = 0 := by
    have hv := t.val
    try simp only [BitVec.ofNat_eq_ofNat, BitVec.toNat_ofNat, Nat.zero_mod] at hv
    unfold bitsAt; omega
  unfold decode
  simp only [e1, e2, guardFixed, beq_self_eq_true, if_true, decodeRowD, g0]

theorem waita (d : BitVec 7) (a : BitVec 7) (b : BitVec 7) (op : BitVec 3) : Statement (.waita d a b op) := by
  intro z hw
  have t := wordT_at (op := 216) (dn := d.toNat) (an := a.toNat) hw (by omega) (by decide) (d.isLt) (a.isLt) (op.isLt)
  have e1 := t.hi
  have e2 := t.lo
  have f0 : fieldAt z 17 7 = d := field_of (t.d)
  have f1 : fieldAt z 10 7 = a := field_of (t.a)
  have f2 : fieldAt z 3 7 = b := field_of (t.b)
  have f3 : fieldAt z 0 3 = op := field_of (t.low)
  unfold decode
  simp only [e1, e2, decodeRowD, f0, f1, f2, f3]

theorem fence (k : BitVec 7) (x : BitVec 3) : Statement (.fence k x) := by
  intro z hw
  have t := wordT_at (op := 217) (dn := 0) (an := k.toNat) hw (by simp) (by decide) (by decide) (k.isLt) (x.isLt)
  have e1 := t.hi
  have e2 := t.lo
  have f0 : fieldAt z 10 7 = k := field_of (t.a)
  have f1 : fieldAt z 0 3 = x := field_of (t.low)
  have g0 : bitsAt z 17 7 = 0 := t.d
  have g1 : bitsAt z 3 7 = 0 := t.b
  unfold decode
  simp only [e1, e2, guardFixed, beq_self_eq_true, Bool.and_self, if_true, decodeRowD, f0, f1, g0, g1]

theorem csrr (d : BitVec 7) (n : BitVec 7) : Statement (.csrr d n) := by
  intro z hw
  have t := wordT_at (op := 218) (dn := d.toNat) (an := 0) hw (by simp) (by decide) (d.isLt) (by decide) (by decide)
  have e1 := t.hi
  have e2 := t.lo
  have f0 : fieldAt z 17 7 = d := field_of (t.d)
  have f1 : fieldAt z 3 7 = n := field_of (t.b)
  have g0 : bitsAt z 10 7 = 0 := t.a
  have g1 : bitsAt z 0 3 = 0 := t.low
  unfold decode
  simp only [e1, e2, guardFixed, beq_self_eq_true, Bool.and_self, if_true, decodeRowD, f0, f1, g0, g1]

theorem csrw (a : BitVec 7) (n : BitVec 7) : Statement (.csrw a n) := by
  intro z hw
  have t := wordT_at (op := 219) (dn := 0) (an := a.toNat) hw (by simp) (by decide) (by decide) (a.isLt) (by decide)
  have e1 := t.hi
  have e2 := t.lo
  have f0 : fieldAt z 10 7 = a := field_of (t.a)
  have f1 : fieldAt z 3 7 = n := field_of (t.b)
  have g0 : bitsAt z 17 7 = 0 := t.d
  have g1 : bitsAt z 0 3 = 0 := t.low
  unfold decode
  simp only [e1, e2, guardFixed, beq_self_eq_true, Bool.and_self, if_true, decodeRowD, f0, f1, g0, g1]

theorem mma (d : BitVec 7) (a : BitVec 7) (b : BitVec 7) (x : BitVec 3) : Statement (.mma d a b x) := by
  intro z hw
  have t := wordT_at (op := 224) (dn := d.toNat) (an := a.toNat) hw (by omega) (by decide) (d.isLt) (a.isLt) (x.isLt)
  have e1 := t.hi
  have e2 := t.lo
  have f0 : fieldAt z 17 7 = d := field_of (t.d)
  have f1 : fieldAt z 10 7 = a := field_of (t.a)
  have f2 : fieldAt z 3 7 = b := field_of (t.b)
  have f3 : fieldAt z 0 3 = x := field_of (t.low)
  unfold decode
  simp only [e1, e2, decodeRowE, f0, f1, f2, f3]

theorem mdrn (d : BitVec 7) (a : BitVec 7) (b : BitVec 7) (c : BitVec 3) : Statement (.mdrn d a b c) := by
  intro z hw
  have t := wordT_at (op := 225) (dn := d.toNat) (an := a.toNat) hw (by omega) (by decide) (d.isLt) (a.isLt) (c.isLt)
  have e1 := t.hi
  have e2 := t.lo
  have f0 : fieldAt z 17 7 = d := field_of (t.d)
  have f1 : fieldAt z 10 7 = a := field_of (t.a)
  have f2 : fieldAt z 3 7 = b := field_of (t.b)
  have f3 : fieldAt z 0 3 = c := field_of (t.low)
  unfold decode
  simp only [e1, e2, decodeRowE, f0, f1, f2, f3]

theorem mzro (d : BitVec 7) : Statement (.mzro d) := by
  intro z hw
  have t := wordT_at (op := 226) (dn := d.toNat) (an := 0) hw (by simp) (by decide) (d.isLt) (by decide) (by decide)
  have e1 := t.hi
  have e2 := t.lo
  have f0 : fieldAt z 17 7 = d := field_of (t.d)
  have g0 : bitsAt z 0 17 = 0 := by
    have hv := t.val
    try simp only [BitVec.ofNat_eq_ofNat, BitVec.toNat_ofNat, Nat.zero_mod] at hv
    unfold bitsAt; omega
  unfold decode
  simp only [e1, e2, guardFixed, beq_self_eq_true, if_true, decodeRowE, f0, g0]

theorem mfil (d : BitVec 7) (a : BitVec 7) : Statement (.mfil d a) := by
  intro z hw
  have t := wordT_at (op := 227) (dn := d.toNat) (an := a.toNat) hw (by omega) (by decide) (d.isLt) (a.isLt) (by decide)
  have e1 := t.hi
  have e2 := t.lo
  have f0 : fieldAt z 17 7 = d := field_of (t.d)
  have f1 : fieldAt z 10 7 = a := field_of (t.a)
  have g0 : bitsAt z 0 10 = 0 := by
    have hv := t.val
    try simp only [BitVec.ofNat_eq_ofNat, BitVec.toNat_ofNat, Nat.zero_mod] at hv
    unfold bitsAt; omega
  unfold decode
  simp only [e1, e2, guardFixed, beq_self_eq_true, if_true, decodeRowE, f0, f1, g0]

theorem msav (a : BitVec 7) : Statement (.msav a) := by
  intro z hw
  have t := wordT_at (op := 228) (dn := 0) (an := a.toNat) hw (by simp) (by decide) (by decide) (a.isLt) (by decide)
  have e1 := t.hi
  have e2 := t.lo
  have f0 : fieldAt z 10 7 = a := field_of (t.a)
  have g0 : bitsAt z 17 7 = 0 := t.d
  have g1 : bitsAt z 0 10 = 0 := by
    have hv := t.val
    try simp only [BitVec.ofNat_eq_ofNat, BitVec.toNat_ofNat, Nat.zero_mod] at hv
    unfold bitsAt; omega
  unfold decode
  simp only [e1, e2, guardFixed, beq_self_eq_true, Bool.and_self, if_true, decodeRowE, f0, g0, g1]

theorem mrst (a : BitVec 7) : Statement (.mrst a) := by
  intro z hw
  have t := wordT_at (op := 229) (dn := 0) (an := a.toNat) hw (by simp) (by decide) (by decide) (a.isLt) (by decide)
  have e1 := t.hi
  have e2 := t.lo
  have f0 : fieldAt z 10 7 = a := field_of (t.a)
  have g0 : bitsAt z 17 7 = 0 := t.d
  have g1 : bitsAt z 0 10 = 0 := by
    have hv := t.val
    try simp only [BitVec.ofNat_eq_ofNat, BitVec.toNat_ofNat, Nat.zero_mod] at hv
    unfold bitsAt; omega
  unfold decode
  simp only [e1, e2, guardFixed, beq_self_eq_true, Bool.and_self, if_true, decodeRowE, f0, g0, g1]

theorem bcpy (a : BitVec 7) : Statement (.bcpy a) := by
  intro z hw
  have t := wordT_at (op := 230) (dn := 0) (an := a.toNat) hw (by simp) (by decide) (by decide) (a.isLt) (by decide)
  have e1 := t.hi
  have e2 := t.lo
  have f0 : fieldAt z 10 7 = a := field_of (t.a)
  have g0 : bitsAt z 17 7 = 0 := t.d
  have g1 : bitsAt z 0 10 = 0 := by
    have hv := t.val
    try simp only [BitVec.ofNat_eq_ofNat, BitVec.toNat_ofNat, Nat.zero_mod] at hv
    unfold bitsAt; omega
  unfold decode
  simp only [e1, e2, guardFixed, beq_self_eq_true, Bool.and_self, if_true, decodeRowE, f0, g0, g1]

theorem wtal (a : BitVec 7) : Statement (.wtal a) := by
  intro z hw
  have t := wordT_at (op := 231) (dn := 0) (an := a.toNat) hw (by simp) (by decide) (by decide) (a.isLt) (by decide)
  have e1 := t.hi
  have e2 := t.lo
  have f0 : fieldAt z 10 7 = a := field_of (t.a)
  have g0 : bitsAt z 17 7 = 0 := t.d
  have g1 : bitsAt z 0 10 = 0 := by
    have hv := t.val
    try simp only [BitVec.ofNat_eq_ofNat, BitVec.toNat_ofNat, Nat.zero_mod] at hv
    unfold bitsAt; omega
  unfold decode
  simp only [e1, e2, guardFixed, beq_self_eq_true, Bool.and_self, if_true, decodeRowE, f0, g0, g1]

theorem wtan (d : BitVec 7) (a : BitVec 7) : Statement (.wtan d a) := by
  intro z hw
  have t := wordT_at (op := 232) (dn := d.toNat) (an := a.toNat) hw (by omega) (by decide) (d.isLt) (a.isLt) (by decide)
  have e1 := t.hi
  have e2 := t.lo
  have f0 : fieldAt z 17 7 = d := field_of (t.d)
  have f1 : fieldAt z 10 7 = a := field_of (t.a)
  have g0 : bitsAt z 0 10 = 0 := by
    have hv := t.val
    try simp only [BitVec.ofNat_eq_ofNat, BitVec.toNat_ofNat, Nat.zero_mod] at hv
    unfold bitsAt; omega
  unfold decode
  simp only [e1, e2, guardFixed, beq_self_eq_true, if_true, decodeRowE, f0, f1, g0]

theorem ffrt (d : BitVec 7) (a : BitVec 7) : Statement (.ffrt d a) := by
  intro z hw
  have t := wordT_at (op := 233) (dn := d.toNat) (an := a.toNat) hw (by omega) (by decide) (d.isLt) (a.isLt) (by decide)
  have e1 := t.hi
  have e2 := t.lo
  have f0 : fieldAt z 17 7 = d := field_of (t.d)
  have f1 : fieldAt z 10 7 = a := field_of (t.a)
  have g0 : bitsAt z 0 10 = 0 := by
    have hv := t.val
    try simp only [BitVec.ofNat_eq_ofNat, BitVec.toNat_ofNat, Nat.zero_mod] at hv
    unfold bitsAt; omega
  unfold decode
  simp only [e1, e2, guardFixed, beq_self_eq_true, if_true, decodeRowE, f0, f1, g0]

theorem tgcl (a : BitVec 7) : Statement (.tgcl a) := by
  intro z hw
  have t := wordT_at (op := 234) (dn := 0) (an := a.toNat) hw (by simp) (by decide) (by decide) (a.isLt) (by decide)
  have e1 := t.hi
  have e2 := t.lo
  have f0 : fieldAt z 10 7 = a := field_of (t.a)
  have g0 : bitsAt z 17 7 = 0 := t.d
  have g1 : bitsAt z 0 10 = 0 := by
    have hv := t.val
    try simp only [BitVec.ofNat_eq_ofNat, BitVec.toNat_ofNat, Nat.zero_mod] at hv
    unfold bitsAt; omega
  unfold decode
  simp only [e1, e2, guardFixed, beq_self_eq_true, Bool.and_self, if_true, decodeRowE, f0, g0, g1]

theorem coll (a : BitVec 7) : Statement (.coll a) := by
  intro z hw
  have t := wordT_at (op := 235) (dn := 0) (an := a.toNat) hw (by simp) (by decide) (by decide) (a.isLt) (by decide)
  have e1 := t.hi
  have e2 := t.lo
  have f0 : fieldAt z 10 7 = a := field_of (t.a)
  have g0 : bitsAt z 17 7 = 0 := t.d
  have g1 : bitsAt z 0 10 = 0 := by
    have hv := t.val
    try simp only [BitVec.ofNat_eq_ofNat, BitVec.toNat_ofNat, Nat.zero_mod] at hv
    unfold bitsAt; omega
  unfold decode
  simp only [e1, e2, guardFixed, beq_self_eq_true, Bool.and_self, if_true, decodeRowE, f0, g0, g1]

theorem cdec (a : BitVec 7) : Statement (.cdec a) := by
  intro z hw
  have t := wordT_at (op := 236) (dn := 0) (an := a.toNat) hw (by simp) (by decide) (by decide) (a.isLt) (by decide)
  have e1 := t.hi
  have e2 := t.lo
  have f0 : fieldAt z 10 7 = a := field_of (t.a)
  have g0 : bitsAt z 17 7 = 0 := t.d
  have g1 : bitsAt z 0 10 = 0 := by
    have hv := t.val
    try simp only [BitVec.ofNat_eq_ofNat, BitVec.toNat_ofNat, Nat.zero_mod] at hv
    unfold bitsAt; omega
  unfold decode
  simp only [e1, e2, guardFixed, beq_self_eq_true, Bool.and_self, if_true, decodeRowE, f0, g0, g1]

theorem lock (d : BitVec 7) (a : BitVec 7) (m : BitVec 3) : Statement (.lock d a m) := by
  intro z hw
  have t := wordT_at (op := 240) (dn := d.toNat) (an := a.toNat) hw (by omega) (by decide) (d.isLt) (a.isLt) (m.isLt)
  have e1 := t.hi
  have e2 := t.lo
  have f0 : fieldAt z 17 7 = d := field_of (t.d)
  have f1 : fieldAt z 10 7 = a := field_of (t.a)
  have f2 : fieldAt z 0 3 = m := field_of (t.low)
  have g0 : bitsAt z 3 7 = 0 := t.b
  unfold decode
  simp only [e1, e2, guardFixed, beq_self_eq_true, if_true, decodeRowF, f0, f1, f2, g0]

theorem lckt (d : BitVec 7) (a : BitVec 7) (m : BitVec 3) : Statement (.lckt d a m) := by
  intro z hw
  have t := wordT_at (op := 241) (dn := d.toNat) (an := a.toNat) hw (by omega) (by decide) (d.isLt) (a.isLt) (m.isLt)
  have e1 := t.hi
  have e2 := t.lo
  have f0 : fieldAt z 17 7 = d := field_of (t.d)
  have f1 : fieldAt z 10 7 = a := field_of (t.a)
  have f2 : fieldAt z 0 3 = m := field_of (t.low)
  have g0 : bitsAt z 3 7 = 0 := t.b
  unfold decode
  simp only [e1, e2, guardFixed, beq_self_eq_true, if_true, decodeRowF, f0, f1, f2, g0]

theorem ulck (d : BitVec 7) (a : BitVec 7) (m : BitVec 3) : Statement (.ulck d a m) := by
  intro z hw
  have t := wordT_at (op := 242) (dn := d.toNat) (an := a.toNat) hw (by omega) (by decide) (d.isLt) (a.isLt) (m.isLt)
  have e1 := t.hi
  have e2 := t.lo
  have f0 : fieldAt z 17 7 = d := field_of (t.d)
  have f1 : fieldAt z 10 7 = a := field_of (t.a)
  have f2 : fieldAt z 0 3 = m := field_of (t.low)
  have g0 : bitsAt z 3 7 = 0 := t.b
  unfold decode
  simp only [e1, e2, guardFixed, beq_self_eq_true, if_true, decodeRowF, f0, f1, f2, g0]

theorem lupg (d : BitVec 7) (a : BitVec 7) (m : BitVec 3) : Statement (.lupg d a m) := by
  intro z hw
  have t := wordT_at (op := 243) (dn := d.toNat) (an := a.toNat) hw (by omega) (by decide) (d.isLt) (a.isLt) (m.isLt)
  have e1 := t.hi
  have e2 := t.lo
  have f0 : fieldAt z 17 7 = d := field_of (t.d)
  have f1 : fieldAt z 10 7 = a := field_of (t.a)
  have f2 : fieldAt z 0 3 = m := field_of (t.low)
  have g0 : bitsAt z 3 7 = 0 := t.b
  unfold decode
  simp only [e1, e2, guardFixed, beq_self_eq_true, if_true, decodeRowF, f0, f1, f2, g0]

theorem tskb (d : BitVec 7) (a : BitVec 7) : Statement (.tskb d a) := by
  intro z hw
  have t := wordT_at (op := 244) (dn := d.toNat) (an := a.toNat) hw (by omega) (by decide) (d.isLt) (a.isLt) (by decide)
  have e1 := t.hi
  have e2 := t.lo
  have f0 : fieldAt z 17 7 = d := field_of (t.d)
  have f1 : fieldAt z 10 7 = a := field_of (t.a)
  have g0 : bitsAt z 0 10 = 0 := by
    have hv := t.val
    try simp only [BitVec.ofNat_eq_ofNat, BitVec.toNat_ofNat, Nat.zero_mod] at hv
    unfold bitsAt; omega
  unfold decode
  simp only [e1, e2, guardFixed, beq_self_eq_true, if_true, decodeRowF, f0, f1, g0]

theorem tske : Statement (.tske) := by
  intro z hw
  have t := wordT_at (op := 245) (dn := 0) (an := 0) hw (rfl) (by decide) (by decide) (by decide) (by decide)
  have e1 := t.hi
  have e2 := t.lo
  have g0 : bitsAt z 0 24 = 0 := by
    have hv := t.val
    try simp only [BitVec.ofNat_eq_ofNat, BitVec.toNat_ofNat, Nat.zero_mod] at hv
    unfold bitsAt; omega
  unfold decode
  simp only [e1, e2, guardFixed, beq_self_eq_true, if_true, decodeRowF, g0]

theorem tska : Statement (.tska) := by
  intro z hw
  have t := wordT_at (op := 246) (dn := 0) (an := 0) hw (rfl) (by decide) (by decide) (by decide) (by decide)
  have e1 := t.hi
  have e2 := t.lo
  have g0 : bitsAt z 0 24 = 0 := by
    have hv := t.val
    try simp only [BitVec.ofNat_eq_ofNat, BitVec.toNat_ofNat, Nat.zero_mod] at hv
    unfold bitsAt; omega
  unfold decode
  simp only [e1, e2, guardFixed, beq_self_eq_true, if_true, decodeRowF, g0]

theorem publ (d : BitVec 7) (a : BitVec 7) : Statement (.publ d a) := by
  intro z hw
  have t := wordT_at (op := 247) (dn := d.toNat) (an := a.toNat) hw (by omega) (by decide) (d.isLt) (a.isLt) (by decide)
  have e1 := t.hi
  have e2 := t.lo
  have f0 : fieldAt z 17 7 = d := field_of (t.d)
  have f1 : fieldAt z 10 7 = a := field_of (t.a)
  have g0 : bitsAt z 0 10 = 0 := by
    have hv := t.val
    try simp only [BitVec.ofNat_eq_ofNat, BitVec.toNat_ofNat, Nat.zero_mod] at hv
    unfold bitsAt; omega
  unfold decode
  simp only [e1, e2, guardFixed, beq_self_eq_true, if_true, decodeRowF, f0, f1, g0]

theorem retv (d : BitVec 7) (a : BitVec 7) (b : BitVec 7) : Statement (.retv d a b) := by
  intro z hw
  have t := wordT_at (op := 248) (dn := d.toNat) (an := a.toNat) hw (by omega) (by decide) (d.isLt) (a.isLt) (by decide)
  have e1 := t.hi
  have e2 := t.lo
  have f0 : fieldAt z 17 7 = d := field_of (t.d)
  have f1 : fieldAt z 10 7 = a := field_of (t.a)
  have f2 : fieldAt z 3 7 = b := field_of (t.b)
  have g0 : bitsAt z 0 3 = 0 := t.low
  unfold decode
  simp only [e1, e2, guardFixed, beq_self_eq_true, if_true, decodeRowF, f0, f1, f2, g0]

theorem vqry (d : BitVec 7) (a : BitVec 7) : Statement (.vqry d a) := by
  intro z hw
  have t := wordT_at (op := 249) (dn := d.toNat) (an := a.toNat) hw (by omega) (by decide) (d.isLt) (a.isLt) (by decide)
  have e1 := t.hi
  have e2 := t.lo
  have f0 : fieldAt z 17 7 = d := field_of (t.d)
  have f1 : fieldAt z 10 7 = a := field_of (t.a)
  have g0 : bitsAt z 0 10 = 0 := by
    have hv := t.val
    try simp only [BitVec.ofNat_eq_ofNat, BitVec.toNat_ofNat, Nat.zero_mod] at hv
    unfold bitsAt; omega
  unfold decode
  simp only [e1, e2, guardFixed, beq_self_eq_true, if_true, decodeRowF, f0, f1, g0]

theorem rep (n : BitVec 6) (p : BitVec 1) (q : BitVec 1) (r : BitVec 1) (x : BitVec 2) : Statement (.rep n p q r x) := by
  intro z hw
  have h_n := n.isLt
  have h_p := p.isLt
  have h_q := q.isLt
  have h_r := r.isLt
  have h_x := x.isLt
  have hx : z.toNat = 0xFF000000 + n.toNat * 2 ^ 18 + p.toNat * 2 ^ 17 + q.toNat * 2 ^ 16 + r.toNat * 2 ^ 15 + x.toNat * 2 ^ 13 := toNat_word hw (by omega)
  have e1 : bitsAt z 28 4 = 15 := by unfold bitsAt; omega
  have e2 : bitsAt z 24 4 = 15 := by unfold bitsAt; omega
  have f0 : fieldAt z 18 6 = n := field_of (by unfold bitsAt; omega)
  have f1 : fieldAt z 17 1 = p := field_of (by unfold bitsAt; omega)
  have f2 : fieldAt z 16 1 = q := field_of (by unfold bitsAt; omega)
  have f3 : fieldAt z 15 1 = r := field_of (by unfold bitsAt; omega)
  have f4 : fieldAt z 13 2 = x := field_of (by unfold bitsAt; omega)
  have g0 : bitsAt z 0 13 = 0 := by unfold bitsAt; omega
  unfold decode
  simp only [e1, e2, guardFixed, beq_self_eq_true, if_true, decodeRowF, f0, f1, f2, f3, f4, g0]

theorem recordArrival (core : Nat) (n : Nat) : Statement (.recordArrival core n) := none_statement rfl

theorem arrivalBufferRefill (core : Nat) : Statement (.arrivalBufferRefill core) := none_statement rfl

theorem overflowRingDrain (grid : Nat) (core : Nat) : Statement (.overflowRingDrain grid core) := none_statement rfl

theorem departureWaitTimeout (gid : Nat) : Statement (.departureWaitTimeout gid) := none_statement rfl

theorem brgWaitTimeout (gid : Nat) : Statement (.brgWaitTimeout gid) := none_statement rfl

theorem binTimerExpire (core : Nat) (bin : Nat) : Statement (.binTimerExpire core bin) := none_statement rfl

theorem binLaunch (core : Nat) (bin : Nat) : Statement (.binLaunch core bin) := none_statement rfl

theorem groupPark (gid : Nat) : Statement (.groupPark gid) := none_statement rfl

theorem groupReform (gid : Nat) : Statement (.groupReform gid) := none_statement rfl

theorem groupBoost (gid : Nat) : Statement (.groupBoost gid) := none_statement rfl

theorem occupancyReport (core : Nat) : Statement (.occupancyReport core) := none_statement rfl

theorem replicationWindow (grid : Nat) : Statement (.replicationWindow grid) := none_statement rfl

theorem replicaAdd (grid : Nat) : Statement (.replicaAdd grid) := none_statement rfl

theorem bartArrival (team : Nat) (tid : Nat) : Statement (.bartArrival team tid) := none_statement rfl

theorem registerFill (gid : Nat) (frame : Nat) (lane : Nat) (reg : Nat) : Statement (.registerFill gid frame lane reg) := none_statement rfl

theorem rds (cl : Nat) (line : Nat) : Statement (.rds cl line) := none_statement rfl

theorem rdx (cl : Nat) (line : Nat) : Statement (.rdx cl line) := none_statement rfl

theorem upg (cl : Nat) (line : Nat) : Statement (.upg cl line) := none_statement rfl

theorem rdu (cl : Nat) (line : Nat) (kind : Nat) : Statement (.rdu cl line kind) := none_statement rfl

theorem wrl (cl : Nat) (line : Nat) (bytes : Nat) : Statement (.wrl cl line bytes) := none_statement rfl

theorem pute (cl : Nat) (line : Nat) : Statement (.pute cl line) := none_statement rfl

theorem wb (cl : Nat) (line : Nat) : Statement (.wb cl line) := none_statement rfl

theorem wbu (cl : Nat) (line : Nat) : Statement (.wbu cl line) := none_statement rfl

theorem ack (cl : Nat) (line : Nat) : Statement (.ack cl line) := none_statement rfl

theorem fwdack (cl : Nat) (line : Nat) : Statement (.fwdack cl line) := none_statement rfl

theorem partialReturn (cl : Nat) (line : Nat) : Statement (.partialReturn cl line) := none_statement rfl

theorem memoryData (line : Nat) : Statement (.memoryData line) := none_statement rfl

theorem inv (cl : Nat) (line : Nat) : Statement (.inv cl line) := none_statement rfl

theorem fwds (cl : Nat) (line : Nat) : Statement (.fwds cl line) := none_statement rfl

theorem fwdx (cl : Nat) (line : Nat) : Statement (.fwdx cl line) := none_statement rfl

theorem rcl (cl : Nat) (line : Nat) : Statement (.rcl cl line) := none_statement rfl

theorem collMessage (cl : Nat) (line : Nat) : Statement (.collMessage cl line) := none_statement rfl

theorem data (cl : Nat) (line : Nat) : Statement (.data cl line) := none_statement rfl

theorem wback (cl : Nat) (line : Nat) : Statement (.wback cl line) := none_statement rfl

theorem clusterEviction (cl : Nat) (line : Nat) : Statement (.clusterEviction cl line) := none_statement rfl

theorem llcEviction (line : Nat) : Statement (.llcEviction line) := none_statement rfl

theorem spillQueueDrain (slice : Nat) : Statement (.spillQueueDrain slice) := none_statement rfl

theorem pageWalk (core : Nat) (ctx : Nat) (va : Nat) : Statement (.pageWalk core ctx va) := none_statement rfl

theorem translationInvalidation (ctx : Nat) (lo : Nat) (hi : Nat) : Statement (.translationInvalidation ctx lo hi) := none_statement rfl

theorem copyOnWriteComplete (ctx : Nat) (va : Nat) : Statement (.copyOnWriteComplete ctx va) := none_statement rfl

theorem vpoolResume (gid : Nat) : Statement (.vpoolResume gid) := none_statement rfl

theorem frameReclaim (ctx : Nat) (dom : Nat) (page : Nat) : Statement (.frameReclaim ctx dom page) := none_statement rfl

theorem waitaRelease (gid : Nat) (lane : Nat) : Statement (.waitaRelease gid lane) := none_statement rfl

theorem woundDelivery (gid : Nat) : Statement (.woundDelivery gid) := none_statement rfl

theorem woundDeadlineExpiry (team : Nat) : Statement (.woundDeadlineExpiry team) := none_statement rfl

theorem lkmatWrite (ctx : Nat) : Statement (.lkmatWrite ctx) := none_statement rfl

theorem mmaRetire (core : Nat) : Statement (.mmaRetire core) := none_statement rfl

theorem bceComplete (team : Nat) (tag : Nat) : Statement (.bceComplete team tag) := none_statement rfl

theorem contextCreate (root : Nat) (domTab : Nat) (dies : Nat) (ctrLo : Nat) (ctrN : Nat) (qLo : Nat) (qN : Nat) : Statement (.contextCreate root domTab dies ctrLo ctrN qLo qN) := none_statement rfl

theorem queueRegister (ctx : Nat) (q : Nat) (addr : Nat) : Statement (.queueRegister ctx q addr) := none_statement rfl

theorem queueWake (q : Nat) : Statement (.queueWake q) := none_statement rfl

theorem slotGrant : Statement (.slotGrant) := none_statement rfl

theorem packetTake (q : Nat) : Statement (.packetTake q) := none_statement rfl

theorem quantumExpiry (q : Nat) : Statement (.quantumExpiry q) := none_statement rfl

theorem queueUnmap (q : Nat) : Statement (.queueUnmap q) := none_statement rfl

theorem teamPlacement (grid : Nat) : Statement (.teamPlacement grid) := none_statement rfl

theorem deadlinePreq (grid : Nat) : Statement (.deadlinePreq grid) := none_statement rfl

theorem deadlineForced (grid : Nat) : Statement (.deadlineForced grid) := none_statement rfl

theorem teamEnd (team : Nat) : Statement (.teamEnd team) := none_statement rfl

theorem counterDecrement : Statement (.counterDecrement) := none_statement rfl

theorem linkShareWindow (ctx : Nat) : Statement (.linkShareWindow ctx) := none_statement rfl

theorem tvecEntry (gid : Nat) : Statement (.tvecEntry gid) := none_statement rfl

theorem contvEntry (gid : Nat) : Statement (.contvEntry gid) := none_statement rfl

theorem frameReady (gid : Nat) (frame : Nat) : Statement (.frameReady gid frame) := none_statement rfl

theorem serviceReply (seq : Nat) : Statement (.serviceReply seq) := none_statement rfl

theorem faultBufferDrain (die : Nat) : Statement (.faultBufferDrain die) := none_statement rfl

theorem uncorrectableError (core : Nat) (pa : Nat) : Statement (.uncorrectableError core pa) := none_statement rfl

theorem correctedError (core : Nat) (pa : Nat) : Statement (.correctedError core pa) := none_statement rfl

theorem preemptRequest (team : Nat) : Statement (.preemptRequest team) := none_statement rfl

theorem forcedSave (gid : Nat) : Statement (.forcedSave gid) := none_statement rfl

theorem partitionSwap (part : Nat) : Statement (.partitionSwap part) := none_statement rfl

theorem partitionRestore (part : Nat) : Statement (.partitionRestore part) := none_statement rfl

theorem packetReceive (src : Nat) (plane : Nat) (hdr : Nat) (body : List Byte) (key : Nat) (ctr : Nat) (intact : Bool) : Statement (.packetReceive src plane hdr body key ctr intact) := none_statement rfl

theorem retryResend (peer : Nat) (plane : Nat) : Statement (.retryResend peer plane) := none_statement rfl

theorem linkBringUp (peer : Nat) (inc : Nat) : Statement (.linkBringUp peer inc) := none_statement rfl

theorem keyLoad (peer : Nat) (dir : Nat) (key : Nat) : Statement (.keyLoad peer dir key) := none_statement rfl

theorem keyConfirm (peer : Nat) : Statement (.keyConfirm peer) := none_statement rfl

theorem remoteRequest (src : Nat) (ctx : Nat) (kind : Nat) (addr : Nat) (len : Nat) (rtag : Nat) (op : Nat) (payload : List Byte) (mask : Nat) : Statement (.remoteRequest src ctx kind addr len rtag op payload mask) := none_statement rfl

theorem remoteResponse (rtag : Nat) (status : Nat) (payload : List Byte) : Statement (.remoteResponse rtag status payload) := none_statement rfl

theorem accessTableWrite (idx : Nat) (base : Nat) (limit : Nat) (word2 : Nat) : Statement (.accessTableWrite idx base limit word2) := none_statement rfl

theorem collectiveGroupRegister (group : Nat) (ctx : Nat) (members : List Nat) (staging : Nat) : Statement (.collectiveGroupRegister group ctx members staging) := none_statement rfl

theorem collectivePacket (src : Nat) (ctx : Nat) (group : Nat) (seq : Nat) (dhash : Nat) (ops : List Nat) (offset : Nat) (nbytes : Nat) (ovh : Bool) (payload : List Byte) : Statement (.collectivePacket src ctx group seq dhash ops offset nbytes ovh payload) := none_statement rfl

theorem collectiveHop (n : Nat) : Statement (.collectiveHop n) := none_statement rfl

theorem collComplete (team : Nat) (tag : Nat) : Statement (.collComplete team tag) := none_statement rfl

theorem hostMemAccess (die : Nat) (addr : Nat) (write : Bool) (len : Nat) (payload : List Byte) : Statement (.hostMemAccess die addr write len payload) := none_statement rfl

theorem hostUnbind (die : Nat) : Statement (.hostUnbind die) := none_statement rfl

theorem packageReset (digests : List (BitVec 256)) (signed : List Bool) : Statement (.packageReset digests signed) := none_statement rfl

theorem getMeasurements (port : Nat) (nonce : Nat) : Statement (.getMeasurements port nonce) := none_statement rfl

theorem managementRequest (via : Nat × Nat) (kind : Nat) (arg : Nat) (value : Nat) : Statement (.managementRequest via kind arg value) := none_statement rfl

theorem powerLimitWrite (watts : Sealed) : Statement (.powerLimitWrite watts) := none_statement rfl

theorem stagingSetting (stack : Sealed) (n : Nat) : Statement (.stagingSetting stack n) := none_statement rfl

theorem thermalHold (die : Nat) (temp : Nat) : Statement (.thermalHold die temp) := none_statement rfl

theorem thermalStop (die : Nat) (temp : Nat) : Statement (.thermalStop die temp) := none_statement rfl

theorem thermalClear (temps : List Nat) : Statement (.thermalClear temps) := none_statement rfl

theorem snapshotTrigger (via : Option (Nat × Nat)) : Statement (.snapshotTrigger via) := none_statement rfl

theorem snapshotArm : Statement (.snapshotArm) := none_statement rfl

theorem snapshotMissedClear (bits : Sealed) : Statement (.snapshotMissedClear bits) := none_statement rfl

theorem reservedEncoding (word : IWord) : Statement (.reservedEncoding word) := none_statement rfl

theorem fetchFault : Statement (.fetchFault) := none_statement rfl

theorem homeAtomic (cl : Nat) (line : Nat) (off : Nat) (op : Nat) (arg : Nat) (cmp : Nat) : Statement (.homeAtomic cl line off op arg cmp) := none_statement rfl

theorem hostBind (die : Nat) (vh : Nat) : Statement (.hostBind die vh) := none_statement rfl

theorem cxlLinkTraining (wantsCache : Bool) : Statement (.cxlLinkTraining wantsCache) := none_statement rfl

end Sys2Proof.Laws.Roundtrip
end

