-- ==== Sys2Proof/Laws/State.lean ====
section
/-!
SUPPORT. The small lemmas of the state's updates: for each update the principal fields that it leaves alone, and what the
accessor of its own table reads afterwards; so that no later proof unfolds a record update.
-/
namespace Sys2Proof.Machine

/-! ### setGrp -/

@[simp] theorem tick_setGrp (s : State) (g : Nat) (x : Group) : (s.setGrp g x).tick = s.tick := rfl
@[simp] theorem mem_setGrp (s : State) (g : Nat) (x : Group) : (s.setGrp g x).mem = s.mem := rfl
@[simp] theorem bad_setGrp (s : State) (g : Nat) (x : Group) : (s.setGrp g x).bad = s.bad := rfl
@[simp] theorem cur_setGrp (s : State) (g : Nat) (x : Group) : (s.setGrp g x).cur = s.cur := rfl
@[simp] theorem teams_setGrp (s : State) (g : Nat) (x : Group) : (s.setGrp g x).teams = s.teams := rfl
@[simp] theorem grids_setGrp (s : State) (g : Nat) (x : Group) : (s.setGrp g x).grids = s.grids := rfl
@[simp] theorem ctxs_setGrp (s : State) (g : Nat) (x : Group) : (s.setGrp g x).ctxs = s.ctxs := rfl
@[simp] theorem queues_setGrp (s : State) (g : Nat) (x : Group) : (s.setGrp g x).queues = s.queues := rfl
@[simp] theorem slots_setGrp (s : State) (g : Nat) (x : Group) : (s.setGrp g x).slots = s.slots := rfl
@[simp] theorem counters_setGrp (s : State) (g : Nat) (x : Group) : (s.setGrp g x).counters = s.counters := rfl
@[simp] theorem decs_setGrp (s : State) (g : Nat) (x : Group) : (s.setGrp g x).decs = s.decs := rfl
@[simp] theorem barriers_setGrp (s : State) (g : Nat) (x : Group) : (s.setGrp g x).barriers = s.barriers := rfl
@[simp] theorem cores_setGrp (s : State) (g : Nat) (x : Group) : (s.setGrp g x).cores = s.cores := rfl
@[simp] theorem tlb_setGrp (s : State) (g : Nat) (x : Group) : (s.setGrp g x).tlb = s.tlb := rfl
@[simp] theorem coh_setGrp (s : State) (g : Nat) (x : Group) : (s.setGrp g x).coh = s.coh := rfl
@[simp] theorem sco_setGrp (s : State) (g : Nat) (x : Group) : (s.setGrp g x).sco = s.sco := rfl
@[simp] theorem monitors_setGrp (s : State) (g : Nat) (x : Group) : (s.setGrp g x).monitors = s.monitors := rfl
@[simp] theorem anchors_setGrp (s : State) (g : Nat) (x : Group) : (s.setGrp g x).anchors = s.anchors := rfl
@[simp] theorem holds_setGrp (s : State) (g : Nat) (x : Group) : (s.setGrp g x).holds = s.holds := rfl
@[simp] theorem lockWaits_setGrp (s : State) (g : Nat) (x : Group) : (s.setGrp g x).lockWaits = s.lockWaits := rfl
@[simp] theorem tasks_setGrp (s : State) (g : Nat) (x : Group) : (s.setGrp g x).tasks = s.tasks := rfl
@[simp] theorem bce_setGrp (s : State) (g : Nat) (x : Group) : (s.setGrp g x).bce = s.bce := rfl
@[simp] theorem evq_setGrp (s : State) (g : Nat) (x : Group) : (s.setGrp g x).evq = s.evq := rfl
@[simp] theorem fbuf_setGrp (s : State) (g : Nat) (x : Group) : (s.setGrp g x).fbuf = s.fbuf := rfl
@[simp] theorem intrs_setGrp (s : State) (g : Nat) (x : Group) : (s.setGrp g x).intrs = s.intrs := rfl
@[simp] theorem peers_setGrp (s : State) (g : Nat) (x : Group) : (s.setGrp g x).peers = s.peers := rfl
@[simp] theorem remReqs_setGrp (s : State) (g : Nat) (x : Group) : (s.setGrp g x).remReqs = s.remReqs := rfl
@[simp] theorem collGroups_setGrp (s : State) (g : Nat) (x : Group) : (s.setGrp g x).collGroups = s.collGroups := rfl
@[simp] theorem hops_setGrp (s : State) (g : Nat) (x : Group) : (s.setGrp g x).hops = s.hops := rfl
@[simp] theorem fresh_setGrp (s : State) (g : Nat) (x : Group) : (s.setGrp g x).fresh = s.fresh := rfl
@[simp] theorem sched_setGrp (s : State) (g : Nat) (x : Group) : (s.setGrp g x).sched = s.sched := rfl
@[simp] theorem ro_setGrp (s : State) (g : Nat) (x : Group) : (s.setGrp g x).ro = s.ro := rfl
@[simp] theorem access_setGrp (s : State) (g : Nat) (x : Group) : (s.setGrp g x).access = s.access := rfl
@[simp] theorem cows_setGrp (s : State) (g : Nat) (x : Group) : (s.setGrp g x).cows = s.cows := rfl
@[simp] theorem keptFrames_setGrp (s : State) (g : Nat) (x : Group) : (s.setGrp g x).keptFrames = s.keptFrames := rfl
@[simp] theorem viewFrames_setGrp (s : State) (g : Nat) (x : Group) : (s.setGrp g x).viewFrames = s.viewFrames := rfl
@[simp] theorem wounds_setGrp (s : State) (g : Nat) (x : Group) : (s.setGrp g x).wounds = s.wounds := rfl
@[simp] theorem revoked_setGrp (s : State) (g : Nat) (x : Group) : (s.setGrp g x).revoked = s.revoked := rfl
@[simp] theorem stopped_setGrp (s : State) (g : Nat) (x : Group) : (s.setGrp g x).stopped = s.stopped := rfl
@[simp] theorem temps_setGrp (s : State) (g : Nat) (x : Group) : (s.setGrp g x).temps = s.temps := rfl
@[simp] theorem controls_setGrp (s : State) (g : Nat) (x : Group) : (s.setGrp g x).controls = s.controls := rfl
@[simp] theorem sessions_setGrp (s : State) (g : Nat) (x : Group) : (s.setGrp g x).sessions = s.sessions := rfl
@[simp] theorem opKeys_setGrp (s : State) (g : Nat) (x : Group) : (s.setGrp g x).opKeys = s.opKeys := rfl

/-! ### modGrp -/

@[simp] theorem tick_modGrp (s : State) (g : Nat) (f : Group → Group) : (s.modGrp g f).tick = s.tick := rfl
@[simp] theorem mem_modGrp (s : State) (g : Nat) (f : Group → Group) : (s.modGrp g f).mem = s.mem := rfl
@[simp] theorem bad_modGrp (s : State) (g : Nat) (f : Group → Group) : (s.modGrp g f).bad = s.bad := rfl
@[simp] theorem cur_modGrp (s : State) (g : Nat) (f : Group → Group) : (s.modGrp g f).cur = s.cur := rfl
@[simp] theorem teams_modGrp (s : State) (g : Nat) (f : Group → Group) : (s.modGrp g f).teams = s.teams := rfl
@[simp] theorem grids_modGrp (s : State) (g : Nat) (f : Group → Group) : (s.modGrp g f).grids = s.grids := rfl
@[simp] theorem ctxs_modGrp (s : State) (g : Nat) (f : Group → Group) : (s.modGrp g f).ctxs = s.ctxs := rfl
@[simp] theorem queues_modGrp (s : State) (g : Nat) (f : Group → Group) : (s.modGrp g f).queues = s.queues := rfl
@[simp] theorem slots_modGrp (s : State) (g : Nat) (f : Group → Group) : (s.modGrp g f).slots = s.slots := rfl
@[simp] theorem counters_modGrp (s : State) (g : Nat) (f : Group → Group) : (s.modGrp g f).counters = s.counters := rfl
@[simp] theorem decs_modGrp (s : State) (g : Nat) (f : Group → Group) : (s.modGrp g f).decs = s.decs := rfl
@[simp] theorem barriers_modGrp (s : State) (g : Nat) (f : Group → Group) : (s.modGrp g f).barriers = s.barriers := rfl
@[simp] theorem cores_modGrp (s : State) (g : Nat) (f : Group → Group) : (s.modGrp g f).cores = s.cores := rfl
@[simp] theorem tlb_modGrp (s : State) (g : Nat) (f : Group → Group) : (s.modGrp g f).tlb = s.tlb := rfl
@[simp] theorem coh_modGrp (s : State) (g : Nat) (f : Group → Group) : (s.modGrp g f).coh = s.coh := rfl
@[simp] theorem sco_modGrp (s : State) (g : Nat) (f : Group → Group) : (s.modGrp g f).sco = s.sco := rfl
@[simp] theorem monitors_modGrp (s : State) (g : Nat) (f : Group → Group) : (s.modGrp g f).monitors = s.monitors := rfl
@[simp] theorem anchors_modGrp (s : State) (g : Nat) (f : Group → Group) : (s.modGrp g f).anchors = s.anchors := rfl
@[simp] theorem holds_modGrp (s : State) (g : Nat) (f : Group → Group) : (s.modGrp g f).holds = s.holds := rfl
@[simp] theorem lockWaits_modGrp (s : State) (g : Nat) (f : Group → Group) : (s.modGrp g f).lockWaits = s.lockWaits := rfl
@[simp] theorem tasks_modGrp (s : State) (g : Nat) (f : Group → Group) : (s.modGrp g f).tasks = s.tasks := rfl
@[simp] theorem bce_modGrp (s : State) (g : Nat) (f : Group → Group) : (s.modGrp g f).bce = s.bce := rfl
@[simp] theorem evq_modGrp (s : State) (g : Nat) (f : Group → Group) : (s.modGrp g f).evq = s.evq := rfl
@[simp] theorem fbuf_modGrp (s : State) (g : Nat) (f : Group → Group) : (s.modGrp g f).fbuf = s.fbuf := rfl
@[simp] theorem intrs_modGrp (s : State) (g : Nat) (f : Group → Group) : (s.modGrp g f).intrs = s.intrs := rfl
@[simp] theorem peers_modGrp (s : State) (g : Nat) (f : Group → Group) : (s.modGrp g f).peers = s.peers := rfl
@[simp] theorem remReqs_modGrp (s : State) (g : Nat) (f : Group → Group) : (s.modGrp g f).remReqs = s.remReqs := rfl
@[simp] theorem collGroups_modGrp (s : State) (g : Nat) (f : Group → Group) : (s.modGrp g f).collGroups = s.collGroups := rfl
@[simp] theorem hops_modGrp (s : State) (g : Nat) (f : Group → Group) : (s.modGrp g f).hops = s.hops := rfl
@[simp] theorem fresh_modGrp (s : State) (g : Nat) (f : Group → Group) : (s.modGrp g f).fresh = s.fresh := rfl
@[simp] theorem sched_modGrp (s : State) (g : Nat) (f : Group → Group) : (s.modGrp g f).sched = s.sched := rfl
@[simp] theorem ro_modGrp (s : State) (g : Nat) (f : Group → Group) : (s.modGrp g f).ro = s.ro := rfl
@[simp] theorem access_modGrp (s : State) (g : Nat) (f : Group → Group) : (s.modGrp g f).access = s.access := rfl
@[simp] theorem cows_modGrp (s : State) (g : Nat) (f : Group → Group) : (s.modGrp g f).cows = s.cows := rfl
@[simp] theorem keptFrames_modGrp (s : State) (g : Nat) (f : Group → Group) : (s.modGrp g f).keptFrames = s.keptFrames := rfl
@[simp] theorem viewFrames_modGrp (s : State) (g : Nat) (f : Group → Group) : (s.modGrp g f).viewFrames = s.viewFrames := rfl
@[simp] theorem wounds_modGrp (s : State) (g : Nat) (f : Group → Group) : (s.modGrp g f).wounds = s.wounds := rfl
@[simp] theorem revoked_modGrp (s : State) (g : Nat) (f : Group → Group) : (s.modGrp g f).revoked = s.revoked := rfl
@[simp] theorem stopped_modGrp (s : State) (g : Nat) (f : Group → Group) : (s.modGrp g f).stopped = s.stopped := rfl
@[simp] theorem temps_modGrp (s : State) (g : Nat) (f : Group → Group) : (s.modGrp g f).temps = s.temps := rfl
@[simp] theorem controls_modGrp (s : State) (g : Nat) (f : Group → Group) : (s.modGrp g f).controls = s.controls := rfl
@[simp] theorem sessions_modGrp (s : State) (g : Nat) (f : Group → Group) : (s.modGrp g f).sessions = s.sessions := rfl
@[simp] theorem opKeys_modGrp (s : State) (g : Nat) (f : Group → Group) : (s.modGrp g f).opKeys = s.opKeys := rfl

/-! ### setMe -/

@[simp] theorem tick_setMe (s : State) (x : Group) : (s.setMe x).tick = s.tick := rfl
@[simp] theorem mem_setMe (s : State) (x : Group) : (s.setMe x).mem = s.mem := rfl
@[simp] theorem bad_setMe (s : State) (x : Group) : (s.setMe x).bad = s.bad := rfl
@[simp] theorem cur_setMe (s : State) (x : Group) : (s.setMe x).cur = s.cur := rfl
@[simp] theorem teams_setMe (s : State) (x : Group) : (s.setMe x).teams = s.teams := rfl
@[simp] theorem grids_setMe (s : State) (x : Group) : (s.setMe x).grids = s.grids := rfl
@[simp] theorem ctxs_setMe (s : State) (x : Group) : (s.setMe x).ctxs = s.ctxs := rfl
@[simp] theorem queues_setMe (s : State) (x : Group) : (s.setMe x).queues = s.queues := rfl
@[simp] theorem slots_setMe (s : State) (x : Group) : (s.setMe x).slots = s.slots := rfl
@[simp] theorem counters_setMe (s : State) (x : Group) : (s.setMe x).counters = s.counters := rfl
@[simp] theorem decs_setMe (s : State) (x : Group) : (s.setMe x).decs = s.decs := rfl
@[simp] theorem barriers_setMe (s : State) (x : Group) : (s.setMe x).barriers = s.barriers := rfl
@[simp] theorem cores_setMe (s : State) (x : Group) : (s.setMe x).cores = s.cores := rfl
@[simp] theorem tlb_setMe (s : State) (x : Group) : (s.setMe x).tlb = s.tlb := rfl
@[simp] theorem coh_setMe (s : State) (x : Group) : (s.setMe x).coh = s.coh := rfl
@[simp] theorem sco_setMe (s : State) (x : Group) : (s.setMe x).sco = s.sco := rfl
@[simp] theorem monitors_setMe (s : State) (x : Group) : (s.setMe x).monitors = s.monitors := rfl
@[simp] theorem anchors_setMe (s : State) (x : Group) : (s.setMe x).anchors = s.anchors := rfl
@[simp] theorem holds_setMe (s : State) (x : Group) : (s.setMe x).holds = s.holds := rfl
@[simp] theorem lockWaits_setMe (s : State) (x : Group) : (s.setMe x).lockWaits = s.lockWaits := rfl
@[simp] theorem tasks_setMe (s : State) (x : Group) : (s.setMe x).tasks = s.tasks := rfl
@[simp] theorem bce_setMe (s : State) (x : Group) : (s.setMe x).bce = s.bce := rfl
@[simp] theorem evq_setMe (s : State) (x : Group) : (s.setMe x).evq = s.evq := rfl
@[simp] theorem fbuf_setMe (s : State) (x : Group) : (s.setMe x).fbuf = s.fbuf := rfl
@[simp] theorem intrs_setMe (s : State) (x : Group) : (s.setMe x).intrs = s.intrs := rfl
@[simp] theorem peers_setMe (s : State) (x : Group) : (s.setMe x).peers = s.peers := rfl
@[simp] theorem remReqs_setMe (s : State) (x : Group) : (s.setMe x).remReqs = s.remReqs := rfl
@[simp] theorem collGroups_setMe (s : State) (x : Group) : (s.setMe x).collGroups = s.collGroups := rfl
@[simp] theorem hops_setMe (s : State) (x : Group) : (s.setMe x).hops = s.hops := rfl
@[simp] theorem fresh_setMe (s : State) (x : Group) : (s.setMe x).fresh = s.fresh := rfl
@[simp] theorem sched_setMe (s : State) (x : Group) : (s.setMe x).sched = s.sched := rfl
@[simp] theorem ro_setMe (s : State) (x : Group) : (s.setMe x).ro = s.ro := rfl
@[simp] theorem access_setMe (s : State) (x : Group) : (s.setMe x).access = s.access := rfl
@[simp] theorem cows_setMe (s : State) (x : Group) : (s.setMe x).cows = s.cows := rfl
@[simp] theorem keptFrames_setMe (s : State) (x : Group) : (s.setMe x).keptFrames = s.keptFrames := rfl
@[simp] theorem viewFrames_setMe (s : State) (x : Group) : (s.setMe x).viewFrames = s.viewFrames := rfl
@[simp] theorem wounds_setMe (s : State) (x : Group) : (s.setMe x).wounds = s.wounds := rfl
@[simp] theorem revoked_setMe (s : State) (x : Group) : (s.setMe x).revoked = s.revoked := rfl
@[simp] theorem stopped_setMe (s : State) (x : Group) : (s.setMe x).stopped = s.stopped := rfl
@[simp] theorem temps_setMe (s : State) (x : Group) : (s.setMe x).temps = s.temps := rfl
@[simp] theorem controls_setMe (s : State) (x : Group) : (s.setMe x).controls = s.controls := rfl
@[simp] theorem sessions_setMe (s : State) (x : Group) : (s.setMe x).sessions = s.sessions := rfl
@[simp] theorem opKeys_setMe (s : State) (x : Group) : (s.setMe x).opKeys = s.opKeys := rfl

/-! ### modMe -/

@[simp] theorem tick_modMe (s : State) (f : Group → Group) : (s.modMe f).tick = s.tick := rfl
@[simp] theorem mem_modMe (s : State) (f : Group → Group) : (s.modMe f).mem = s.mem := rfl
@[simp] theorem bad_modMe (s : State) (f : Group → Group) : (s.modMe f).bad = s.bad := rfl
@[simp] theorem cur_modMe (s : State) (f : Group → Group) : (s.modMe f).cur = s.cur := rfl
@[simp] theorem teams_modMe (s : State) (f : Group → Group) : (s.modMe f).teams = s.teams := rfl
@[simp] theorem grids_modMe (s : State) (f : Group → Group) : (s.modMe f).grids = s.grids := rfl
@[simp] theorem ctxs_modMe (s : State) (f : Group → Group) : (s.modMe f).ctxs = s.ctxs := rfl
@[simp] theorem queues_modMe (s : State) (f : Group → Group) : (s.modMe f).queues = s.queues := rfl
@[simp] theorem slots_modMe (s : State) (f : Group → Group) : (s.modMe f).slots = s.slots := rfl
@[simp] theorem counters_modMe (s : State) (f : Group → Group) : (s.modMe f).counters = s.counters := rfl
@[simp] theorem decs_modMe (s : State) (f : Group → Group) : (s.modMe f).decs = s.decs := rfl
@[simp] theorem barriers_modMe (s : State) (f : Group → Group) : (s.modMe f).barriers = s.barriers := rfl
@[simp] theorem cores_modMe (s : State) (f : Group → Group) : (s.modMe f).cores = s.cores := rfl
@[simp] theorem tlb_modMe (s : State) (f : Group → Group) : (s.modMe f).tlb = s.tlb := rfl
@[simp] theorem coh_modMe (s : State) (f : Group → Group) : (s.modMe f).coh = s.coh := rfl
@[simp] theorem sco_modMe (s : State) (f : Group → Group) : (s.modMe f).sco = s.sco := rfl
@[simp] theorem monitors_modMe (s : State) (f : Group → Group) : (s.modMe f).monitors = s.monitors := rfl
@[simp] theorem anchors_modMe (s : State) (f : Group → Group) : (s.modMe f).anchors = s.anchors := rfl
@[simp] theorem holds_modMe (s : State) (f : Group → Group) : (s.modMe f).holds = s.holds := rfl
@[simp] theorem lockWaits_modMe (s : State) (f : Group → Group) : (s.modMe f).lockWaits = s.lockWaits := rfl
@[simp] theorem tasks_modMe (s : State) (f : Group → Group) : (s.modMe f).tasks = s.tasks := rfl
@[simp] theorem bce_modMe (s : State) (f : Group → Group) : (s.modMe f).bce = s.bce := rfl
@[simp] theorem evq_modMe (s : State) (f : Group → Group) : (s.modMe f).evq = s.evq := rfl
@[simp] theorem fbuf_modMe (s : State) (f : Group → Group) : (s.modMe f).fbuf = s.fbuf := rfl
@[simp] theorem intrs_modMe (s : State) (f : Group → Group) : (s.modMe f).intrs = s.intrs := rfl
@[simp] theorem peers_modMe (s : State) (f : Group → Group) : (s.modMe f).peers = s.peers := rfl
@[simp] theorem remReqs_modMe (s : State) (f : Group → Group) : (s.modMe f).remReqs = s.remReqs := rfl
@[simp] theorem collGroups_modMe (s : State) (f : Group → Group) : (s.modMe f).collGroups = s.collGroups := rfl
@[simp] theorem hops_modMe (s : State) (f : Group → Group) : (s.modMe f).hops = s.hops := rfl
@[simp] theorem fresh_modMe (s : State) (f : Group → Group) : (s.modMe f).fresh = s.fresh := rfl
@[simp] theorem sched_modMe (s : State) (f : Group → Group) : (s.modMe f).sched = s.sched := rfl
@[simp] theorem ro_modMe (s : State) (f : Group → Group) : (s.modMe f).ro = s.ro := rfl
@[simp] theorem access_modMe (s : State) (f : Group → Group) : (s.modMe f).access = s.access := rfl
@[simp] theorem cows_modMe (s : State) (f : Group → Group) : (s.modMe f).cows = s.cows := rfl
@[simp] theorem keptFrames_modMe (s : State) (f : Group → Group) : (s.modMe f).keptFrames = s.keptFrames := rfl
@[simp] theorem viewFrames_modMe (s : State) (f : Group → Group) : (s.modMe f).viewFrames = s.viewFrames := rfl
@[simp] theorem wounds_modMe (s : State) (f : Group → Group) : (s.modMe f).wounds = s.wounds := rfl
@[simp] theorem revoked_modMe (s : State) (f : Group → Group) : (s.modMe f).revoked = s.revoked := rfl
@[simp] theorem stopped_modMe (s : State) (f : Group → Group) : (s.modMe f).stopped = s.stopped := rfl
@[simp] theorem temps_modMe (s : State) (f : Group → Group) : (s.modMe f).temps = s.temps := rfl
@[simp] theorem controls_modMe (s : State) (f : Group → Group) : (s.modMe f).controls = s.controls := rfl
@[simp] theorem sessions_modMe (s : State) (f : Group → Group) : (s.modMe f).sessions = s.sessions := rfl
@[simp] theorem opKeys_modMe (s : State) (f : Group → Group) : (s.modMe f).opKeys = s.opKeys := rfl

/-! ### setTeam -/

@[simp] theorem tick_setTeam (s : State) (n : Nat) (x : Team) : (s.setTeam n x).tick = s.tick := rfl
@[simp] theorem mem_setTeam (s : State) (n : Nat) (x : Team) : (s.setTeam n x).mem = s.mem := rfl
@[simp] theorem bad_setTeam (s : State) (n : Nat) (x : Team) : (s.setTeam n x).bad = s.bad := rfl
@[simp] theorem cur_setTeam (s : State) (n : Nat) (x : Team) : (s.setTeam n x).cur = s.cur := rfl
@[simp] theorem groups_setTeam (s : State) (n : Nat) (x : Team) : (s.setTeam n x).groups = s.groups := rfl
@[simp] theorem grids_setTeam (s : State) (n : Nat) (x : Team) : (s.setTeam n x).grids = s.grids := rfl
@[simp] theorem ctxs_setTeam (s : State) (n : Nat) (x : Team) : (s.setTeam n x).ctxs = s.ctxs := rfl
@[simp] theorem queues_setTeam (s : State) (n : Nat) (x : Team) : (s.setTeam n x).queues = s.queues := rfl
@[simp] theorem slots_setTeam (s : State) (n : Nat) (x : Team) : (s.setTeam n x).slots = s.slots := rfl
@[simp] theorem counters_setTeam (s : State) (n : Nat) (x : Team) : (s.setTeam n x).counters = s.counters := rfl
@[simp] theorem decs_setTeam (s : State) (n : Nat) (x : Team) : (s.setTeam n x).decs = s.decs := rfl
@[simp] theorem barriers_setTeam (s : State) (n : Nat) (x : Team) : (s.setTeam n x).barriers = s.barriers := rfl
@[simp] theorem cores_setTeam (s : State) (n : Nat) (x : Team) : (s.setTeam n x).cores = s.cores := rfl
@[simp] theorem tlb_setTeam (s : State) (n : Nat) (x : Team) : (s.setTeam n x).tlb = s.tlb := rfl
@[simp] theorem coh_setTeam (s : State) (n : Nat) (x : Team) : (s.setTeam n x).coh = s.coh := rfl
@[simp] theorem sco_setTeam (s : State) (n : Nat) (x : Team) : (s.setTeam n x).sco = s.sco := rfl
@[simp] theorem monitors_setTeam (s : State) (n : Nat) (x : Team) : (s.setTeam n x).monitors = s.monitors := rfl
@[simp] theorem anchors_setTeam (s : State) (n : Nat) (x : Team) : (s.setTeam n x).anchors = s.anchors := rfl
@[simp] theorem holds_setTeam (s : State) (n : Nat) (x : Team) : (s.setTeam n x).holds = s.holds := rfl
@[simp] theorem lockWaits_setTeam (s : State) (n : Nat) (x : Team) : (s.setTeam n x).lockWaits = s.lockWaits := rfl
@[simp] theorem tasks_setTeam (s : State) (n : Nat) (x : Team) : (s.setTeam n x).tasks = s.tasks := rfl
@[simp] theorem bce_setTeam (s : State) (n : Nat) (x : Team) : (s.setTeam n x).bce = s.bce := rfl
@[simp] theorem evq_setTeam (s : State) (n : Nat) (x : Team) : (s.setTeam n x).evq = s.evq := rfl
@[simp] theorem fbuf_setTeam (s : State) (n : Nat) (x : Team) : (s.setTeam n x).fbuf = s.fbuf := rfl
@[simp] theorem intrs_setTeam (s : State) (n : Nat) (x : Team) : (s.setTeam n x).intrs = s.intrs := rfl
@[simp] theorem peers_setTeam (s : State) (n : Nat) (x : Team) : (s.setTeam n x).peers = s.peers := rfl
@[simp] theorem remReqs_setTeam (s : State) (n : Nat) (x : Team) : (s.setTeam n x).remReqs = s.remReqs := rfl
@[simp] theorem collGroups_setTeam (s : State) (n : Nat) (x : Team) : (s.setTeam n x).collGroups = s.collGroups := rfl
@[simp] theorem hops_setTeam (s : State) (n : Nat) (x : Team) : (s.setTeam n x).hops = s.hops := rfl
@[simp] theorem fresh_setTeam (s : State) (n : Nat) (x : Team) : (s.setTeam n x).fresh = s.fresh := rfl
@[simp] theorem sched_setTeam (s : State) (n : Nat) (x : Team) : (s.setTeam n x).sched = s.sched := rfl
@[simp] theorem ro_setTeam (s : State) (n : Nat) (x : Team) : (s.setTeam n x).ro = s.ro := rfl
@[simp] theorem access_setTeam (s : State) (n : Nat) (x : Team) : (s.setTeam n x).access = s.access := rfl
@[simp] theorem cows_setTeam (s : State) (n : Nat) (x : Team) : (s.setTeam n x).cows = s.cows := rfl
@[simp] theorem keptFrames_setTeam (s : State) (n : Nat) (x : Team) : (s.setTeam n x).keptFrames = s.keptFrames := rfl
@[simp] theorem viewFrames_setTeam (s : State) (n : Nat) (x : Team) : (s.setTeam n x).viewFrames = s.viewFrames := rfl
@[simp] theorem wounds_setTeam (s : State) (n : Nat) (x : Team) : (s.setTeam n x).wounds = s.wounds := rfl
@[simp] theorem revoked_setTeam (s : State) (n : Nat) (x : Team) : (s.setTeam n x).revoked = s.revoked := rfl
@[simp] theorem stopped_setTeam (s : State) (n : Nat) (x : Team) : (s.setTeam n x).stopped = s.stopped := rfl
@[simp] theorem temps_setTeam (s : State) (n : Nat) (x : Team) : (s.setTeam n x).temps = s.temps := rfl
@[simp] theorem controls_setTeam (s : State) (n : Nat) (x : Team) : (s.setTeam n x).controls = s.controls := rfl
@[simp] theorem sessions_setTeam (s : State) (n : Nat) (x : Team) : (s.setTeam n x).sessions = s.sessions := rfl
@[simp] theorem opKeys_setTeam (s : State) (n : Nat) (x : Team) : (s.setTeam n x).opKeys = s.opKeys := rfl

/-! ### modTeam -/

@[simp] theorem tick_modTeam (s : State) (n : Nat) (f : Team → Team) : (s.modTeam n f).tick = s.tick := rfl
@[simp] theorem mem_modTeam (s : State) (n : Nat) (f : Team → Team) : (s.modTeam n f).mem = s.mem := rfl
@[simp] theorem bad_modTeam (s : State) (n : Nat) (f : Team → Team) : (s.modTeam n f).bad = s.bad := rfl
@[simp] theorem cur_modTeam (s : State) (n : Nat) (f : Team → Team) : (s.modTeam n f).cur = s.cur := rfl
@[simp] theorem groups_modTeam (s : State) (n : Nat) (f : Team → Team) : (s.modTeam n f).groups = s.groups := rfl
@[simp] theorem grids_modTeam (s : State) (n : Nat) (f : Team → Team) : (s.modTeam n f).grids = s.grids := rfl
@[simp] theorem ctxs_modTeam (s : State) (n : Nat) (f : Team → Team) : (s.modTeam n f).ctxs = s.ctxs := rfl
@[simp] theorem queues_modTeam (s : State) (n : Nat) (f : Team → Team) : (s.modTeam n f).queues = s.queues := rfl
@[simp] theorem slots_modTeam (s : State) (n : Nat) (f : Team → Team) : (s.modTeam n f).slots = s.slots := rfl
@[simp] theorem counters_modTeam (s : State) (n : Nat) (f : Team → Team) : (s.modTeam n f).counters = s.counters := rfl
@[simp] theorem decs_modTeam (s : State) (n : Nat) (f : Team → Team) : (s.modTeam n f).decs = s.decs := rfl
@[simp] theorem barriers_modTeam (s : State) (n : Nat) (f : Team → Team) : (s.modTeam n f).barriers = s.barriers := rfl
@[simp] theorem cores_modTeam (s : State) (n : Nat) (f : Team → Team) : (s.modTeam n f).cores = s.cores := rfl
@[simp] theorem tlb_modTeam (s : State) (n : Nat) (f : Team → Team) : (s.modTeam n f).tlb = s.tlb := rfl
@[simp] theorem coh_modTeam (s : State) (n : Nat) (f : Team → Team) : (s.modTeam n f).coh = s.coh := rfl
@[simp] theorem sco_modTeam (s : State) (n : Nat) (f : Team → Team) : (s.modTeam n f).sco = s.sco := rfl
@[simp] theorem monitors_modTeam (s : State) (n : Nat) (f : Team → Team) : (s.modTeam n f).monitors = s.monitors := rfl
@[simp] theorem anchors_modTeam (s : State) (n : Nat) (f : Team → Team) : (s.modTeam n f).anchors = s.anchors := rfl
@[simp] theorem holds_modTeam (s : State) (n : Nat) (f : Team → Team) : (s.modTeam n f).holds = s.holds := rfl
@[simp] theorem lockWaits_modTeam (s : State) (n : Nat) (f : Team → Team) : (s.modTeam n f).lockWaits = s.lockWaits := rfl
@[simp] theorem tasks_modTeam (s : State) (n : Nat) (f : Team → Team) : (s.modTeam n f).tasks = s.tasks := rfl
@[simp] theorem bce_modTeam (s : State) (n : Nat) (f : Team → Team) : (s.modTeam n f).bce = s.bce := rfl
@[simp] theorem evq_modTeam (s : State) (n : Nat) (f : Team → Team) : (s.modTeam n f).evq = s.evq := rfl
@[simp] theorem fbuf_modTeam (s : State) (n : Nat) (f : Team → Team) : (s.modTeam n f).fbuf = s.fbuf := rfl
@[simp] theorem intrs_modTeam (s : State) (n : Nat) (f : Team → Team) : (s.modTeam n f).intrs = s.intrs := rfl
@[simp] theorem peers_modTeam (s : State) (n : Nat) (f : Team → Team) : (s.modTeam n f).peers = s.peers := rfl
@[simp] theorem remReqs_modTeam (s : State) (n : Nat) (f : Team → Team) : (s.modTeam n f).remReqs = s.remReqs := rfl
@[simp] theorem collGroups_modTeam (s : State) (n : Nat) (f : Team → Team) : (s.modTeam n f).collGroups = s.collGroups := rfl
@[simp] theorem hops_modTeam (s : State) (n : Nat) (f : Team → Team) : (s.modTeam n f).hops = s.hops := rfl
@[simp] theorem fresh_modTeam (s : State) (n : Nat) (f : Team → Team) : (s.modTeam n f).fresh = s.fresh := rfl
@[simp] theorem sched_modTeam (s : State) (n : Nat) (f : Team → Team) : (s.modTeam n f).sched = s.sched := rfl
@[simp] theorem ro_modTeam (s : State) (n : Nat) (f : Team → Team) : (s.modTeam n f).ro = s.ro := rfl
@[simp] theorem access_modTeam (s : State) (n : Nat) (f : Team → Team) : (s.modTeam n f).access = s.access := rfl
@[simp] theorem cows_modTeam (s : State) (n : Nat) (f : Team → Team) : (s.modTeam n f).cows = s.cows := rfl
@[simp] theorem keptFrames_modTeam (s : State) (n : Nat) (f : Team → Team) : (s.modTeam n f).keptFrames = s.keptFrames := rfl
@[simp] theorem viewFrames_modTeam (s : State) (n : Nat) (f : Team → Team) : (s.modTeam n f).viewFrames = s.viewFrames := rfl
@[simp] theorem wounds_modTeam (s : State) (n : Nat) (f : Team → Team) : (s.modTeam n f).wounds = s.wounds := rfl
@[simp] theorem revoked_modTeam (s : State) (n : Nat) (f : Team → Team) : (s.modTeam n f).revoked = s.revoked := rfl
@[simp] theorem stopped_modTeam (s : State) (n : Nat) (f : Team → Team) : (s.modTeam n f).stopped = s.stopped := rfl
@[simp] theorem temps_modTeam (s : State) (n : Nat) (f : Team → Team) : (s.modTeam n f).temps = s.temps := rfl
@[simp] theorem controls_modTeam (s : State) (n : Nat) (f : Team → Team) : (s.modTeam n f).controls = s.controls := rfl
@[simp] theorem sessions_modTeam (s : State) (n : Nat) (f : Team → Team) : (s.modTeam n f).sessions = s.sessions := rfl
@[simp] theorem opKeys_modTeam (s : State) (n : Nat) (f : Team → Team) : (s.modTeam n f).opKeys = s.opKeys := rfl

/-! ### setGrid -/

@[simp] theorem tick_setGrid (s : State) (n : Nat) (x : Grid) : (s.setGrid n x).tick = s.tick := rfl
@[simp] theorem mem_setGrid (s : State) (n : Nat) (x : Grid) : (s.setGrid n x).mem = s.mem := rfl
@[simp] theorem bad_setGrid (s : State) (n : Nat) (x : Grid) : (s.setGrid n x).bad = s.bad := rfl
@[simp] theorem cur_setGrid (s : State) (n : Nat) (x : Grid) : (s.setGrid n x).cur = s.cur := rfl
@[simp] theorem groups_setGrid (s : State) (n : Nat) (x : Grid) : (s.setGrid n x).groups = s.groups := rfl
@[simp] theorem teams_setGrid (s : State) (n : Nat) (x : Grid) : (s.setGrid n x).teams = s.teams := rfl
@[simp] theorem ctxs_setGrid (s : State) (n : Nat) (x : Grid) : (s.setGrid n x).ctxs = s.ctxs := rfl
@[simp] theorem queues_setGrid (s : State) (n : Nat) (x : Grid) : (s.setGrid n x).queues = s.queues := rfl
@[simp] theorem slots_setGrid (s : State) (n : Nat) (x : Grid) : (s.setGrid n x).slots = s.slots := rfl
@[simp] theorem counters_setGrid (s : State) (n : Nat) (x : Grid) : (s.setGrid n x).counters = s.counters := rfl
@[simp] theorem decs_setGrid (s : State) (n : Nat) (x : Grid) : (s.setGrid n x).decs = s.decs := rfl
@[simp] theorem barriers_setGrid (s : State) (n : Nat) (x : Grid) : (s.setGrid n x).barriers = s.barriers := rfl
@[simp] theorem cores_setGrid (s : State) (n : Nat) (x : Grid) : (s.setGrid n x).cores = s.cores := rfl
@[simp] theorem tlb_setGrid (s : State) (n : Nat) (x : Grid) : (s.setGrid n x).tlb = s.tlb := rfl
@[simp] theorem coh_setGrid (s : State) (n : Nat) (x : Grid) : (s.setGrid n x).coh = s.coh := rfl
@[simp] theorem sco_setGrid (s : State) (n : Nat) (x : Grid) : (s.setGrid n x).sco = s.sco := rfl
@[simp] theorem monitors_setGrid (s : State) (n : Nat) (x : Grid) : (s.setGrid n x).monitors = s.monitors := rfl
@[simp] theorem anchors_setGrid (s : State) (n : Nat) (x : Grid) : (s.setGrid n x).anchors = s.anchors := rfl
@[simp] theorem holds_setGrid (s : State) (n : Nat) (x : Grid) : (s.setGrid n x).holds = s.holds := rfl
@[simp] theorem lockWaits_setGrid (s : State) (n : Nat) (x : Grid) : (s.setGrid n x).lockWaits = s.lockWaits := rfl
@[simp] theorem tasks_setGrid (s : State) (n : Nat) (x : Grid) : (s.setGrid n x).tasks = s.tasks := rfl
@[simp] theorem bce_setGrid (s : State) (n : Nat) (x : Grid) : (s.setGrid n x).bce = s.bce := rfl
@[simp] theorem evq_setGrid (s : State) (n : Nat) (x : Grid) : (s.setGrid n x).evq = s.evq := rfl
@[simp] theorem fbuf_setGrid (s : State) (n : Nat) (x : Grid) : (s.setGrid n x).fbuf = s.fbuf := rfl
@[simp] theorem intrs_setGrid (s : State) (n : Nat) (x : Grid) : (s.setGrid n x).intrs = s.intrs := rfl
@[simp] theorem peers_setGrid (s : State) (n : Nat) (x : Grid) : (s.setGrid n x).peers = s.peers := rfl
@[simp] theorem remReqs_setGrid (s : State) (n : Nat) (x : Grid) : (s.setGrid n x).remReqs = s.remReqs := rfl
@[simp] theorem collGroups_setGrid (s : State) (n : Nat) (x : Grid) : (s.setGrid n x).collGroups = s.collGroups := rfl
@[simp] theorem hops_setGrid (s : State) (n : Nat) (x : Grid) : (s.setGrid n x).hops = s.hops := rfl
@[simp] theorem fresh_setGrid (s : State) (n : Nat) (x : Grid) : (s.setGrid n x).fresh = s.fresh := rfl
@[simp] theorem sched_setGrid (s : State) (n : Nat) (x : Grid) : (s.setGrid n x).sched = s.sched := rfl
@[simp] theorem ro_setGrid (s : State) (n : Nat) (x : Grid) : (s.setGrid n x).ro = s.ro := rfl
@[simp] theorem access_setGrid (s : State) (n : Nat) (x : Grid) : (s.setGrid n x).access = s.access := rfl
@[simp] theorem cows_setGrid (s : State) (n : Nat) (x : Grid) : (s.setGrid n x).cows = s.cows := rfl
@[simp] theorem keptFrames_setGrid (s : State) (n : Nat) (x : Grid) : (s.setGrid n x).keptFrames = s.keptFrames := rfl
@[simp] theorem viewFrames_setGrid (s : State) (n : Nat) (x : Grid) : (s.setGrid n x).viewFrames = s.viewFrames := rfl
@[simp] theorem wounds_setGrid (s : State) (n : Nat) (x : Grid) : (s.setGrid n x).wounds = s.wounds := rfl
@[simp] theorem revoked_setGrid (s : State) (n : Nat) (x : Grid) : (s.setGrid n x).revoked = s.revoked := rfl
@[simp] theorem stopped_setGrid (s : State) (n : Nat) (x : Grid) : (s.setGrid n x).stopped = s.stopped := rfl
@[simp] theorem temps_setGrid (s : State) (n : Nat) (x : Grid) : (s.setGrid n x).temps = s.temps := rfl
@[simp] theorem controls_setGrid (s : State) (n : Nat) (x : Grid) : (s.setGrid n x).controls = s.controls := rfl
@[simp] theorem sessions_setGrid (s : State) (n : Nat) (x : Grid) : (s.setGrid n x).sessions = s.sessions := rfl
@[simp] theorem opKeys_setGrid (s : State) (n : Nat) (x : Grid) : (s.setGrid n x).opKeys = s.opKeys := rfl

/-! ### modGrid -/

@[simp] theorem tick_modGrid (s : State) (n : Nat) (f : Grid → Grid) : (s.modGrid n f).tick = s.tick := rfl
@[simp] theorem mem_modGrid (s : State) (n : Nat) (f : Grid → Grid) : (s.modGrid n f).mem = s.mem := rfl
@[simp] theorem bad_modGrid (s : State) (n : Nat) (f : Grid → Grid) : (s.modGrid n f).bad = s.bad := rfl
@[simp] theorem cur_modGrid (s : State) (n : Nat) (f : Grid → Grid) : (s.modGrid n f).cur = s.cur := rfl
@[simp] theorem groups_modGrid (s : State) (n : Nat) (f : Grid → Grid) : (s.modGrid n f).groups = s.groups := rfl
@[simp] theorem teams_modGrid (s : State) (n : Nat) (f : Grid → Grid) : (s.modGrid n f).teams = s.teams := rfl
@[simp] theorem ctxs_modGrid (s : State) (n : Nat) (f : Grid → Grid) : (s.modGrid n f).ctxs = s.ctxs := rfl
@[simp] theorem queues_modGrid (s : State) (n : Nat) (f : Grid → Grid) : (s.modGrid n f).queues = s.queues := rfl
@[simp] theorem slots_modGrid (s : State) (n : Nat) (f : Grid → Grid) : (s.modGrid n f).slots = s.slots := rfl
@[simp] theorem counters_modGrid (s : State) (n : Nat) (f : Grid → Grid) : (s.modGrid n f).counters = s.counters := rfl
@[simp] theorem decs_modGrid (s : State) (n : Nat) (f : Grid → Grid) : (s.modGrid n f).decs = s.decs := rfl
@[simp] theorem barriers_modGrid (s : State) (n : Nat) (f : Grid → Grid) : (s.modGrid n f).barriers = s.barriers := rfl
@[simp] theorem cores_modGrid (s : State) (n : Nat) (f : Grid → Grid) : (s.modGrid n f).cores = s.cores := rfl
@[simp] theorem tlb_modGrid (s : State) (n : Nat) (f : Grid → Grid) : (s.modGrid n f).tlb = s.tlb := rfl
@[simp] theorem coh_modGrid (s : State) (n : Nat) (f : Grid → Grid) : (s.modGrid n f).coh = s.coh := rfl
@[simp] theorem sco_modGrid (s : State) (n : Nat) (f : Grid → Grid) : (s.modGrid n f).sco = s.sco := rfl
@[simp] theorem monitors_modGrid (s : State) (n : Nat) (f : Grid → Grid) : (s.modGrid n f).monitors = s.monitors := rfl
@[simp] theorem anchors_modGrid (s : State) (n : Nat) (f : Grid → Grid) : (s.modGrid n f).anchors = s.anchors := rfl
@[simp] theorem holds_modGrid (s : State) (n : Nat) (f : Grid → Grid) : (s.modGrid n f).holds = s.holds := rfl
@[simp] theorem lockWaits_modGrid (s : State) (n : Nat) (f : Grid → Grid) : (s.modGrid n f).lockWaits = s.lockWaits := rfl
@[simp] theorem tasks_modGrid (s : State) (n : Nat) (f : Grid → Grid) : (s.modGrid n f).tasks = s.tasks := rfl
@[simp] theorem bce_modGrid (s : State) (n : Nat) (f : Grid → Grid) : (s.modGrid n f).bce = s.bce := rfl
@[simp] theorem evq_modGrid (s : State) (n : Nat) (f : Grid → Grid) : (s.modGrid n f).evq = s.evq := rfl
@[simp] theorem fbuf_modGrid (s : State) (n : Nat) (f : Grid → Grid) : (s.modGrid n f).fbuf = s.fbuf := rfl
@[simp] theorem intrs_modGrid (s : State) (n : Nat) (f : Grid → Grid) : (s.modGrid n f).intrs = s.intrs := rfl
@[simp] theorem peers_modGrid (s : State) (n : Nat) (f : Grid → Grid) : (s.modGrid n f).peers = s.peers := rfl
@[simp] theorem remReqs_modGrid (s : State) (n : Nat) (f : Grid → Grid) : (s.modGrid n f).remReqs = s.remReqs := rfl
@[simp] theorem collGroups_modGrid (s : State) (n : Nat) (f : Grid → Grid) : (s.modGrid n f).collGroups = s.collGroups := rfl
@[simp] theorem hops_modGrid (s : State) (n : Nat) (f : Grid → Grid) : (s.modGrid n f).hops = s.hops := rfl
@[simp] theorem fresh_modGrid (s : State) (n : Nat) (f : Grid → Grid) : (s.modGrid n f).fresh = s.fresh := rfl
@[simp] theorem sched_modGrid (s : State) (n : Nat) (f : Grid → Grid) : (s.modGrid n f).sched = s.sched := rfl
@[simp] theorem ro_modGrid (s : State) (n : Nat) (f : Grid → Grid) : (s.modGrid n f).ro = s.ro := rfl
@[simp] theorem access_modGrid (s : State) (n : Nat) (f : Grid → Grid) : (s.modGrid n f).access = s.access := rfl
@[simp] theorem cows_modGrid (s : State) (n : Nat) (f : Grid → Grid) : (s.modGrid n f).cows = s.cows := rfl
@[simp] theorem keptFrames_modGrid (s : State) (n : Nat) (f : Grid → Grid) : (s.modGrid n f).keptFrames = s.keptFrames := rfl
@[simp] theorem viewFrames_modGrid (s : State) (n : Nat) (f : Grid → Grid) : (s.modGrid n f).viewFrames = s.viewFrames := rfl
@[simp] theorem wounds_modGrid (s : State) (n : Nat) (f : Grid → Grid) : (s.modGrid n f).wounds = s.wounds := rfl
@[simp] theorem revoked_modGrid (s : State) (n : Nat) (f : Grid → Grid) : (s.modGrid n f).revoked = s.revoked := rfl
@[simp] theorem stopped_modGrid (s : State) (n : Nat) (f : Grid → Grid) : (s.modGrid n f).stopped = s.stopped := rfl
@[simp] theorem temps_modGrid (s : State) (n : Nat) (f : Grid → Grid) : (s.modGrid n f).temps = s.temps := rfl
@[simp] theorem controls_modGrid (s : State) (n : Nat) (f : Grid → Grid) : (s.modGrid n f).controls = s.controls := rfl
@[simp] theorem sessions_modGrid (s : State) (n : Nat) (f : Grid → Grid) : (s.modGrid n f).sessions = s.sessions := rfl
@[simp] theorem opKeys_modGrid (s : State) (n : Nat) (f : Grid → Grid) : (s.modGrid n f).opKeys = s.opKeys := rfl

/-! ### setCtx -/

@[simp] theorem tick_setCtx (s : State) (n : Nat) (x : Ctx) : (s.setCtx n x).tick = s.tick := rfl
@[simp] theorem mem_setCtx (s : State) (n : Nat) (x : Ctx) : (s.setCtx n x).mem = s.mem := rfl
@[simp] theorem bad_setCtx (s : State) (n : Nat) (x : Ctx) : (s.setCtx n x).bad = s.bad := rfl
@[simp] theorem cur_setCtx (s : State) (n : Nat) (x : Ctx) : (s.setCtx n x).cur = s.cur := rfl
@[simp] theorem groups_setCtx (s : State) (n : Nat) (x : Ctx) : (s.setCtx n x).groups = s.groups := rfl
@[simp] theorem teams_setCtx (s : State) (n : Nat) (x : Ctx) : (s.setCtx n x).teams = s.teams := rfl
@[simp] theorem grids_setCtx (s : State) (n : Nat) (x : Ctx) : (s.setCtx n x).grids = s.grids := rfl
@[simp] theorem queues_setCtx (s : State) (n : Nat) (x : Ctx) : (s.setCtx n x).queues = s.queues := rfl
@[simp] theorem slots_setCtx (s : State) (n : Nat) (x : Ctx) : (s.setCtx n x).slots = s.slots := rfl
@[simp] theorem counters_setCtx (s : State) (n : Nat) (x : Ctx) : (s.setCtx n x).counters = s.counters := rfl
@[simp] theorem decs_setCtx (s : State) (n : Nat) (x : Ctx) : (s.setCtx n x).decs = s.decs := rfl
@[simp] theorem barriers_setCtx (s : State) (n : Nat) (x : Ctx) : (s.setCtx n x).barriers = s.barriers := rfl
@[simp] theorem cores_setCtx (s : State) (n : Nat) (x : Ctx) : (s.setCtx n x).cores = s.cores := rfl
@[simp] theorem tlb_setCtx (s : State) (n : Nat) (x : Ctx) : (s.setCtx n x).tlb = s.tlb := rfl
@[simp] theorem coh_setCtx (s : State) (n : Nat) (x : Ctx) : (s.setCtx n x).coh = s.coh := rfl
@[simp] theorem sco_setCtx (s : State) (n : Nat) (x : Ctx) : (s.setCtx n x).sco = s.sco := rfl
@[simp] theorem monitors_setCtx (s : State) (n : Nat) (x : Ctx) : (s.setCtx n x).monitors = s.monitors := rfl
@[simp] theorem anchors_setCtx (s : State) (n : Nat) (x : Ctx) : (s.setCtx n x).anchors = s.anchors := rfl
@[simp] theorem holds_setCtx (s : State) (n : Nat) (x : Ctx) : (s.setCtx n x).holds = s.holds := rfl
@[simp] theorem lockWaits_setCtx (s : State) (n : Nat) (x : Ctx) : (s.setCtx n x).lockWaits = s.lockWaits := rfl
@[simp] theorem tasks_setCtx (s : State) (n : Nat) (x : Ctx) : (s.setCtx n x).tasks = s.tasks := rfl
@[simp] theorem bce_setCtx (s : State) (n : Nat) (x : Ctx) : (s.setCtx n x).bce = s.bce := rfl
@[simp] theorem evq_setCtx (s : State) (n : Nat) (x : Ctx) : (s.setCtx n x).evq = s.evq := rfl
@[simp] theorem fbuf_setCtx (s : State) (n : Nat) (x : Ctx) : (s.setCtx n x).fbuf = s.fbuf := rfl
@[simp] theorem intrs_setCtx (s : State) (n : Nat) (x : Ctx) : (s.setCtx n x).intrs = s.intrs := rfl
@[simp] theorem peers_setCtx (s : State) (n : Nat) (x : Ctx) : (s.setCtx n x).peers = s.peers := rfl
@[simp] theorem remReqs_setCtx (s : State) (n : Nat) (x : Ctx) : (s.setCtx n x).remReqs = s.remReqs := rfl
@[simp] theorem collGroups_setCtx (s : State) (n : Nat) (x : Ctx) : (s.setCtx n x).collGroups = s.collGroups := rfl
@[simp] theorem hops_setCtx (s : State) (n : Nat) (x : Ctx) : (s.setCtx n x).hops = s.hops := rfl
@[simp] theorem fresh_setCtx (s : State) (n : Nat) (x : Ctx) : (s.setCtx n x).fresh = s.fresh := rfl
@[simp] theorem sched_setCtx (s : State) (n : Nat) (x : Ctx) : (s.setCtx n x).sched = s.sched := rfl
@[simp] theorem ro_setCtx (s : State) (n : Nat) (x : Ctx) : (s.setCtx n x).ro = s.ro := rfl
@[simp] theorem access_setCtx (s : State) (n : Nat) (x : Ctx) : (s.setCtx n x).access = s.access := rfl
@[simp] theorem cows_setCtx (s : State) (n : Nat) (x : Ctx) : (s.setCtx n x).cows = s.cows := rfl
@[simp] theorem keptFrames_setCtx (s : State) (n : Nat) (x : Ctx) : (s.setCtx n x).keptFrames = s.keptFrames := rfl
@[simp] theorem viewFrames_setCtx (s : State) (n : Nat) (x : Ctx) : (s.setCtx n x).viewFrames = s.viewFrames := rfl
@[simp] theorem wounds_setCtx (s : State) (n : Nat) (x : Ctx) : (s.setCtx n x).wounds = s.wounds := rfl
@[simp] theorem revoked_setCtx (s : State) (n : Nat) (x : Ctx) : (s.setCtx n x).revoked = s.revoked := rfl
@[simp] theorem stopped_setCtx (s : State) (n : Nat) (x : Ctx) : (s.setCtx n x).stopped = s.stopped := rfl
@[simp] theorem temps_setCtx (s : State) (n : Nat) (x : Ctx) : (s.setCtx n x).temps = s.temps := rfl
@[simp] theorem controls_setCtx (s : State) (n : Nat) (x : Ctx) : (s.setCtx n x).controls = s.controls := rfl
@[simp] theorem sessions_setCtx (s : State) (n : Nat) (x : Ctx) : (s.setCtx n x).sessions = s.sessions := rfl
@[simp] theorem opKeys_setCtx (s : State) (n : Nat) (x : Ctx) : (s.setCtx n x).opKeys = s.opKeys := rfl

/-! ### modCtx -/

@[simp] theorem tick_modCtx (s : State) (n : Nat) (f : Ctx → Ctx) : (s.modCtx n f).tick = s.tick := rfl
@[simp] theorem mem_modCtx (s : State) (n : Nat) (f : Ctx → Ctx) : (s.modCtx n f).mem = s.mem := rfl
@[simp] theorem bad_modCtx (s : State) (n : Nat) (f : Ctx → Ctx) : (s.modCtx n f).bad = s.bad := rfl
@[simp] theorem cur_modCtx (s : State) (n : Nat) (f : Ctx → Ctx) : (s.modCtx n f).cur = s.cur := rfl
@[simp] theorem groups_modCtx (s : State) (n : Nat) (f : Ctx → Ctx) : (s.modCtx n f).groups = s.groups := rfl
@[simp] theorem teams_modCtx (s : State) (n : Nat) (f : Ctx → Ctx) : (s.modCtx n f).teams = s.teams := rfl
@[simp] theorem grids_modCtx (s : State) (n : Nat) (f : Ctx → Ctx) : (s.modCtx n f).grids = s.grids := rfl
@[simp] theorem queues_modCtx (s : State) (n : Nat) (f : Ctx → Ctx) : (s.modCtx n f).queues = s.queues := rfl
@[simp] theorem slots_modCtx (s : State) (n : Nat) (f : Ctx → Ctx) : (s.modCtx n f).slots = s.slots := rfl
@[simp] theorem counters_modCtx (s : State) (n : Nat) (f : Ctx → Ctx) : (s.modCtx n f).counters = s.counters := rfl
@[simp] theorem decs_modCtx (s : State) (n : Nat) (f : Ctx → Ctx) : (s.modCtx n f).decs = s.decs := rfl
@[simp] theorem barriers_modCtx (s : State) (n : Nat) (f : Ctx → Ctx) : (s.modCtx n f).barriers = s.barriers := rfl
@[simp] theorem cores_modCtx (s : State) (n : Nat) (f : Ctx → Ctx) : (s.modCtx n f).cores = s.cores := rfl
@[simp] theorem tlb_modCtx (s : State) (n : Nat) (f : Ctx → Ctx) : (s.modCtx n f).tlb = s.tlb := rfl
@[simp] theorem coh_modCtx (s : State) (n : Nat) (f : Ctx → Ctx) : (s.modCtx n f).coh = s.coh := rfl
@[simp] theorem sco_modCtx (s : State) (n : Nat) (f : Ctx → Ctx) : (s.modCtx n f).sco = s.sco := rfl
@[simp] theorem monitors_modCtx (s : State) (n : Nat) (f : Ctx → Ctx) : (s.modCtx n f).monitors = s.monitors := rfl
@[simp] theorem anchors_modCtx (s : State) (n : Nat) (f : Ctx → Ctx) : (s.modCtx n f).anchors = s.anchors := rfl
@[simp] theorem holds_modCtx (s : State) (n : Nat) (f : Ctx → Ctx) : (s.modCtx n f).holds = s.holds := rfl
@[simp] theorem lockWaits_modCtx (s : State) (n : Nat) (f : Ctx → Ctx) : (s.modCtx n f).lockWaits = s.lockWaits := rfl
@[simp] theorem tasks_modCtx (s : State) (n : Nat) (f : Ctx → Ctx) : (s.modCtx n f).tasks = s.tasks := rfl
@[simp] theorem bce_modCtx (s : State) (n : Nat) (f : Ctx → Ctx) : (s.modCtx n f).bce = s.bce := rfl
@[simp] theorem evq_modCtx (s : State) (n : Nat) (f : Ctx → Ctx) : (s.modCtx n f).evq = s.evq := rfl
@[simp] theorem fbuf_modCtx (s : State) (n : Nat) (f : Ctx → Ctx) : (s.modCtx n f).fbuf = s.fbuf := rfl
@[simp] theorem intrs_modCtx (s : State) (n : Nat) (f : Ctx → Ctx) : (s.modCtx n f).intrs = s.intrs := rfl
@[simp] theorem peers_modCtx (s : State) (n : Nat) (f : Ctx → Ctx) : (s.modCtx n f).peers = s.peers := rfl
@[simp] theorem remReqs_modCtx (s : State) (n : Nat) (f : Ctx → Ctx) : (s.modCtx n f).remReqs = s.remReqs := rfl
@[simp] theorem collGroups_modCtx (s : State) (n : Nat) (f : Ctx → Ctx) : (s.modCtx n f).collGroups = s.collGroups := rfl
@[simp] theorem hops_modCtx (s : State) (n : Nat) (f : Ctx → Ctx) : (s.modCtx n f).hops = s.hops := rfl
@[simp] theorem fresh_modCtx (s : State) (n : Nat) (f : Ctx → Ctx) : (s.modCtx n f).fresh = s.fresh := rfl
@[simp] theorem sched_modCtx (s : State) (n : Nat) (f : Ctx → Ctx) : (s.modCtx n f).sched = s.sched := rfl
@[simp] theorem ro_modCtx (s : State) (n : Nat) (f : Ctx → Ctx) : (s.modCtx n f).ro = s.ro := rfl
@[simp] theorem access_modCtx (s : State) (n : Nat) (f : Ctx → Ctx) : (s.modCtx n f).access = s.access := rfl
@[simp] theorem cows_modCtx (s : State) (n : Nat) (f : Ctx → Ctx) : (s.modCtx n f).cows = s.cows := rfl
@[simp] theorem keptFrames_modCtx (s : State) (n : Nat) (f : Ctx → Ctx) : (s.modCtx n f).keptFrames = s.keptFrames := rfl
@[simp] theorem viewFrames_modCtx (s : State) (n : Nat) (f : Ctx → Ctx) : (s.modCtx n f).viewFrames = s.viewFrames := rfl
@[simp] theorem wounds_modCtx (s : State) (n : Nat) (f : Ctx → Ctx) : (s.modCtx n f).wounds = s.wounds := rfl
@[simp] theorem revoked_modCtx (s : State) (n : Nat) (f : Ctx → Ctx) : (s.modCtx n f).revoked = s.revoked := rfl
@[simp] theorem stopped_modCtx (s : State) (n : Nat) (f : Ctx → Ctx) : (s.modCtx n f).stopped = s.stopped := rfl
@[simp] theorem temps_modCtx (s : State) (n : Nat) (f : Ctx → Ctx) : (s.modCtx n f).temps = s.temps := rfl
@[simp] theorem controls_modCtx (s : State) (n : Nat) (f : Ctx → Ctx) : (s.modCtx n f).controls = s.controls := rfl
@[simp] theorem sessions_modCtx (s : State) (n : Nat) (f : Ctx → Ctx) : (s.modCtx n f).sessions = s.sessions := rfl
@[simp] theorem opKeys_modCtx (s : State) (n : Nat) (f : Ctx → Ctx) : (s.modCtx n f).opKeys = s.opKeys := rfl

/-! ### setQueue -/

@[simp] theorem tick_setQueue (s : State) (n : Nat) (x : Queue) : (s.setQueue n x).tick = s.tick := rfl
@[simp] theorem mem_setQueue (s : State) (n : Nat) (x : Queue) : (s.setQueue n x).mem = s.mem := rfl
@[simp] theorem bad_setQueue (s : State) (n : Nat) (x : Queue) : (s.setQueue n x).bad = s.bad := rfl
@[simp] theorem cur_setQueue (s : State) (n : Nat) (x : Queue) : (s.setQueue n x).cur = s.cur := rfl
@[simp] theorem groups_setQueue (s : State) (n : Nat) (x : Queue) : (s.setQueue n x).groups = s.groups := rfl
@[simp] theorem teams_setQueue (s : State) (n : Nat) (x : Queue) : (s.setQueue n x).teams = s.teams := rfl
@[simp] theorem grids_setQueue (s : State) (n : Nat) (x : Queue) : (s.setQueue n x).grids = s.grids := rfl
@[simp] theorem ctxs_setQueue (s : State) (n : Nat) (x : Queue) : (s.setQueue n x).ctxs = s.ctxs := rfl
@[simp] theorem slots_setQueue (s : State) (n : Nat) (x : Queue) : (s.setQueue n x).slots = s.slots := rfl
@[simp] theorem counters_setQueue (s : State) (n : Nat) (x : Queue) : (s.setQueue n x).counters = s.counters := rfl
@[simp] theorem decs_setQueue (s : State) (n : Nat) (x : Queue) : (s.setQueue n x).decs = s.decs := rfl
@[simp] theorem barriers_setQueue (s : State) (n : Nat) (x : Queue) : (s.setQueue n x).barriers = s.barriers := rfl
@[simp] theorem cores_setQueue (s : State) (n : Nat) (x : Queue) : (s.setQueue n x).cores = s.cores := rfl
@[simp] theorem tlb_setQueue (s : State) (n : Nat) (x : Queue) : (s.setQueue n x).tlb = s.tlb := rfl
@[simp] theorem coh_setQueue (s : State) (n : Nat) (x : Queue) : (s.setQueue n x).coh = s.coh := rfl
@[simp] theorem sco_setQueue (s : State) (n : Nat) (x : Queue) : (s.setQueue n x).sco = s.sco := rfl
@[simp] theorem monitors_setQueue (s : State) (n : Nat) (x : Queue) : (s.setQueue n x).monitors = s.monitors := rfl
@[simp] theorem anchors_setQueue (s : State) (n : Nat) (x : Queue) : (s.setQueue n x).anchors = s.anchors := rfl
@[simp] theorem holds_setQueue (s : State) (n : Nat) (x : Queue) : (s.setQueue n x).holds = s.holds := rfl
@[simp] theorem lockWaits_setQueue (s : State) (n : Nat) (x : Queue) : (s.setQueue n x).lockWaits = s.lockWaits := rfl
@[simp] theorem tasks_setQueue (s : State) (n : Nat) (x : Queue) : (s.setQueue n x).tasks = s.tasks := rfl
@[simp] theorem bce_setQueue (s : State) (n : Nat) (x : Queue) : (s.setQueue n x).bce = s.bce := rfl
@[simp] theorem evq_setQueue (s : State) (n : Nat) (x : Queue) : (s.setQueue n x).evq = s.evq := rfl
@[simp] theorem fbuf_setQueue (s : State) (n : Nat) (x : Queue) : (s.setQueue n x).fbuf = s.fbuf := rfl
@[simp] theorem intrs_setQueue (s : State) (n : Nat) (x : Queue) : (s.setQueue n x).intrs = s.intrs := rfl
@[simp] theorem peers_setQueue (s : State) (n : Nat) (x : Queue) : (s.setQueue n x).peers = s.peers := rfl
@[simp] theorem remReqs_setQueue (s : State) (n : Nat) (x : Queue) : (s.setQueue n x).remReqs = s.remReqs := rfl
@[simp] theorem collGroups_setQueue (s : State) (n : Nat) (x : Queue) : (s.setQueue n x).collGroups = s.collGroups := rfl
@[simp] theorem hops_setQueue (s : State) (n : Nat) (x : Queue) : (s.setQueue n x).hops = s.hops := rfl
@[simp] theorem fresh_setQueue (s : State) (n : Nat) (x : Queue) : (s.setQueue n x).fresh = s.fresh := rfl
@[simp] theorem sched_setQueue (s : State) (n : Nat) (x : Queue) : (s.setQueue n x).sched = s.sched := rfl
@[simp] theorem ro_setQueue (s : State) (n : Nat) (x : Queue) : (s.setQueue n x).ro = s.ro := rfl
@[simp] theorem access_setQueue (s : State) (n : Nat) (x : Queue) : (s.setQueue n x).access = s.access := rfl
@[simp] theorem cows_setQueue (s : State) (n : Nat) (x : Queue) : (s.setQueue n x).cows = s.cows := rfl
@[simp] theorem keptFrames_setQueue (s : State) (n : Nat) (x : Queue) : (s.setQueue n x).keptFrames = s.keptFrames := rfl
@[simp] theorem viewFrames_setQueue (s : State) (n : Nat) (x : Queue) : (s.setQueue n x).viewFrames = s.viewFrames := rfl
@[simp] theorem wounds_setQueue (s : State) (n : Nat) (x : Queue) : (s.setQueue n x).wounds = s.wounds := rfl
@[simp] theorem revoked_setQueue (s : State) (n : Nat) (x : Queue) : (s.setQueue n x).revoked = s.revoked := rfl
@[simp] theorem stopped_setQueue (s : State) (n : Nat) (x : Queue) : (s.setQueue n x).stopped = s.stopped := rfl
@[simp] theorem temps_setQueue (s : State) (n : Nat) (x : Queue) : (s.setQueue n x).temps = s.temps := rfl
@[simp] theorem controls_setQueue (s : State) (n : Nat) (x : Queue) : (s.setQueue n x).controls = s.controls := rfl
@[simp] theorem sessions_setQueue (s : State) (n : Nat) (x : Queue) : (s.setQueue n x).sessions = s.sessions := rfl
@[simp] theorem opKeys_setQueue (s : State) (n : Nat) (x : Queue) : (s.setQueue n x).opKeys = s.opKeys := rfl

/-! ### modQueue -/

@[simp] theorem tick_modQueue (s : State) (n : Nat) (f : Queue → Queue) : (s.modQueue n f).tick = s.tick := rfl
@[simp] theorem mem_modQueue (s : State) (n : Nat) (f : Queue → Queue) : (s.modQueue n f).mem = s.mem := rfl
@[simp] theorem bad_modQueue (s : State) (n : Nat) (f : Queue → Queue) : (s.modQueue n f).bad = s.bad := rfl
@[simp] theorem cur_modQueue (s : State) (n : Nat) (f : Queue → Queue) : (s.modQueue n f).cur = s.cur := rfl
@[simp] theorem groups_modQueue (s : State) (n : Nat) (f : Queue → Queue) : (s.modQueue n f).groups = s.groups := rfl
@[simp] theorem teams_modQueue (s : State) (n : Nat) (f : Queue → Queue) : (s.modQueue n f).teams = s.teams := rfl
@[simp] theorem grids_modQueue (s : State) (n : Nat) (f : Queue → Queue) : (s.modQueue n f).grids = s.grids := rfl
@[simp] theorem ctxs_modQueue (s : State) (n : Nat) (f : Queue → Queue) : (s.modQueue n f).ctxs = s.ctxs := rfl
@[simp] theorem slots_modQueue (s : State) (n : Nat) (f : Queue → Queue) : (s.modQueue n f).slots = s.slots := rfl
@[simp] theorem counters_modQueue (s : State) (n : Nat) (f : Queue → Queue) : (s.modQueue n f).counters = s.counters := rfl
@[simp] theorem decs_modQueue (s : State) (n : Nat) (f : Queue → Queue) : (s.modQueue n f).decs = s.decs := rfl
@[simp] theorem barriers_modQueue (s : State) (n : Nat) (f : Queue → Queue) : (s.modQueue n f).barriers = s.barriers := rfl
@[simp] theorem cores_modQueue (s : State) (n : Nat) (f : Queue → Queue) : (s.modQueue n f).cores = s.cores := rfl
@[simp] theorem tlb_modQueue (s : State) (n : Nat) (f : Queue → Queue) : (s.modQueue n f).tlb = s.tlb := rfl
@[simp] theorem coh_modQueue (s : State) (n : Nat) (f : Queue → Queue) : (s.modQueue n f).coh = s.coh := rfl
@[simp] theorem sco_modQueue (s : State) (n : Nat) (f : Queue → Queue) : (s.modQueue n f).sco = s.sco := rfl
@[simp] theorem monitors_modQueue (s : State) (n : Nat) (f : Queue → Queue) : (s.modQueue n f).monitors = s.monitors := rfl
@[simp] theorem anchors_modQueue (s : State) (n : Nat) (f : Queue → Queue) : (s.modQueue n f).anchors = s.anchors := rfl
@[simp] theorem holds_modQueue (s : State) (n : Nat) (f : Queue → Queue) : (s.modQueue n f).holds = s.holds := rfl
@[simp] theorem lockWaits_modQueue (s : State) (n : Nat) (f : Queue → Queue) : (s.modQueue n f).lockWaits = s.lockWaits := rfl
@[simp] theorem tasks_modQueue (s : State) (n : Nat) (f : Queue → Queue) : (s.modQueue n f).tasks = s.tasks := rfl
@[simp] theorem bce_modQueue (s : State) (n : Nat) (f : Queue → Queue) : (s.modQueue n f).bce = s.bce := rfl
@[simp] theorem evq_modQueue (s : State) (n : Nat) (f : Queue → Queue) : (s.modQueue n f).evq = s.evq := rfl
@[simp] theorem fbuf_modQueue (s : State) (n : Nat) (f : Queue → Queue) : (s.modQueue n f).fbuf = s.fbuf := rfl
@[simp] theorem intrs_modQueue (s : State) (n : Nat) (f : Queue → Queue) : (s.modQueue n f).intrs = s.intrs := rfl
@[simp] theorem peers_modQueue (s : State) (n : Nat) (f : Queue → Queue) : (s.modQueue n f).peers = s.peers := rfl
@[simp] theorem remReqs_modQueue (s : State) (n : Nat) (f : Queue → Queue) : (s.modQueue n f).remReqs = s.remReqs := rfl
@[simp] theorem collGroups_modQueue (s : State) (n : Nat) (f : Queue → Queue) : (s.modQueue n f).collGroups = s.collGroups := rfl
@[simp] theorem hops_modQueue (s : State) (n : Nat) (f : Queue → Queue) : (s.modQueue n f).hops = s.hops := rfl
@[simp] theorem fresh_modQueue (s : State) (n : Nat) (f : Queue → Queue) : (s.modQueue n f).fresh = s.fresh := rfl
@[simp] theorem sched_modQueue (s : State) (n : Nat) (f : Queue → Queue) : (s.modQueue n f).sched = s.sched := rfl
@[simp] theorem ro_modQueue (s : State) (n : Nat) (f : Queue → Queue) : (s.modQueue n f).ro = s.ro := rfl
@[simp] theorem access_modQueue (s : State) (n : Nat) (f : Queue → Queue) : (s.modQueue n f).access = s.access := rfl
@[simp] theorem cows_modQueue (s : State) (n : Nat) (f : Queue → Queue) : (s.modQueue n f).cows = s.cows := rfl
@[simp] theorem keptFrames_modQueue (s : State) (n : Nat) (f : Queue → Queue) : (s.modQueue n f).keptFrames = s.keptFrames := rfl
@[simp] theorem viewFrames_modQueue (s : State) (n : Nat) (f : Queue → Queue) : (s.modQueue n f).viewFrames = s.viewFrames := rfl
@[simp] theorem wounds_modQueue (s : State) (n : Nat) (f : Queue → Queue) : (s.modQueue n f).wounds = s.wounds := rfl
@[simp] theorem revoked_modQueue (s : State) (n : Nat) (f : Queue → Queue) : (s.modQueue n f).revoked = s.revoked := rfl
@[simp] theorem stopped_modQueue (s : State) (n : Nat) (f : Queue → Queue) : (s.modQueue n f).stopped = s.stopped := rfl
@[simp] theorem temps_modQueue (s : State) (n : Nat) (f : Queue → Queue) : (s.modQueue n f).temps = s.temps := rfl
@[simp] theorem controls_modQueue (s : State) (n : Nat) (f : Queue → Queue) : (s.modQueue n f).controls = s.controls := rfl
@[simp] theorem sessions_modQueue (s : State) (n : Nat) (f : Queue → Queue) : (s.modQueue n f).sessions = s.sessions := rfl
@[simp] theorem opKeys_modQueue (s : State) (n : Nat) (f : Queue → Queue) : (s.modQueue n f).opKeys = s.opKeys := rfl

/-! ### setCore -/

@[simp] theorem tick_setCore (s : State) (n : Nat) (x : Core) : (s.setCore n x).tick = s.tick := rfl
@[simp] theorem mem_setCore (s : State) (n : Nat) (x : Core) : (s.setCore n x).mem = s.mem := rfl
@[simp] theorem bad_setCore (s : State) (n : Nat) (x : Core) : (s.setCore n x).bad = s.bad := rfl
@[simp] theorem cur_setCore (s : State) (n : Nat) (x : Core) : (s.setCore n x).cur = s.cur := rfl
@[simp] theorem groups_setCore (s : State) (n : Nat) (x : Core) : (s.setCore n x).groups = s.groups := rfl
@[simp] theorem teams_setCore (s : State) (n : Nat) (x : Core) : (s.setCore n x).teams = s.teams := rfl
@[simp] theorem grids_setCore (s : State) (n : Nat) (x : Core) : (s.setCore n x).grids = s.grids := rfl
@[simp] theorem ctxs_setCore (s : State) (n : Nat) (x : Core) : (s.setCore n x).ctxs = s.ctxs := rfl
@[simp] theorem queues_setCore (s : State) (n : Nat) (x : Core) : (s.setCore n x).queues = s.queues := rfl
@[simp] theorem slots_setCore (s : State) (n : Nat) (x : Core) : (s.setCore n x).slots = s.slots := rfl
@[simp] theorem counters_setCore (s : State) (n : Nat) (x : Core) : (s.setCore n x).counters = s.counters := rfl
@[simp] theorem decs_setCore (s : State) (n : Nat) (x : Core) : (s.setCore n x).decs = s.decs := rfl
@[simp] theorem barriers_setCore (s : State) (n : Nat) (x : Core) : (s.setCore n x).barriers = s.barriers := rfl
@[simp] theorem tlb_setCore (s : State) (n : Nat) (x : Core) : (s.setCore n x).tlb = s.tlb := rfl
@[simp] theorem coh_setCore (s : State) (n : Nat) (x : Core) : (s.setCore n x).coh = s.coh := rfl
@[simp] theorem sco_setCore (s : State) (n : Nat) (x : Core) : (s.setCore n x).sco = s.sco := rfl
@[simp] theorem monitors_setCore (s : State) (n : Nat) (x : Core) : (s.setCore n x).monitors = s.monitors := rfl
@[simp] theorem anchors_setCore (s : State) (n : Nat) (x : Core) : (s.setCore n x).anchors = s.anchors := rfl
@[simp] theorem holds_setCore (s : State) (n : Nat) (x : Core) : (s.setCore n x).holds = s.holds := rfl
@[simp] theorem lockWaits_setCore (s : State) (n : Nat) (x : Core) : (s.setCore n x).lockWaits = s.lockWaits := rfl
@[simp] theorem tasks_setCore (s : State) (n : Nat) (x : Core) : (s.setCore n x).tasks = s.tasks := rfl
@[simp] theorem bce_setCore (s : State) (n : Nat) (x : Core) : (s.setCore n x).bce = s.bce := rfl
@[simp] theorem evq_setCore (s : State) (n : Nat) (x : Core) : (s.setCore n x).evq = s.evq := rfl
@[simp] theorem fbuf_setCore (s : State) (n : Nat) (x : Core) : (s.setCore n x).fbuf = s.fbuf := rfl
@[simp] theorem intrs_setCore (s : State) (n : Nat) (x : Core) : (s.setCore n x).intrs = s.intrs := rfl
@[simp] theorem peers_setCore (s : State) (n : Nat) (x : Core) : (s.setCore n x).peers = s.peers := rfl
@[simp] theorem remReqs_setCore (s : State) (n : Nat) (x : Core) : (s.setCore n x).remReqs = s.remReqs := rfl
@[simp] theorem collGroups_setCore (s : State) (n : Nat) (x : Core) : (s.setCore n x).collGroups = s.collGroups := rfl
@[simp] theorem hops_setCore (s : State) (n : Nat) (x : Core) : (s.setCore n x).hops = s.hops := rfl
@[simp] theorem fresh_setCore (s : State) (n : Nat) (x : Core) : (s.setCore n x).fresh = s.fresh := rfl
@[simp] theorem sched_setCore (s : State) (n : Nat) (x : Core) : (s.setCore n x).sched = s.sched := rfl
@[simp] theorem ro_setCore (s : State) (n : Nat) (x : Core) : (s.setCore n x).ro = s.ro := rfl
@[simp] theorem access_setCore (s : State) (n : Nat) (x : Core) : (s.setCore n x).access = s.access := rfl
@[simp] theorem cows_setCore (s : State) (n : Nat) (x : Core) : (s.setCore n x).cows = s.cows := rfl
@[simp] theorem keptFrames_setCore (s : State) (n : Nat) (x : Core) : (s.setCore n x).keptFrames = s.keptFrames := rfl
@[simp] theorem viewFrames_setCore (s : State) (n : Nat) (x : Core) : (s.setCore n x).viewFrames = s.viewFrames := rfl
@[simp] theorem wounds_setCore (s : State) (n : Nat) (x : Core) : (s.setCore n x).wounds = s.wounds := rfl
@[simp] theorem revoked_setCore (s : State) (n : Nat) (x : Core) : (s.setCore n x).revoked = s.revoked := rfl
@[simp] theorem stopped_setCore (s : State) (n : Nat) (x : Core) : (s.setCore n x).stopped = s.stopped := rfl
@[simp] theorem temps_setCore (s : State) (n : Nat) (x : Core) : (s.setCore n x).temps = s.temps := rfl
@[simp] theorem controls_setCore (s : State) (n : Nat) (x : Core) : (s.setCore n x).controls = s.controls := rfl
@[simp] theorem sessions_setCore (s : State) (n : Nat) (x : Core) : (s.setCore n x).sessions = s.sessions := rfl
@[simp] theorem opKeys_setCore (s : State) (n : Nat) (x : Core) : (s.setCore n x).opKeys = s.opKeys := rfl

/-! ### modCore -/

@[simp] theorem tick_modCore (s : State) (n : Nat) (f : Core → Core) : (s.modCore n f).tick = s.tick := rfl
@[simp] theorem mem_modCore (s : State) (n : Nat) (f : Core → Core) : (s.modCore n f).mem = s.mem := rfl
@[simp] theorem bad_modCore (s : State) (n : Nat) (f : Core → Core) : (s.modCore n f).bad = s.bad := rfl
@[simp] theorem cur_modCore (s : State) (n : Nat) (f : Core → Core) : (s.modCore n f).cur = s.cur := rfl
@[simp] theorem groups_modCore (s : State) (n : Nat) (f : Core → Core) : (s.modCore n f).groups = s.groups := rfl
@[simp] theorem teams_modCore (s : State) (n : Nat) (f : Core → Core) : (s.modCore n f).teams = s.teams := rfl
@[simp] theorem grids_modCore (s : State) (n : Nat) (f : Core → Core) : (s.modCore n f).grids = s.grids := rfl
@[simp] theorem ctxs_modCore (s : State) (n : Nat) (f : Core → Core) : (s.modCore n f).ctxs = s.ctxs := rfl
@[simp] theorem queues_modCore (s : State) (n : Nat) (f : Core → Core) : (s.modCore n f).queues = s.queues := rfl
@[simp] theorem slots_modCore (s : State) (n : Nat) (f : Core → Core) : (s.modCore n f).slots = s.slots := rfl
@[simp] theorem counters_modCore (s : State) (n : Nat) (f : Core → Core) : (s.modCore n f).counters = s.counters := rfl
@[simp] theorem decs_modCore (s : State) (n : Nat) (f : Core → Core) : (s.modCore n f).decs = s.decs := rfl
@[simp] theorem barriers_modCore (s : State) (n : Nat) (f : Core → Core) : (s.modCore n f).barriers = s.barriers := rfl
@[simp] theorem tlb_modCore (s : State) (n : Nat) (f : Core → Core) : (s.modCore n f).tlb = s.tlb := rfl
@[simp] theorem coh_modCore (s : State) (n : Nat) (f : Core → Core) : (s.modCore n f).coh = s.coh := rfl
@[simp] theorem sco_modCore (s : State) (n : Nat) (f : Core → Core) : (s.modCore n f).sco = s.sco := rfl
@[simp] theorem monitors_modCore (s : State) (n : Nat) (f : Core → Core) : (s.modCore n f).monitors = s.monitors := rfl
@[simp] theorem anchors_modCore (s : State) (n : Nat) (f : Core → Core) : (s.modCore n f).anchors = s.anchors := rfl
@[simp] theorem holds_modCore (s : State) (n : Nat) (f : Core → Core) : (s.modCore n f).holds = s.holds := rfl
@[simp] theorem lockWaits_modCore (s : State) (n : Nat) (f : Core → Core) : (s.modCore n f).lockWaits = s.lockWaits := rfl
@[simp] theorem tasks_modCore (s : State) (n : Nat) (f : Core → Core) : (s.modCore n f).tasks = s.tasks := rfl
@[simp] theorem bce_modCore (s : State) (n : Nat) (f : Core → Core) : (s.modCore n f).bce = s.bce := rfl
@[simp] theorem evq_modCore (s : State) (n : Nat) (f : Core → Core) : (s.modCore n f).evq = s.evq := rfl
@[simp] theorem fbuf_modCore (s : State) (n : Nat) (f : Core → Core) : (s.modCore n f).fbuf = s.fbuf := rfl
@[simp] theorem intrs_modCore (s : State) (n : Nat) (f : Core → Core) : (s.modCore n f).intrs = s.intrs := rfl
@[simp] theorem peers_modCore (s : State) (n : Nat) (f : Core → Core) : (s.modCore n f).peers = s.peers := rfl
@[simp] theorem remReqs_modCore (s : State) (n : Nat) (f : Core → Core) : (s.modCore n f).remReqs = s.remReqs := rfl
@[simp] theorem collGroups_modCore (s : State) (n : Nat) (f : Core → Core) : (s.modCore n f).collGroups = s.collGroups := rfl
@[simp] theorem hops_modCore (s : State) (n : Nat) (f : Core → Core) : (s.modCore n f).hops = s.hops := rfl
@[simp] theorem fresh_modCore (s : State) (n : Nat) (f : Core → Core) : (s.modCore n f).fresh = s.fresh := rfl
@[simp] theorem sched_modCore (s : State) (n : Nat) (f : Core → Core) : (s.modCore n f).sched = s.sched := rfl
@[simp] theorem ro_modCore (s : State) (n : Nat) (f : Core → Core) : (s.modCore n f).ro = s.ro := rfl
@[simp] theorem access_modCore (s : State) (n : Nat) (f : Core → Core) : (s.modCore n f).access = s.access := rfl
@[simp] theorem cows_modCore (s : State) (n : Nat) (f : Core → Core) : (s.modCore n f).cows = s.cows := rfl
@[simp] theorem keptFrames_modCore (s : State) (n : Nat) (f : Core → Core) : (s.modCore n f).keptFrames = s.keptFrames := rfl
@[simp] theorem viewFrames_modCore (s : State) (n : Nat) (f : Core → Core) : (s.modCore n f).viewFrames = s.viewFrames := rfl
@[simp] theorem wounds_modCore (s : State) (n : Nat) (f : Core → Core) : (s.modCore n f).wounds = s.wounds := rfl
@[simp] theorem revoked_modCore (s : State) (n : Nat) (f : Core → Core) : (s.modCore n f).revoked = s.revoked := rfl
@[simp] theorem stopped_modCore (s : State) (n : Nat) (f : Core → Core) : (s.modCore n f).stopped = s.stopped := rfl
@[simp] theorem temps_modCore (s : State) (n : Nat) (f : Core → Core) : (s.modCore n f).temps = s.temps := rfl
@[simp] theorem controls_modCore (s : State) (n : Nat) (f : Core → Core) : (s.modCore n f).controls = s.controls := rfl
@[simp] theorem sessions_modCore (s : State) (n : Nat) (f : Core → Core) : (s.modCore n f).sessions = s.sessions := rfl
@[simp] theorem opKeys_modCore (s : State) (n : Nat) (f : Core → Core) : (s.modCore n f).opKeys = s.opKeys := rfl

/-! ### setPeer -/

@[simp] theorem tick_setPeer (s : State) (n : Nat) (x : Peer) : (s.setPeer n x).tick = s.tick := rfl
@[simp] theorem mem_setPeer (s : State) (n : Nat) (x : Peer) : (s.setPeer n x).mem = s.mem := rfl
@[simp] theorem bad_setPeer (s : State) (n : Nat) (x : Peer) : (s.setPeer n x).bad = s.bad := rfl
@[simp] theorem cur_setPeer (s : State) (n : Nat) (x : Peer) : (s.setPeer n x).cur = s.cur := rfl
@[simp] theorem groups_setPeer (s : State) (n : Nat) (x : Peer) : (s.setPeer n x).groups = s.groups := rfl
@[simp] theorem teams_setPeer (s : State) (n : Nat) (x : Peer) : (s.setPeer n x).teams = s.teams := rfl
@[simp] theorem grids_setPeer (s : State) (n : Nat) (x : Peer) : (s.setPeer n x).grids = s.grids := rfl
@[simp] theorem ctxs_setPeer (s : State) (n : Nat) (x : Peer) : (s.setPeer n x).ctxs = s.ctxs := rfl
@[simp] theorem queues_setPeer (s : State) (n : Nat) (x : Peer) : (s.setPeer n x).queues = s.queues := rfl
@[simp] theorem slots_setPeer (s : State) (n : Nat) (x : Peer) : (s.setPeer n x).slots = s.slots := rfl
@[simp] theorem counters_setPeer (s : State) (n : Nat) (x : Peer) : (s.setPeer n x).counters = s.counters := rfl
@[simp] theorem decs_setPeer (s : State) (n : Nat) (x : Peer) : (s.setPeer n x).decs = s.decs := rfl
@[simp] theorem barriers_setPeer (s : State) (n : Nat) (x : Peer) : (s.setPeer n x).barriers = s.barriers := rfl
@[simp] theorem cores_setPeer (s : State) (n : Nat) (x : Peer) : (s.setPeer n x).cores = s.cores := rfl
@[simp] theorem tlb_setPeer (s : State) (n : Nat) (x : Peer) : (s.setPeer n x).tlb = s.tlb := rfl
@[simp] theorem coh_setPeer (s : State) (n : Nat) (x : Peer) : (s.setPeer n x).coh = s.coh := rfl
@[simp] theorem sco_setPeer (s : State) (n : Nat) (x : Peer) : (s.setPeer n x).sco = s.sco := rfl
@[simp] theorem monitors_setPeer (s : State) (n : Nat) (x : Peer) : (s.setPeer n x).monitors = s.monitors := rfl
@[simp] theorem anchors_setPeer (s : State) (n : Nat) (x : Peer) : (s.setPeer n x).anchors = s.anchors := rfl
@[simp] theorem holds_setPeer (s : State) (n : Nat) (x : Peer) : (s.setPeer n x).holds = s.holds := rfl
@[simp] theorem lockWaits_setPeer (s : State) (n : Nat) (x : Peer) : (s.setPeer n x).lockWaits = s.lockWaits := rfl
@[simp] theorem tasks_setPeer (s : State) (n : Nat) (x : Peer) : (s.setPeer n x).tasks = s.tasks := rfl
@[simp] theorem bce_setPeer (s : State) (n : Nat) (x : Peer) : (s.setPeer n x).bce = s.bce := rfl
@[simp] theorem evq_setPeer (s : State) (n : Nat) (x : Peer) : (s.setPeer n x).evq = s.evq := rfl
@[simp] theorem fbuf_setPeer (s : State) (n : Nat) (x : Peer) : (s.setPeer n x).fbuf = s.fbuf := rfl
@[simp] theorem intrs_setPeer (s : State) (n : Nat) (x : Peer) : (s.setPeer n x).intrs = s.intrs := rfl
@[simp] theorem remReqs_setPeer (s : State) (n : Nat) (x : Peer) : (s.setPeer n x).remReqs = s.remReqs := rfl
@[simp] theorem collGroups_setPeer (s : State) (n : Nat) (x : Peer) : (s.setPeer n x).collGroups = s.collGroups := rfl
@[simp] theorem hops_setPeer (s : State) (n : Nat) (x : Peer) : (s.setPeer n x).hops = s.hops := rfl
@[simp] theorem fresh_setPeer (s : State) (n : Nat) (x : Peer) : (s.setPeer n x).fresh = s.fresh := rfl
@[simp] theorem sched_setPeer (s : State) (n : Nat) (x : Peer) : (s.setPeer n x).sched = s.sched := rfl
@[simp] theorem ro_setPeer (s : State) (n : Nat) (x : Peer) : (s.setPeer n x).ro = s.ro := rfl
@[simp] theorem access_setPeer (s : State) (n : Nat) (x : Peer) : (s.setPeer n x).access = s.access := rfl
@[simp] theorem cows_setPeer (s : State) (n : Nat) (x : Peer) : (s.setPeer n x).cows = s.cows := rfl
@[simp] theorem keptFrames_setPeer (s : State) (n : Nat) (x : Peer) : (s.setPeer n x).keptFrames = s.keptFrames := rfl
@[simp] theorem viewFrames_setPeer (s : State) (n : Nat) (x : Peer) : (s.setPeer n x).viewFrames = s.viewFrames := rfl
@[simp] theorem wounds_setPeer (s : State) (n : Nat) (x : Peer) : (s.setPeer n x).wounds = s.wounds := rfl
@[simp] theorem revoked_setPeer (s : State) (n : Nat) (x : Peer) : (s.setPeer n x).revoked = s.revoked := rfl
@[simp] theorem stopped_setPeer (s : State) (n : Nat) (x : Peer) : (s.setPeer n x).stopped = s.stopped := rfl
@[simp] theorem temps_setPeer (s : State) (n : Nat) (x : Peer) : (s.setPeer n x).temps = s.temps := rfl
@[simp] theorem controls_setPeer (s : State) (n : Nat) (x : Peer) : (s.setPeer n x).controls = s.controls := rfl
@[simp] theorem sessions_setPeer (s : State) (n : Nat) (x : Peer) : (s.setPeer n x).sessions = s.sessions := rfl
@[simp] theorem opKeys_setPeer (s : State) (n : Nat) (x : Peer) : (s.setPeer n x).opKeys = s.opKeys := rfl

/-! ### modPeer -/

@[simp] theorem tick_modPeer (s : State) (n : Nat) (f : Peer → Peer) : (s.modPeer n f).tick = s.tick := rfl
@[simp] theorem mem_modPeer (s : State) (n : Nat) (f : Peer → Peer) : (s.modPeer n f).mem = s.mem := rfl
@[simp] theorem bad_modPeer (s : State) (n : Nat) (f : Peer → Peer) : (s.modPeer n f).bad = s.bad := rfl
@[simp] theorem cur_modPeer (s : State) (n : Nat) (f : Peer → Peer) : (s.modPeer n f).cur = s.cur := rfl
@[simp] theorem groups_modPeer (s : State) (n : Nat) (f : Peer → Peer) : (s.modPeer n f).groups = s.groups := rfl
@[simp] theorem teams_modPeer (s : State) (n : Nat) (f : Peer → Peer) : (s.modPeer n f).teams = s.teams := rfl
@[simp] theorem grids_modPeer (s : State) (n : Nat) (f : Peer → Peer) : (s.modPeer n f).grids = s.grids := rfl
@[simp] theorem ctxs_modPeer (s : State) (n : Nat) (f : Peer → Peer) : (s.modPeer n f).ctxs = s.ctxs := rfl
@[simp] theorem queues_modPeer (s : State) (n : Nat) (f : Peer → Peer) : (s.modPeer n f).queues = s.queues := rfl
@[simp] theorem slots_modPeer (s : State) (n : Nat) (f : Peer → Peer) : (s.modPeer n f).slots = s.slots := rfl
@[simp] theorem counters_modPeer (s : State) (n : Nat) (f : Peer → Peer) : (s.modPeer n f).counters = s.counters := rfl
@[simp] theorem decs_modPeer (s : State) (n : Nat) (f : Peer → Peer) : (s.modPeer n f).decs = s.decs := rfl
@[simp] theorem barriers_modPeer (s : State) (n : Nat) (f : Peer → Peer) : (s.modPeer n f).barriers = s.barriers := rfl
@[simp] theorem cores_modPeer (s : State) (n : Nat) (f : Peer → Peer) : (s.modPeer n f).cores = s.cores := rfl
@[simp] theorem tlb_modPeer (s : State) (n : Nat) (f : Peer → Peer) : (s.modPeer n f).tlb = s.tlb := rfl
@[simp] theorem coh_modPeer (s : State) (n : Nat) (f : Peer → Peer) : (s.modPeer n f).coh = s.coh := rfl
@[simp] theorem sco_modPeer (s : State) (n : Nat) (f : Peer → Peer) : (s.modPeer n f).sco = s.sco := rfl
@[simp] theorem monitors_modPeer (s : State) (n : Nat) (f : Peer → Peer) : (s.modPeer n f).monitors = s.monitors := rfl
@[simp] theorem anchors_modPeer (s : State) (n : Nat) (f : Peer → Peer) : (s.modPeer n f).anchors = s.anchors := rfl
@[simp] theorem holds_modPeer (s : State) (n : Nat) (f : Peer → Peer) : (s.modPeer n f).holds = s.holds := rfl
@[simp] theorem lockWaits_modPeer (s : State) (n : Nat) (f : Peer → Peer) : (s.modPeer n f).lockWaits = s.lockWaits := rfl
@[simp] theorem tasks_modPeer (s : State) (n : Nat) (f : Peer → Peer) : (s.modPeer n f).tasks = s.tasks := rfl
@[simp] theorem bce_modPeer (s : State) (n : Nat) (f : Peer → Peer) : (s.modPeer n f).bce = s.bce := rfl
@[simp] theorem evq_modPeer (s : State) (n : Nat) (f : Peer → Peer) : (s.modPeer n f).evq = s.evq := rfl
@[simp] theorem fbuf_modPeer (s : State) (n : Nat) (f : Peer → Peer) : (s.modPeer n f).fbuf = s.fbuf := rfl
@[simp] theorem intrs_modPeer (s : State) (n : Nat) (f : Peer → Peer) : (s.modPeer n f).intrs = s.intrs := rfl
@[simp] theorem remReqs_modPeer (s : State) (n : Nat) (f : Peer → Peer) : (s.modPeer n f).remReqs = s.remReqs := rfl
@[simp] theorem collGroups_modPeer (s : State) (n : Nat) (f : Peer → Peer) : (s.modPeer n f).collGroups = s.collGroups := rfl
@[simp] theorem hops_modPeer (s : State) (n : Nat) (f : Peer → Peer) : (s.modPeer n f).hops = s.hops := rfl
@[simp] theorem fresh_modPeer (s : State) (n : Nat) (f : Peer → Peer) : (s.modPeer n f).fresh = s.fresh := rfl
@[simp] theorem sched_modPeer (s : State) (n : Nat) (f : Peer → Peer) : (s.modPeer n f).sched = s.sched := rfl
@[simp] theorem ro_modPeer (s : State) (n : Nat) (f : Peer → Peer) : (s.modPeer n f).ro = s.ro := rfl
@[simp] theorem access_modPeer (s : State) (n : Nat) (f : Peer → Peer) : (s.modPeer n f).access = s.access := rfl
@[simp] theorem cows_modPeer (s : State) (n : Nat) (f : Peer → Peer) : (s.modPeer n f).cows = s.cows := rfl
@[simp] theorem keptFrames_modPeer (s : State) (n : Nat) (f : Peer → Peer) : (s.modPeer n f).keptFrames = s.keptFrames := rfl
@[simp] theorem viewFrames_modPeer (s : State) (n : Nat) (f : Peer → Peer) : (s.modPeer n f).viewFrames = s.viewFrames := rfl
@[simp] theorem wounds_modPeer (s : State) (n : Nat) (f : Peer → Peer) : (s.modPeer n f).wounds = s.wounds := rfl
@[simp] theorem revoked_modPeer (s : State) (n : Nat) (f : Peer → Peer) : (s.modPeer n f).revoked = s.revoked := rfl
@[simp] theorem stopped_modPeer (s : State) (n : Nat) (f : Peer → Peer) : (s.modPeer n f).stopped = s.stopped := rfl
@[simp] theorem temps_modPeer (s : State) (n : Nat) (f : Peer → Peer) : (s.modPeer n f).temps = s.temps := rfl
@[simp] theorem controls_modPeer (s : State) (n : Nat) (f : Peer → Peer) : (s.modPeer n f).controls = s.controls := rfl
@[simp] theorem sessions_modPeer (s : State) (n : Nat) (f : Peer → Peer) : (s.modPeer n f).sessions = s.sessions := rfl
@[simp] theorem opKeys_modPeer (s : State) (n : Nat) (f : Peer → Peer) : (s.modPeer n f).opKeys = s.opKeys := rfl

/-! ### What the accessors read afterwards -/

@[simp] theorem grp_setGrp_same (s : State) (n : Nat) (x : Group) : (s.setGrp n x).grp n = x := tgetD_tset_same _ _ _ _
theorem grp_setGrp_other (s : State) {n m : Nat} (x : Group) (h : m ≠ n) : (s.setGrp n x).grp m = s.grp m := tgetD_tset_other _ _ _ h
theorem grp_modGrp_same (s : State) (n : Nat) (f : Group → Group) (x : Group) (h : tget n s.groups = some x) : (s.modGrp n f).grp n = f (s.grp n) := by
  simp [State.modGrp, State.grp, tgetD, tget_tmod_same, h]
theorem grp_modGrp_other (s : State) {n m : Nat} (f : Group → Group) (h : m ≠ n) : (s.modGrp n f).grp m = s.grp m := by
  simp [State.modGrp, State.grp, tgetD, tget_tmod_other _ _ h]

@[simp] theorem team_setTeam_same (s : State) (n : Nat) (x : Team) : (s.setTeam n x).team n = x := tgetD_tset_same _ _ _ _
theorem team_setTeam_other (s : State) {n m : Nat} (x : Team) (h : m ≠ n) : (s.setTeam n x).team m = s.team m := tgetD_tset_other _ _ _ h
theorem team_modTeam_same (s : State) (n : Nat) (f : Team → Team) (x : Team) (h : tget n s.teams = some x) : (s.modTeam n f).team n = f (s.team n) := by
  simp [State.modTeam, State.team, tgetD, tget_tmod_same, h]
theorem team_modTeam_other (s : State) {n m : Nat} (f : Team → Team) (h : m ≠ n) : (s.modTeam n f).team m = s.team m := by
  simp [State.modTeam, State.team, tgetD, tget_tmod_other _ _ h]

@[simp] theorem grid_setGrid_same (s : State) (n : Nat) (x : Grid) : (s.setGrid n x).grid n = x := tgetD_tset_same _ _ _ _
theorem grid_setGrid_other (s : State) {n m : Nat} (x : Grid) (h : m ≠ n) : (s.setGrid n x).grid m = s.grid m := tgetD_tset_other _ _ _ h
theorem grid_modGrid_same (s : State) (n : Nat) (f : Grid → Grid) (x : Grid) (h : tget n s.grids = some x) : (s.modGrid n f).grid n = f (s.grid n) := by
  simp [State.modGrid, State.grid, tgetD, tget_tmod_same, h]
theorem grid_modGrid_other (s : State) {n m : Nat} (f : Grid → Grid) (h : m ≠ n) : (s.modGrid n f).grid m = s.grid m := by
  simp [State.modGrid, State.grid, tgetD, tget_tmod_other _ _ h]

@[simp] theorem ctx_setCtx_same (s : State) (n : Nat) (x : Ctx) : (s.setCtx n x).ctx n = x := tgetD_tset_same _ _ _ _
theorem ctx_setCtx_other (s : State) {n m : Nat} (x : Ctx) (h : m ≠ n) : (s.setCtx n x).ctx m = s.ctx m := tgetD_tset_other _ _ _ h
theorem ctx_modCtx_same (s : State) (n : Nat) (f : Ctx → Ctx) (x : Ctx) (h : tget n s.ctxs = some x) : (s.modCtx n f).ctx n = f (s.ctx n) := by
  simp [State.modCtx, State.ctx, tgetD, tget_tmod_same, h]
theorem ctx_modCtx_other (s : State) {n m : Nat} (f : Ctx → Ctx) (h : m ≠ n) : (s.modCtx n f).ctx m = s.ctx m := by
  simp [State.modCtx, State.ctx, tgetD, tget_tmod_other _ _ h]

@[simp] theorem queue_setQueue_same (s : State) (n : Nat) (x : Queue) : (s.setQueue n x).queue n = x := tgetD_tset_same _ _ _ _
theorem queue_setQueue_other (s : State) {n m : Nat} (x : Queue) (h : m ≠ n) : (s.setQueue n x).queue m = s.queue m := tgetD_tset_other _ _ _ h
theorem queue_modQueue_same (s : State) (n : Nat) (f : Queue → Queue) (x : Queue) (h : tget n s.queues = some x) : (s.modQueue n f).queue n = f (s.queue n) := by
  simp [State.modQueue, State.queue, tgetD, tget_tmod_same, h]
theorem queue_modQueue_other (s : State) {n m : Nat} (f : Queue → Queue) (h : m ≠ n) : (s.modQueue n f).queue m = s.queue m := by
  simp [State.modQueue, State.queue, tgetD, tget_tmod_other _ _ h]

@[simp] theorem core_setCore_same (s : State) (n : Nat) (x : Core) : (s.setCore n x).core n = x := tgetD_tset_same _ _ _ _
theorem core_setCore_other (s : State) {n m : Nat} (x : Core) (h : m ≠ n) : (s.setCore n x).core m = s.core m := tgetD_tset_other _ _ _ h
@[simp] theorem core_modCore_same (s : State) (n : Nat) (f : Core → Core) : (s.modCore n f).core n = f (s.core n) := tgetD_tset_same _ _ _ _
theorem core_modCore_other (s : State) {n m : Nat} (f : Core → Core) (h : m ≠ n) : (s.modCore n f).core m = s.core m := tgetD_tset_other _ _ _ h

@[simp] theorem peer_setPeer_same (s : State) (n : Nat) (x : Peer) : (s.setPeer n x).peer n = x := tgetD_tset_same _ _ _ _
theorem peer_setPeer_other (s : State) {n m : Nat} (x : Peer) (h : m ≠ n) : (s.setPeer n x).peer m = s.peer m := tgetD_tset_other _ _ _ h
@[simp] theorem peer_modPeer_same (s : State) (n : Nat) (f : Peer → Peer) : (s.modPeer n f).peer n = f (s.peer n) := tgetD_tset_same _ _ _ _
theorem peer_modPeer_other (s : State) {n m : Nat} (f : Peer → Peer) (h : m ≠ n) : (s.modPeer n f).peer m = s.peer m := tgetD_tset_other _ _ _ h

@[simp] theorem grp_setTeam (s : State) (n : Nat) (x : Team) (k : Nat) : (s.setTeam n x).grp k = s.grp k := rfl
@[simp] theorem grp_modTeam (s : State) (n : Nat) (f : Team → Team) (k : Nat) : (s.modTeam n f).grp k = s.grp k := rfl
@[simp] theorem grp_setGrid (s : State) (n : Nat) (x : Grid) (k : Nat) : (s.setGrid n x).grp k = s.grp k := rfl
@[simp] theorem grp_modGrid (s : State) (n : Nat) (f : Grid → Grid) (k : Nat) : (s.modGrid n f).grp k = s.grp k := rfl
@[simp] theorem grp_setCtx (s : State) (n : Nat) (x : Ctx) (k : Nat) : (s.setCtx n x).grp k = s.grp k := rfl
@[simp] theorem grp_modCtx (s : State) (n : Nat) (f : Ctx → Ctx) (k : Nat) : (s.modCtx n f).grp k = s.grp k := rfl
@[simp] theorem grp_setQueue (s : State) (n : Nat) (x : Queue) (k : Nat) : (s.setQueue n x).grp k = s.grp k := rfl
@[simp] theorem grp_modQueue (s : State) (n : Nat) (f : Queue → Queue) (k : Nat) : (s.modQueue n f).grp k = s.grp k := rfl
@[simp] theorem grp_setCore (s : State) (n : Nat) (x : Core) (k : Nat) : (s.setCore n x).grp k = s.grp k := rfl
@[simp] theorem grp_modCore (s : State) (n : Nat) (f : Core → Core) (k : Nat) : (s.modCore n f).grp k = s.grp k := rfl
@[simp] theorem grp_setPeer (s : State) (n : Nat) (x : Peer) (k : Nat) : (s.setPeer n x).grp k = s.grp k := rfl
@[simp] theorem grp_modPeer (s : State) (n : Nat) (f : Peer → Peer) (k : Nat) : (s.modPeer n f).grp k = s.grp k := rfl
@[simp] theorem team_setGrp (s : State) (g : Nat) (x : Group) (k : Nat) : (s.setGrp g x).team k = s.team k := rfl
@[simp] theorem team_modGrp (s : State) (g : Nat) (f : Group → Group) (k : Nat) : (s.modGrp g f).team k = s.team k := rfl
@[simp] theorem team_setMe (s : State) (x : Group) (k : Nat) : (s.setMe x).team k = s.team k := rfl
@[simp] theorem team_modMe (s : State) (f : Group → Group) (k : Nat) : (s.modMe f).team k = s.team k := rfl
@[simp] theorem team_setGrid (s : State) (n : Nat) (x : Grid) (k : Nat) : (s.setGrid n x).team k = s.team k := rfl
@[simp] theorem team_modGrid (s : State) (n : Nat) (f : Grid → Grid) (k : Nat) : (s.modGrid n f).team k = s.team k := rfl
@[simp] theorem team_setCtx (s : State) (n : Nat) (x : Ctx) (k : Nat) : (s.setCtx n x).team k = s.team k := rfl
@[simp] theorem team_modCtx (s : State) (n : Nat) (f : Ctx → Ctx) (k : Nat) : (s.modCtx n f).team k = s.team k := rfl
@[simp] theorem team_setQueue (s : State) (n : Nat) (x : Queue) (k : Nat) : (s.setQueue n x).team k = s.team k := rfl
@[simp] theorem team_modQueue (s : State) (n : Nat) (f : Queue → Queue) (k : Nat) : (s.modQueue n f).team k = s.team k := rfl
@[simp] theorem team_setCore (s : State) (n : Nat) (x : Core) (k : Nat) : (s.setCore n x).team k = s.team k := rfl
@[simp] theorem team_modCore (s : State) (n : Nat) (f : Core → Core) (k : Nat) : (s.modCore n f).team k = s.team k := rfl
@[simp] theorem team_setPeer (s : State) (n : Nat) (x : Peer) (k : Nat) : (s.setPeer n x).team k = s.team k := rfl
@[simp] theorem team_modPeer (s : State) (n : Nat) (f : Peer → Peer) (k : Nat) : (s.modPeer n f).team k = s.team k := rfl
@[simp] theorem grid_setGrp (s : State) (g : Nat) (x : Group) (k : Nat) : (s.setGrp g x).grid k = s.grid k := rfl
@[simp] theorem grid_modGrp (s : State) (g : Nat) (f : Group → Group) (k : Nat) : (s.modGrp g f).grid k = s.grid k := rfl
@[simp] theorem grid_setMe (s : State) (x : Group) (k : Nat) : (s.setMe x).grid k = s.grid k := rfl
@[simp] theorem grid_modMe (s : State) (f : Group → Group) (k : Nat) : (s.modMe f).grid k = s.grid k := rfl
@[simp] theorem grid_setTeam (s : State) (n : Nat) (x : Team) (k : Nat) : (s.setTeam n x).grid k = s.grid k := rfl
@[simp] theorem grid_modTeam (s : State) (n : Nat) (f : Team → Team) (k : Nat) : (s.modTeam n f).grid k = s.grid k := rfl
@[simp] theorem grid_setCtx (s : State) (n : Nat) (x : Ctx) (k : Nat) : (s.setCtx n x).grid k = s.grid k := rfl
@[simp] theorem grid_modCtx (s : State) (n : Nat) (f : Ctx → Ctx) (k : Nat) : (s.modCtx n f).grid k = s.grid k := rfl
@[simp] theorem grid_setQueue (s : State) (n : Nat) (x : Queue) (k : Nat) : (s.setQueue n x).grid k = s.grid k := rfl
@[simp] theorem grid_modQueue (s : State) (n : Nat) (f : Queue → Queue) (k : Nat) : (s.modQueue n f).grid k = s.grid k := rfl
@[simp] theorem grid_setCore (s : State) (n : Nat) (x : Core) (k : Nat) : (s.setCore n x).grid k = s.grid k := rfl
@[simp] theorem grid_modCore (s : State) (n : Nat) (f : Core → Core) (k : Nat) : (s.modCore n f).grid k = s.grid k := rfl
@[simp] theorem grid_setPeer (s : State) (n : Nat) (x : Peer) (k : Nat) : (s.setPeer n x).grid k = s.grid k := rfl
@[simp] theorem grid_modPeer (s : State) (n : Nat) (f : Peer → Peer) (k : Nat) : (s.modPeer n f).grid k = s.grid k := rfl
@[simp] theorem ctx_setGrp (s : State) (g : Nat) (x : Group) (k : Nat) : (s.setGrp g x).ctx k = s.ctx k := rfl
@[simp] theorem ctx_modGrp (s : State) (g : Nat) (f : Group → Group) (k : Nat) : (s.modGrp g f).ctx k = s.ctx k := rfl
@[simp] theorem ctx_setMe (s : State) (x : Group) (k : Nat) : (s.setMe x).ctx k = s.ctx k := rfl
@[simp] theorem ctx_modMe (s : State) (f : Group → Group) (k : Nat) : (s.modMe f).ctx k = s.ctx k := rfl
@[simp] theorem ctx_setTeam (s : State) (n : Nat) (x : Team) (k : Nat) : (s.setTeam n x).ctx k = s.ctx k := rfl
@[simp] theorem ctx_modTeam (s : State) (n : Nat) (f : Team → Team) (k : Nat) : (s.modTeam n f).ctx k = s.ctx k := rfl
@[simp] theorem ctx_setGrid (s : State) (n : Nat) (x : Grid) (k : Nat) : (s.setGrid n x).ctx k = s.ctx k := rfl
@[simp] theorem ctx_modGrid (s : State) (n : Nat) (f : Grid → Grid) (k : Nat) : (s.modGrid n f).ctx k = s.ctx k := rfl
@[simp] theorem ctx_setQueue (s : State) (n : Nat) (x : Queue) (k : Nat) : (s.setQueue n x).ctx k = s.ctx k := rfl
@[simp] theorem ctx_modQueue (s : State) (n : Nat) (f : Queue → Queue) (k : Nat) : (s.modQueue n f).ctx k = s.ctx k := rfl
@[simp] theorem ctx_setCore (s : State) (n : Nat) (x : Core) (k : Nat) : (s.setCore n x).ctx k = s.ctx k := rfl
@[simp] theorem ctx_modCore (s : State) (n : Nat) (f : Core → Core) (k : Nat) : (s.modCore n f).ctx k = s.ctx k := rfl
@[simp] theorem ctx_setPeer (s : State) (n : Nat) (x : Peer) (k : Nat) : (s.setPeer n x).ctx k = s.ctx k := rfl
@[simp] theorem ctx_modPeer (s : State) (n : Nat) (f : Peer → Peer) (k : Nat) : (s.modPeer n f).ctx k = s.ctx k := rfl
@[simp] theorem queue_setGrp (s : State) (g : Nat) (x : Group) (k : Nat) : (s.setGrp g x).queue k = s.queue k := rfl
@[simp] theorem queue_modGrp (s : State) (g : Nat) (f : Group → Group) (k : Nat) : (s.modGrp g f).queue k = s.queue k := rfl
@[simp] theorem queue_setMe (s : State) (x : Group) (k : Nat) : (s.setMe x).queue k = s.queue k := rfl
@[simp] theorem queue_modMe (s : State) (f : Group → Group) (k : Nat) : (s.modMe f).queue k = s.queue k := rfl
@[simp] theorem queue_setTeam (s : State) (n : Nat) (x : Team) (k : Nat) : (s.setTeam n x).queue k = s.queue k := rfl
@[simp] theorem queue_modTeam (s : State) (n : Nat) (f : Team → Team) (k : Nat) : (s.modTeam n f).queue k = s.queue k := rfl
@[simp] theorem queue_setGrid (s : State) (n : Nat) (x : Grid) (k : Nat) : (s.setGrid n x).queue k = s.queue k := rfl
@[simp] theorem queue_modGrid (s : State) (n : Nat) (f : Grid → Grid) (k : Nat) : (s.modGrid n f).queue k = s.queue k := rfl
@[simp] theorem queue_setCtx (s : State) (n : Nat) (x : Ctx) (k : Nat) : (s.setCtx n x).queue k = s.queue k := rfl
@[simp] theorem queue_modCtx (s : State) (n : Nat) (f : Ctx → Ctx) (k : Nat) : (s.modCtx n f).queue k = s.queue k := rfl
@[simp] theorem queue_setCore (s : State) (n : Nat) (x : Core) (k : Nat) : (s.setCore n x).queue k = s.queue k := rfl
@[simp] theorem queue_modCore (s : State) (n : Nat) (f : Core → Core) (k : Nat) : (s.modCore n f).queue k = s.queue k := rfl
@[simp] theorem queue_setPeer (s : State) (n : Nat) (x : Peer) (k : Nat) : (s.setPeer n x).queue k = s.queue k := rfl
@[simp] theorem queue_modPeer (s : State) (n : Nat) (f : Peer → Peer) (k : Nat) : (s.modPeer n f).queue k = s.queue k := rfl
@[simp] theorem core_setGrp (s : State) (g : Nat) (x : Group) (k : Nat) : (s.setGrp g x).core k = s.core k := rfl
@[simp] theorem core_modGrp (s : State) (g : Nat) (f : Group → Group) (k : Nat) : (s.modGrp g f).core k = s.core k := rfl
@[simp] theorem core_setMe (s : State) (x : Group) (k : Nat) : (s.setMe x).core k = s.core k := rfl
@[simp] theorem core_modMe (s : State) (f : Group → Group) (k : Nat) : (s.modMe f).core k = s.core k := rfl
@[simp] theorem core_setTeam (s : State) (n : Nat) (x : Team) (k : Nat) : (s.setTeam n x).core k = s.core k := rfl
@[simp] theorem core_modTeam (s : State) (n : Nat) (f : Team → Team) (k : Nat) : (s.modTeam n f).core k = s.core k := rfl
@[simp] theorem core_setGrid (s : State) (n : Nat) (x : Grid) (k : Nat) : (s.setGrid n x).core k = s.core k := rfl
@[simp] theorem core_modGrid (s : State) (n : Nat) (f : Grid → Grid) (k : Nat) : (s.modGrid n f).core k = s.core k := rfl
@[simp] theorem core_setCtx (s : State) (n : Nat) (x : Ctx) (k : Nat) : (s.setCtx n x).core k = s.core k := rfl
@[simp] theorem core_modCtx (s : State) (n : Nat) (f : Ctx → Ctx) (k : Nat) : (s.modCtx n f).core k = s.core k := rfl
@[simp] theorem core_setQueue (s : State) (n : Nat) (x : Queue) (k : Nat) : (s.setQueue n x).core k = s.core k := rfl
@[simp] theorem core_modQueue (s : State) (n : Nat) (f : Queue → Queue) (k : Nat) : (s.modQueue n f).core k = s.core k := rfl
@[simp] theorem core_setPeer (s : State) (n : Nat) (x : Peer) (k : Nat) : (s.setPeer n x).core k = s.core k := rfl
@[simp] theorem core_modPeer (s : State) (n : Nat) (f : Peer → Peer) (k : Nat) : (s.modPeer n f).core k = s.core k := rfl
@[simp] theorem peer_setGrp (s : State) (g : Nat) (x : Group) (k : Nat) : (s.setGrp g x).peer k = s.peer k := rfl
@[simp] theorem peer_modGrp (s : State) (g : Nat) (f : Group → Group) (k : Nat) : (s.modGrp g f).peer k = s.peer k := rfl
@[simp] theorem peer_setMe (s : State) (x : Group) (k : Nat) : (s.setMe x).peer k = s.peer k := rfl
@[simp] theorem peer_modMe (s : State) (f : Group → Group) (k : Nat) : (s.modMe f).peer k = s.peer k := rfl
@[simp] theorem peer_setTeam (s : State) (n : Nat) (x : Team) (k : Nat) : (s.setTeam n x).peer k = s.peer k := rfl
@[simp] theorem peer_modTeam (s : State) (n : Nat) (f : Team → Team) (k : Nat) : (s.modTeam n f).peer k = s.peer k := rfl
@[simp] theorem peer_setGrid (s : State) (n : Nat) (x : Grid) (k : Nat) : (s.setGrid n x).peer k = s.peer k := rfl
@[simp] theorem peer_modGrid (s : State) (n : Nat) (f : Grid → Grid) (k : Nat) : (s.modGrid n f).peer k = s.peer k := rfl
@[simp] theorem peer_setCtx (s : State) (n : Nat) (x : Ctx) (k : Nat) : (s.setCtx n x).peer k = s.peer k := rfl
@[simp] theorem peer_modCtx (s : State) (n : Nat) (f : Ctx → Ctx) (k : Nat) : (s.modCtx n f).peer k = s.peer k := rfl
@[simp] theorem peer_setQueue (s : State) (n : Nat) (x : Queue) (k : Nat) : (s.setQueue n x).peer k = s.peer k := rfl
@[simp] theorem peer_modQueue (s : State) (n : Nat) (f : Queue → Queue) (k : Nat) : (s.modQueue n f).peer k = s.peer k := rfl
@[simp] theorem peer_setCore (s : State) (n : Nat) (x : Core) (k : Nat) : (s.setCore n x).peer k = s.peer k := rfl
@[simp] theorem peer_modCore (s : State) (n : Nat) (f : Core → Core) (k : Nat) : (s.modCore n f).peer k = s.peer k := rfl

end Sys2Proof.Machine
end

