-- ==== Sys2Proof/Laws/Traps.lean ====
section
/-!
SUPPORT. What the shared operation of taking an exception can do, by its cases; what the return from one does; and what
posting an event record changes.
-/
namespace Sys2Proof.Machine

/-- A posted record (R271, R277): the sequence number, the queue, the fault buffers, the records held without an entry and
the interrupts may change; nothing else does. -/
theorem post_frame (s : State) (die : Nat) (r : EvRec) :
    s.post die r = { s with nextSeq := (s.post die r).nextSeq, evq := (s.post die r).evq, fbuf := (s.post die r).fbuf,
                            stopped := (s.post die r).stopped, intrs := (s.post die r).intrs } := by
  unfold State.post
  dsimp only
  repeat' first | rfl | split

/-- Where the queue has room the record is its last entry. -/
theorem post_room (s : State) (die : Nat) (r : EvRec) (h : s.queueRoom die = true) :
    s.post die r = { s with nextSeq := s.nextSeq + 1, evq := s.evq ++ [{ r with seq := s.nextSeq % 2 ^ 32 }] } := by
  simp only [State.post, h, if_true]

@[simp] theorem mem_post (s : State) (die : Nat) (r : EvRec) : (s.post die r).mem = s.mem := by rw [post_frame]
@[simp] theorem groups_post (s : State) (die : Nat) (r : EvRec) : (s.post die r).groups = s.groups := by rw [post_frame]
@[simp] theorem teams_post (s : State) (die : Nat) (r : EvRec) : (s.post die r).teams = s.teams := by rw [post_frame]
@[simp] theorem cur_post (s : State) (die : Nat) (r : EvRec) : (s.post die r).cur = s.cur := by rw [post_frame]

/-- An exception either is entered at once, or waits at the group and changes nothing else (R223, R277). -/
theorem raise_cases (s : State) (c : Cause) (v : Word) :
    let d : TrapDue := { cause := c, tval := v, epc := s.me.pc, lanes := s.me.eMask, async := false, task := s.me.taskId }
    (s.canEnter s.cur c = true ∧ s.raise c v = s.enterTrap s.cur d) ∨
    (s.canEnter s.cur c = false ∧ s.raise c v = s.modMe fun g => { g with trapDue := some d }) := by
  cases h : s.canEnter s.cur c
  · exact .inr ⟨rfl, by simp [State.raise, State.raiseIn, h]⟩
  · exact .inl ⟨rfl, by simp [State.raise, State.raiseIn, h]⟩

/-- What the destinations of an instruction that waits leave as it is, when they are given back. -/
theorem unmark_frame (g : Group) : g.unmark = { g with lanes := g.unmark.lanes, qEmpty := g.unmark.qEmpty, marks := [] } := by
  have fold : ∀ (ks : List (Nat × RKey)) (g : Group), ks.foldl (fun g k => g.refullKey k.1 k.2) g =
      { g with lanes := (ks.foldl (fun g k => g.refullKey k.1 k.2) g).lanes
               qEmpty := (ks.foldl (fun g k => g.refullKey k.1 k.2) g).qEmpty } := by
    intro ks
    induction ks with
    | nil => intro g; rfl
    | cons k ks ih =>
      intro g
      rw [List.foldl_cons, ih]
      cases k.2 <;> rfl
  unfold Group.unmark
  split
  · rename_i h
    rw [List.isEmpty_iff] at h
    cases g; simp_all
  · conv => lhs; rw [fold]

theorem grp_dropTry (s : State) (gid : Nat) :
    (s.dropTry gid).grp gid = { (s.grp gid).unmark with fetched := [], last := false } := by
  cases h : tget gid s.groups with
  | some x => rw [State.dropTry, grp_modGrp_same _ _ _ _ h]
  | none =>
    have : tget gid (s.dropTry gid).groups = none := by
      simp only [State.dropTry, State.modGrp]
      rw [tget_tmod_same, h]; rfl
    simp only [State.grp, tgetD, h, this]
    rfl

theorem fatalTrap_dropTry (s : State) (gid : Nat) (c : Cause) : (s.dropTry gid).fatalTrap gid c = s.fatalTrap gid c := by
  unfold State.fatalTrap
  rw [grp_dropTry, unmark_frame]
  rfl

theorem emptyLapses_dropTry (s : State) (gid : Nat) (c : Cause) : (s.dropTry gid).emptyLapses gid c = s.emptyLapses gid c := by
  unfold State.emptyLapses
  rw [grp_dropTry, unmark_frame]
  rfl

/-- A trap outside a task that ends the grid (R264). -/
theorem enterTrap_fatal (s : State) (gid : Nat) (d : TrapDue) (h : s.fatalTrap gid d.cause = true)
    (he : s.emptyLapses gid d.cause = false) (ht : (s.grp gid).taskId = 0) :
    s.enterTrap gid d =
      (s.dropTry gid).gridFatal (s.team (s.grp gid).team).grid (s.grp gid).core d.cause d.tval d.epc (s.grp gid).team := by
  have hg := grp_dropTry s gid
  rw [unmark_frame] at hg
  simp only [State.enterTrap, fatalTrap_dropTry, emptyLapses_dropTry, h, he, hg, ht, if_true, beq_self_eq_true, Bool.false_eq_true, if_false]
  rfl

/-- Entry to TVEC of a trap at an instruction, outside a task (R264): the group's trap record, its mode and its runnable
lanes. -/
theorem enterTrap_tvec (s : State) (gid : Nat) (d : TrapDue) (hf : s.fatalTrap gid d.cause = false)
    (ht : (s.grp gid).taskId = 0) (ha : d.async = false) (hd : (s.team (s.grp gid).team).dest d.cause = .tvec)
    (hp : d.cause ≠ .page) (hv : d.cause ≠ .vpool) :
    s.enterTrap gid d =
      (s.dropTry gid).modGrp gid fun g => g.enterTvec (s.ctx (s.ctxOf (s.grp gid))).tvec { d with task := 0 } := by
  rcases d with ⟨c, tv, epc, lanes, async, task⟩
  simp only at ha hd hp hv hf
  subst ha
  unfold State.enterTrap
  have hg := grp_dropTry s gid
  rw [unmark_frame] at hg
  have hf' : (s.dropTry gid).fatalTrap gid c = false := by rw [fatalTrap_dropTry, hf]
  have hr : (s.dropTry gid).recordKind gid c = none := by
    unfold State.recordKind
    rw [hf']
    cases c <;> first | exact absurd rfl hp | exact absurd rfl hv | rfl
  have he : (s.dropTry gid).emptyLapses gid c = false := by
    rw [emptyLapses_dropTry]
    unfold State.emptyLapses
    cases c <;> first | rfl | exact absurd hd (by simp [Team.dest])
  have hd' : ((s.dropTry gid).team (s.grp gid).team).dest c = .tvec := hd
  simp only [he, hf', hg, ht, hr, Bool.false_eq_true, if_false, beq_self_eq_true, if_true, Option.isSome_none]
  cases c <;> first | exact absurd rfl hp | exact absurd rfl hv | (simp only [hd']; rfl)

/-- The return leaves every other group, memory, contexts and teams as they are (R265). -/
theorem returnTrap_rest (s : State) :
    s.returnTrap = { s with groups := s.returnTrap.groups, cores := s.returnTrap.cores } := by
  unfold State.returnTrap
  extract_lets
  repeat' first | rfl | split

end Sys2Proof.Machine
end

