-- ==== Sys2Proof/Tests/Slice0.lean ====
section
/-!
SUPPORT. Tests: ill-formed terms that the encoding check refuses, words written out from the manual's encodings, results
worked out from the manual, and for each statement states and operands that meet its hypotheses.
-/
namespace Sys2Proof.Tests

-- One test after another: a kernel decision waits for every proof before it, and tests waiting side by side take memory.
set_option Elab.async false

open Sys2Proof Sys2Proof.Machine

/-! ### Well-formedness: one ill-formed term for each check -/

/-- R50: specifiers 0x7E and 0x7F are reserved as sources. -/
theorem smoke_reserved_source : (Instr.add 3 0x7E 2 0 0 0).wf 16 = false ∧ (Instr.add 3 0x7D 2 0 0 0).wf 16 = true := by decide
/-- R50: `tid` (0x7A) is no destination of a short-class instruction; z (0x79) is. -/
theorem smoke_short_destination : (Instr.add 0x7A 1 2 0 0 0).wf 16 = false ∧ (Instr.add 0x79 1 2 0 0 0).wf 16 = true := by decide
/-- R50: lat (0x78) is a destination of the short class alone. -/
theorem smoke_other_destination : (Instr.ld64 0x78 1 0).wf 16 = false ∧ (Instr.movi 0x78 0).wf 16 = true := by decide
/-- R77: cond 0xE is reserved. -/
theorem smoke_cond : (Instr.br 0xE 1).wf 16 = false ∧ (Instr.br 0xF 1).wf 16 = true := by decide
/-- R78: scope codes 5 to 7 are reserved. -/
theorem smoke_scope : (Instr.flsh 5).wf 16 = false ∧ (Instr.flsh 4).wf 16 = true := by decide
/-- R78: rounding codes above 4 are reserved. -/
theorem smoke_round : (Instr.frndD 2 1 5 0 0).wf 16 = false ∧ (Instr.frndD 2 1 4 0 0).wf 16 = true := by decide
/-- R78: masks are k0 to k11, tiles t0 to t15, lock modes 1 to 6. -/
theorem smoke_codes : (Instr.join 12).wf 16 = false ∧ (Instr.join 11).wf 16 = true ∧ (Instr.mzro 16).wf 16 = false ∧
    (Instr.mzro 15).wf 16 = true ∧ (Instr.lock 2 1 0).wf 16 = false ∧ (Instr.lock 2 1 7).wf 16 = false ∧
    (Instr.lock 2 1 6).wf 16 = true := by decide
/-- R62: control-register numbers 0x0F to 0x3F and above 0x4C are unassigned. -/
theorem smoke_csr : (Instr.csrr 1 0x0F).wf 16 = false ∧ (Instr.csrr 1 0x4D).wf 16 = false ∧ (Instr.csrr 1 0x0E).wf 16 = true := by
  decide
/-- R225: in a group of 16 lanes there is no such shape for codes 4 and 5; a fragment ends at v95 (R224). -/
theorem smoke_fragment : (Instr.mma 0 4 8 4).wf 16 = false ∧ (Instr.mma 0 4 8 4).wf 32 = true ∧
    (Instr.mma 0 0x5F 8 0).wf 16 = false ∧ (Instr.mma 0 0x5E 8 0).wf 16 = true := by decide
/-- R229: MFIL takes 256/W registers. -/
theorem smoke_tile_span : (Instr.mfil 0 0x51).wf 16 = false ∧ (Instr.mfil 0 0x50).wf 16 = true := by decide
/-- R214: QDX has no form in a group of 16 lanes. -/
theorem smoke_qdx_width : (Instr.qdxX8 4 2 4 1).wf 16 = false ∧ (Instr.qdxX8 4 2 4 1).wf 32 = true := by decide
/-- R412: XRD's a field names a v or an o register. -/
theorem smoke_xrd : (Instr.xrd 4 0x70 3 0).wf 16 = false ∧ (Instr.xrd 4 0x6F 3 0).wf 16 = true := by decide
/-- R361: KLOG's op is 0 to 4; R406: WAITA's op 0 or 1; R352: FENCE's kind 0 to 3; R380: PREF's hint 0 to 3. -/
theorem smoke_small_fields : (Instr.klog 1 2 3 5).wf 16 = false ∧ (Instr.klog 1 2 3 3).wf 16 = true ∧
    (Instr.waita 2 1 3 2).wf 16 = false ∧ (Instr.waita 2 1 3 1).wf 16 = true ∧ (Instr.fence 4 0).wf 16 = false ∧
    (Instr.fence 3 4).wf 16 = true ∧ (Instr.pref 5 4).wf 16 = false ∧ (Instr.pref 5 3).wf 16 = true := by decide

/-! ### Words from the manual's encodings -/

/-- The decoder reads the word as the instruction. -/
def reads (w : IWord) (i : Instr) : Prop := decode w = .ok i

/-- R318 to R322: T3 words of row 0x0_, from the format 0xOP << 24 | d << 17 | a << 10 | b << 3 | W Fa Fb. -/
theorem test_decode_integer : reads 0x01060410#32 (.add 3 1 2 0 0 0) ∧ reads 0x5B03E800#32 (.mov 1 0x7A 0 0) ∧
    reads 0x5C020000#32 (.ccget 1) ∧ reads 0x5DF20400#32 (.ccset 1 0) := ⟨rfl, rfl, rfl, rfl⟩
/-- R59: `ADD v5, v4!, v6` carries Fa. -/
theorem test_decode_full_bit : reads 0x010A1032#32 (.add 5 4 6 0 1 0) := rfl
/-- R348, R349, R351: FADD.D, FSQRT.F with W, FCMP.D, FRND.D. -/
theorem test_decode_float : reads 0x20060410#32 (.faddD 3 1 2 0 0 0) ∧ reads 0x39040404#32 (.fsqrtF 2 1 1 0) ∧
    reads 0x2AF20410#32 (.fcmpD 1 2 0 0) ∧ reads 0x2E040418#32 (.frndD 2 1 3 0 0) := ⟨rfl, rfl, rfl, rfl⟩
/-- R341: FRCP.F. R210: CVT. R214, R216: QDX.X8 and DQX.X8. -/
theorem test_decode_special : reads 0x50040400#32 (.frcpF 2 1 0 0) ∧ reads 0x43040418#32 (.cvtS64D 2 1 3) ∧
    reads 0x4C080821#32 (.qdxX8 4 2 4 1) ∧ reads 0x4E0C1020#32 (.dqxX8 6 4 4) := ⟨rfl, rfl, rfl, rfl⟩
/-- R391, R404, R412, R378, R323, R381: cross-lane words. -/
theorem test_decode_lanes : reads 0x65040400#32 (.vote 2 1 0) ∧ reads 0x66040400#32 (.mtch 2 1 0) ∧
    reads 0x67080818#32 (.xrd 4 2 3 0) := ⟨rfl, rfl, rfl⟩
/-- R59: LD.64 with an offset of 16. R112, R355, R356, R380: PTOG, FLSH, INVL, PREF. -/
theorem test_decode_memory : reads 0x86080802#32 (.ld64 4 2 2) ∧ reads 0x77020800#32 (.ptog 1 2 0) ∧
    reads 0x79000002#32 (.flsh 2) ∧ reads 0x7A000004#32 (.invl 4) ∧ reads 0x78001402#32 (.pref 5 2) := ⟨rfl, rfl, rfl, rfl, rfl⟩
/-- R324, R326, R329, R379, R400: control flow and traps. -/
theorem test_decode_control : reads 0xC0B00003#32 (.br 0xB 3) ∧ reads 0xC2F00010#32 (.call 16) ∧
    reads 0xCE000028#32 (.bkpt 5) ∧ reads 0xCF000008#32 (.svc 1) ∧ reads 0xCC0003F8#32 (.trap 0x7F) ∧
    reads 0xCB000000#32 .nop := ⟨rfl, rfl, rfl, rfl, rfl, rfl⟩
/-- R358 to R361, R372, R352: masks and fences. -/
theorem test_decode_masks : reads 0xD0020000#32 (.join 1) ∧ reads 0xD1060000#32 (.leave 3) ∧
    reads 0xD3020C00#32 (.kget 1 3) ∧ reads 0xD4041000#32 (.kset 2 4) ∧ reads 0xD9000003#32 (.fence 0 3) ∧
    reads 0xD9000804#32 (.fence 2 4) := ⟨rfl, rfl, rfl, rfl, rfl, rfl⟩
/-- R230, R336, R341, R405: the engine and version words. -/
theorem test_decode_engines : reads 0xEB001000#32 (.coll 4) ∧ reads 0x570C1400#32 (.drsa 6 5 0 0) ∧
    reads 0xF905C400#32 (.vqry 2 0x71) := ⟨rfl, rfl, rfl⟩
/-- R73, R80: a nonzero unused field, and a reserved OP, are no instruction. -/
theorem test_decode_refuses : (decode 0xCB000001#32).toOption = none ∧ (decode 0x00000000#32).toOption = none := by decide
/-- R82: REP #64, #8, d a b: count − 1 in [23:18], step bits, stride code 3. -/
theorem test_decode_rep : reads 0xFFFFE000#32 (.rep 63 1 1 1 3) := rfl

/-! ### A group of sixteen threads -/

/-- A launched program of one word; group 1 of sixteen lanes is the one that issues. -/
def base (w : Nat) : State := { (State.reset.withFetchWord 32 w) with cur := 1, sched := [] }
/-- The base state with a NOP placed. -/
def st0 : State := base 0xCB000000
/-- A register of a lane set. -/
def State.reg (s : State) (l n : Nat) (x : Word) : State :=
  s.modMe fun g => g.modLane l fun y => { y with th := { y.th with v := tset n x y.th.v } }
/-- A register of every lane set. -/
def regAll (s : State) (n : Nat) (x : Word) : State := (upTo 16).foldl (fun s l => State.reg s l n x) s
/-- A group of one lane. -/
def one (s : State) : State := s.modMe fun g => { g with lanes := g.lanes.take 1 ++ (upTo 15).map fun _ => {}, k := [(0, 1)] }
/-- The group in supervisor mode, every lane runnable. -/
def super (s : State) : State := s.modMe fun g => { g with sup := true, supRun := 0xFFFF, tlanes := 0xFFFF#64 }

/-- Everything that Issues and Falls ask, for a group on a core with no pinned segment. -/
def goes (i : Instr) (s : State) : Bool :=
  s.me.depart.isNone && s.issuable && s.pastEnd.isNone && (preCheck i s.me s.myTeam.tix).isNone && s.ready i == .go &&
    (s.localSeg s.me).isNone && s.me.marks.isEmpty

theorem runs {i : Instr} {s : State} (h : goes i s = true) : Issues i s ∧ Falls s := by
  simp only [goes, Bool.and_eq_true, beq_iff_eq, Option.isNone_iff_eq_none, List.isEmpty_iff] at h
  obtain ⟨⟨⟨⟨⟨⟨a, b⟩, c⟩, d⟩, e⟩, f⟩, m⟩ := h
  exact ⟨⟨⟨a, b, c, m⟩, d, e⟩, fun x hx => by rw [f] at hx; cases hx⟩

theorem stands {i : Instr} {s : State} (h : goes i s = true) : Stands s := (runs h).1.stands

/-! ### Results, worked out by hand from the manual -/

/-- What exec leaves; the reset state where it stops. -/
def after (i : Instr) (s : State) : State := match exec i s with | .next t => t | _ => State.reset
/-- Register v n of a lane, when its value has arrived or is on its way. -/
def vOf (s : State) (l n : Nat) : Word :=
  match ((s.me.lane l).th.pend.filter fun p => p.key == .v n).getLast? with
  | some p => p.val
  | none => s.me.readKey l (.v n)
def flagsOf (s : State) (l : Nat) : Nat := (s.me.lane l).th.nzcv.toNat
/-- v1 and v2 given in every lane. -/
def st2 (x y : Word) : State := regAll (regAll st0 1 x) 2 y

/-- R60, R318: −1 + 1 with W: zero, carry out, no signed overflow. -/
theorem test_add_wraps : vOf (after (.add 3 1 2 1 0 0) (st2 0xFFFFFFFFFFFFFFFF 1)) 5 3 = 0 ∧
    flagsOf (after (.add 3 1 2 1 0 0) (st2 0xFFFFFFFFFFFFFFFF 1)) 5 = 6 := by decide
/-- R60: 2^63 − 1 plus 1 overflows. -/
theorem test_add_overflow : flagsOf (after (.add 3 1 2 1 0 0) (st2 0x7FFFFFFFFFFFFFFF 1)) 0 = 9 := by decide
/-- R60, R388: 0 − 1 borrows: N alone. -/
theorem test_sub_borrow : vOf (after (.sub 3 1 2 1 0 0) (st2 0 1)) 15 3 = 0xFFFFFFFFFFFFFFFF ∧
    flagsOf (after (.sub 3 1 2 1 0 0) (st2 0 1)) 15 = 8 := by decide
/-- R211: divisors of zero. -/
theorem test_divide_by_zero : vOf (after (.divS 3 1 2 0 0 0) (st2 7 0)) 0 3 = 0xFFFFFFFFFFFFFFFF ∧
    vOf (after (.remZ 3 1 2 0 0 0) (st2 7 0)) 0 3 = 7 := by decide
/-- R211: truncation toward zero; the remainder has the dividend's sign. −7 by 2. -/
theorem test_divide_truncates : vOf (after (.divS 3 1 2 0 0 0) (st2 0xFFFFFFFFFFFFFFF9 2)) 0 3 = 0xFFFFFFFFFFFFFFFD ∧
    vOf (after (.remS 3 1 2 0 0 0) (st2 0xFFFFFFFFFFFFFFF9 2)) 0 3 = 0xFFFFFFFFFFFFFFFF := by decide
/-- R211: a shift takes b[5:0]; 65 shifts by one. -/
theorem test_shift_amount : vOf (after (.shl 3 1 2 0 0 0) (st2 3 65)) 0 3 = 6 ∧
    vOf (after (.sar 3 1 2 0 0 0) (st2 0x8000000000000000 63)) 0 3 = 0xFFFFFFFFFFFFFFFF := by decide
/-- R211: bits 127 to 64 of (2^64 − 1)². -/
theorem test_mulh : vOf (after (.mulhZ 3 1 2 0 0 0) (st2 0xFFFFFFFFFFFFFFFF 0xFFFFFFFFFFFFFFFF)) 0 3 = 0xFFFFFFFFFFFFFFFE := by decide
/-- R320: unsigned 1 < 2 sets N, and C is clear; lat takes the difference. -/
theorem test_cmpz : flagsOf (after (.cmpZ 1 2 0 0) (st2 1 2)) 3 = 8 ∧
    ((after (.cmpZ 1 2 0 0) (st2 1 2)).me.lane 3).lat = 0xFFFFFFFFFFFFFFFF := by decide
/-- R319: a field of 8 bits at position 4. -/
theorem test_bfx : vOf (after (.bfx 3 1 2 0 0 0) (st2 0xABCD 0x804)) 0 3 = 0xBC := by decide
/-- R376: tid as a source. R377: MOVH shifts by 17. -/
theorem test_mov_tid : vOf (after (.mov 1 0x7A 0 0) st0) 9 1 = 9 := by decide
theorem test_movh : vOf (after (.movh 1 5) (st2 3 0)) 2 1 = 0x60005 := by decide
/-- R347: 1.0 + 1.0, and 1.0 / 3.0 rounded to nearest. -/
theorem test_fadd : vOf (after (.faddD 3 1 2 0 0 0) (one (st2 0x3FF0000000000000 0x3FF0000000000000))) 0 3 = 0x4000000000000000 := by
  decide
theorem test_fdiv : vOf (after (.fdivD 3 1 2 0 0 0) (one (st2 0x3FF0000000000000 0x4008000000000000))) 0 3 = 0x3FD5555555555555 := by
  decide
/-- R349: FCMP of a NaN is unordered: C and V. -/
theorem test_fcmp_nan : flagsOf (after (.fcmpD 1 2 0 0) (one (st2 0x7FF8000000000000 0))) 0 % 2 = 1 := by decide
/-- R210: 2.5 to an integer: to nearest even 2, up 3. -/
theorem test_cvt_rounds : vOf (after (.cvtS64D 3 1 0) (one (st2 0x4004000000000000 0))) 0 3 = 2 ∧
    vOf (after (.cvtS64D 3 1 2) (one (st2 0x4004000000000000 0))) 0 3 = 3 := by decide
/-- R404: the mask of lanes whose value is not zero. -/
theorem test_vote : vOf (after (.vote 2 1 0) (State.reg (State.reg st0 0 1 1) 5 1 9)) 7 2 = 0x21 := by decide
/-- R391: SHFL.XOR with 1 exchanges neighbours. -/
theorem test_shfl_xor : vOf (after (.shflXor 3 1 2 0 0) (State.reg (regAll st0 2 1) 4 1 77)) 5 3 = 77 := by decide
/-- R123: a store to the local-store window: the bytes, the least significant first. -/
theorem test_store_local : mread ((after (.st16 2 1 3) (one (st2 0xFF00000000000010 0xABCD))).team 1).lstore 0x16 2 = [0xCD, 0xAB] := by
  decide
/-- R390: LD.S8 extends the sign of a byte of the global window (physical 0x100000 holds the NOP's low byte 0, its high byte 0xCB). -/
theorem test_load_global : vOf (after (.ldS8 4 1 3) (one (st2 0x10000 0))) 0 4 = 0xFFFFFFFFFFFFFFCB := by decide
/-- R310: AADD on local store: the old value comes back, the sum is there. -/
theorem test_aadd : (let t := after (.aadd 3 1 2 0) (one (st2 0xFF00000000000020 5))
    (vOf t 0 3, mget 0x20 (t.team 1).lstore)) = (0, 5) := by decide
/-- R324: BR.LT goes where N differs from V, and on elsewhere. -/
theorem test_branch : (let s := st0.modMe fun g => g.modLane 2 fun y => { y with th := { y.th with nzcv := 8 } }
    let t := after (.br 0xB 3) s
    ((t.me.lane 2).pcv, (t.me.lane 3).pcv)) = (0x1000C, 0x10004) := by decide
/-- R400: SVC's code as TVAL, EPC its own address, the group in supervisor mode at TVEC. -/
theorem test_svc : (let t := after (.svc 1) st0
    (t.me.tval, t.me.epc, t.me.cause, t.me.sup, (t.me.lane 3).pcv)) = (1, 0x10000, 0x1B, true, 0x10100) := by decide
/-- R265: ERET goes back to EPC in user mode. -/
theorem test_eret : (let s := (super st0).modMe fun g => { g with epc := 0x20000 }
    let t := after .eret s
    (t.me.sup, (t.me.lane 3).pcv)) = (false, 0x20000) := by decide
/-- R332: LSCAP of a full vault, and CSRW of FPCR keeps nine bits. -/
theorem test_csrr : vOf (after (.csrr 1 0x0E) st0) 0 1 = 0x200000 := by decide
theorem test_csrw : (after (.csrw 1 0) (st2 0xFFFFFFFF 0)).myTeam.fpcr = 0x1FF := by decide
/-- R358, R359: JOIN of all, and KGET of k0, which every thread starts in. -/
theorem test_join : (after (.join 1) st0).me.mask 1 = 0xFFFF := by decide
theorem test_kget : vOf (after (.kget 0 3) st0) 8 3 = 0xFFFF := by decide
/-- R229: MZRO then nothing left; MFIL puts lane i's slot into element (i, 0). -/
theorem test_mfil : (((after (.mfil 2 0x10) (State.reg st0 3 0x10 7)).core 0).tile 2)[3 * 16]? = some 7 := by decide
/-- R112: PTOG of an offset beyond the private bytes P (none here) raises NOADDR, at TVEC. -/
theorem test_ptog : (after (.ptog 3 1 0) (one (st2 0xFE00000000000008 0))).me.cause = 0x06 := by decide
/-- R196: TSKB opens the one task; its number is in d and in TASKID. -/
theorem test_tskb : (let t := after (.tskb 3 1) (st2 0x10000 0)
    (vOf t 4 3, t.me.taskId)) = (1, 1) := by decide
/-- R379: NOP in the step function: every lane at the next word. -/
theorem test_step_nop : (match step (State.reset.withFetchWord 32 0xCB000000) with
    | .next t => (t.grp 1).lanes.all fun x => x.pcv == 0x10004
    | _ => false) = true := by decide

/-! ### Witnesses: states and operands that meet the hypotheses of each statement -/

/-- The team, the grid, the context and the core of the small states changed. -/
def tm_ (s : State) (f : Team → Team) : State := s.modTeam 1 f
def gr_ (s : State) (f : Grid → Grid) : State := s.modGrid 1 f
def cx_ (s : State) (f : Ctx → Ctx) : State := s.modCtx 0 f
def me_ (s : State) (f : Group → Group) : State := s.modMe f
/-- A register of a lane empty. -/
def void (s : State) (l : Nat) (k : RKey) : State :=
  s.modMe fun g => g.modLane l fun y => { y with th := { y.th with empties := [k] } }
/-- A team that can enter CONTV and WNDV. -/
def conts (s : State) : State := tm_ s fun t => { t with contv := 0x10200, wndv := 0x10300 }
/-- A team without vectors. -/
theorem stays {s : State} (h : s.localSeg s.me = none) (f : Bool) (ts : List (Nat × Word)) : StaysAt s f ts :=
  fun x hx => by rw [h] at hx; cases hx

def issueTurn : State := State.reset.withFetchWord 32 0xCB000000
theorem witness_StepRunsDecoded : ∃ (s u v t : State) (core dt gid : Nat) (pipe : Option Pipe) (rest : List Turn) (w : IWord) (i : Instr),
    s.sched = { dt := dt, act := .issue core pipe } :: rest ∧
    u = { (({ s with sched := rest } : State).clock (1 + dt)) with lastSite := siteOf (core % 1024) pipe } ∧
    u.halted (core % 1024) = false ∧ u.pickGroup (core % 1024) pipe = some gid ∧ u.deliverable gid = false ∧
    v = { u with cur := gid } ∧ v.me.wait ≠ .yield ∧ v.canIssue = true ∧
    v.fetch v.me v.me.pc = (Fetched.word w, t) ∧ decode w = .ok i := by
  refine ⟨issueTurn, _, _, _, 0, 0, 1, none, [], 0xCB000000#32, .nop, rfl, rfl, by decide, by decide, by decide, rfl, by decide,
    by decide, Prod.ext ?_ rfl, rfl⟩
  decide
/-- A turn of each kind but an issue. -/
theorem witness_StepRunsEvent : isEvent .snapshotArm = true ∧ (5 ∉ issueTurn.opKeys) ∧
    ∀ a ∈ [Act.event .snapshotArm, .operator 5, .sense 9, .control 0 (.load 0 8)], ∃ s : State, s.sched = [{ dt := 0, act := a }] :=
  ⟨rfl, by decide, fun a _ => ⟨{ State.reset with sched := [{ dt := 0, act := a }] }, rfl⟩⟩
/-- Where an address is fetched from, after the walk. -/
def fetched (s : State) (pc : Nat) : Except Cause Target := (s.tlbFill 0 0 pc).globalAt 0 0 pc .fetch
def causeOf {α : Type} (x : Except Cause α) : Option Cause := match x with | .error c => some c | .ok _ => none
theorem okOf {α : Type} {x : Except Cause α} {v : α} (h : x.toOption = some v) : x = .ok v := by cases x <;> cases h; rfl
theorem errOf {α : Type} {x : Except Cause α} {c : Cause} (h : causeOf x = some c) : x = .error c := by cases x <;> cases h; rfl
/-- A segment of 128 bytes pinned on core 0, its code in the instruction store; and the page at 0x10000 as SCO or RO. -/
def segment0 : Seg := { grid := 1, seg := 0, base := 0x10000, len := 0x80, code := toBytes 4 0xCB000000 }
def pinned (s : State) : State := s.modCore 0 fun c => { c with seg := some segment0 }
def typed (n : Nat) : State := { st0 with mem := mwrite 0x8008 (toBytes 1 (15 + 32 * n)) st0.mem }
theorem witness_FetchReads_stores : (pinned st0).localSeg (pinned st0).me = some segment0 ∧ segment0.base ≤ (0x1007C#64).toNat ∧
    (0x1007C#64).toNat < segment0.base + segment0.len ∧ segment0.holds 0x10080 = false ∧ st0.localSeg st0.me = none ∧
    fetched (typed 1) 0x10000 = .ok (.mem 0x100000 .sco none 0x10000) ∧ fetched (typed 2) 0x10000 = .ok (.mem 0x100000 .ro none 0x10000) ∧
    ((typed 1).tlbFill 0 0 0x10000).bad = [] :=
  ⟨by decide, by decide, by decide, by decide, by decide, okOf (by decide), okOf (by decide), by decide⟩
theorem witness_FetchReads : (1#64).toNat % 4 ≠ 0 ∧ (0xFF00000000000000#64).toNat % 4 = 0 ∧ window 0xFF00000000000000#64 ≠ 0 ∧
    window 0x10000#64 = 0 ∧ window 0xFFFFFFFFFFFFFC#64 = 0 ∧ fetched st0 0x10000 = .ok (.mem 0x100000 .coh none 0x10000) ∧
    (st0.tlbFill 0 0 0x10000).bad = [] ∧ fetched st0 0xFFFFFFFFFFFFFC = .error .page :=
  ⟨by decide, by decide, by decide, by decide, by decide, okOf (by decide), by decide, errOf (by decide)⟩
/-- A step or an instruction answers a next state. -/
def isNext (o : Out) : Bool := match o with | .next _ => true | _ => false
theorem goesTo {o : Out} (h : isNext o = true) : ∃ t, o = .next t := by
  cases o <;> first | exact ⟨_, rfl⟩ | cases h
theorem witness_MemoryFormKept : Memory.wf issueTurn.mem = true ∧ ∃ t, step issueTurn = .next t :=
  ⟨by decide, goesTo (by decide)⟩

theorem stands_of {s : State} (h : goes .nop s = true) : Stands s := stands h
theorem witness_ChecksInOrder : (encode (.join 12) = some 0xD0180000#32 ∧ Stands st0 ∧ (Instr.join 12).wf st0.me.W = false) ∧
    ((Instr.eret).wf st0.me.W = true ∧ privCheck .eret st0.me.sup = some .priv) ∧
    (Stands (me_ st0 fun g => { g with wbase := 64 }) ∧
      windowOk (usesOf (.mov 0x5F 1 0 0) st0.me 0) (me_ st0 fun g => { g with wbase := 64 }).me = false) ∧
    (st0.me.sup = false ∧ (Instr.csrr 1 0x40).wf 16 = true ∧ (Instr.csrr 1 0x4C).wf 16 = true ∧ (Instr.csrw 1 0x40).wf 16 = true ∧
      Stands (super st0) ∧ (super st0).me.sup = true ∧ ∀ n ∈ [5#7, 0x0E, 0x49, 0x4B], (Instr.csrw 1 n).wf 16 = true) :=
  ⟨⟨rfl, stands_of (by decide), by decide⟩, by decide, ⟨stands_of (by decide), by decide⟩, by decide, by decide, by decide,
    by decide, stands_of (by decide), by decide, by decide⟩

/-- `ADD v5, v4!, v6` with v4 empty in lane 3, where CONTV can be entered; and with v5 empty, where it blocks. -/
theorem witness_EmptyBlocksOrTraps :
    (let s := conts (void st0 3 (.v 4))
     let u := usesOf (.add 5 4 6 0 1 0) s.me s.myTeam.tix
     Stands s ∧ preCheck (.add 5 4 6 0 1 0) s.me s.myTeam.tix = none ∧ s.myTeam.contv ≠ 0 ∧ s.myTeam.freeFrame ≠ none ∧
      ∃ x ∈ u.srcs, x.f = true ∧ ∃ l ∈ x.lanes, s.me.fullKey l (s.me.key x.spec) = false) ∧
    (let s := void st0 3 (.v 5)
     let u := usesOf (.add 5 4 6 0 1 0) s.me s.myTeam.tix
     Stands s ∧ preCheck (.add 5 4 6 0 1 0) s.me s.myTeam.tix = none ∧ s.myTeam.contv = 0 ∧
      ∃ d ∈ u.dsts, ∃ l ∈ s.me.E, s.me.fullKey l (s.me.key d) = false) :=
  ⟨⟨stands_of (by decide), by decide, by decide, by decide, by decide⟩, ⟨stands_of (by decide), by decide, by decide, by decide⟩⟩

theorem witness_TvecEntry : st0.me.E ≠ [] ∧ st0.me.sup = false ∧ (st0.ctx (st0.ctxOf st0.me)).tvec ≠ 0 ∧ st0.me.taskId = 0 ∧
    st0.mmaInFlight st0.cur = false ∧ st0.myTeam.dest .trap = .tvec := by decide
/-- An MMA of the group in flight. -/
def busyMma (s : State) : State := s.modCore 0 fun c => { c with mmaQ := [{ gid := 1, team := 1, tile := 0, shape := 0, a := [], b := [], b2 := none, lanes := 0 }] }
theorem room_of {s : State} {d k : Nat} (h : s.bufferRoom d k = true) : s.canPost d k = true := by simp [State.canPost, h]
/-- A context without a trap vector. -/
def noTvec (s : State) : State := cx_ s fun c => { c with tvec := 0 }
theorem witness_TrapDestinations :
    ((conts st0).myTeam.contv ≠ 0 ∧ (conts st0).myTeam.wndv ≠ 0 ∧ (conts st0).myTeam.freeFrame ≠ none) ∧
    ((super st0).me.sup = true ∧ (super st0).me.taskId = 0 ∧ (super st0).mmaInFlight 1 = false ∧ (super st0).canPost (dieOf (super st0).me.core) 3 = true) ∧
    ((noTvec st0).myTeam.dest .ill = .tvec ∧ ((noTvec st0).ctx ((noTvec st0).ctxOf (noTvec st0).me)).tvec = 0 ∧
      (noTvec st0).me.taskId = 0 ∧ (noTvec st0).mmaInFlight (noTvec st0).cur = false ∧ (noTvec st0).canPost (dieOf (noTvec st0).me.core) 3 = true) ∧
    (busyMma st0).mmaInFlight (busyMma st0).cur = true :=
  ⟨by decide, ⟨by decide, by decide, by decide, room_of (by decide)⟩,
    ⟨by decide, by decide, by decide, by decide, room_of (by decide)⟩, by decide⟩
theorem witness_ContvEntry : (let s := conts st0
    s.me.sup = false ∧ s.me.taskId = 0 ∧ s.mmaInFlight s.cur = false ∧ s.myTeam.contv ≠ 0 ∧ s.myTeam.freeFrame = some 1) := by decide

theorem witness_SumResults : ∃ (i : Instr) (s : State) (d : Spec) (w : BitVec 1) (val : Nat → Word) (fl : Nat → Nzcv),
    (∀ l, Say.sum s l i = some (d, w, val l, fl l)) ∧ Issues i s ∧ Falls s :=
  ⟨.adc 3 1 2 1 0 0, st2 7 9, _, _, _, _, fun _ => rfl, runs (by decide)⟩
theorem witness_DivisionResults : ∃ (i : Instr) (s : State) (d : Spec) (w : BitVec 1) (val : Nat → Word),
    (∀ l, Say.division s l i = some (d, w, val l)) ∧ Issues i s ∧ Falls s :=
  ⟨.divS 3 1 2 1 0 0, st2 0x8000000000000000 0xFFFFFFFFFFFFFFFF, _, _, _, fun _ => rfl, runs (by decide)⟩
theorem witness_PlainResults :
    (∃ (i : Instr) (s : State) (d : Spec) (w : BitVec 1) (val : Nat → Word),
      (∀ l, Say.plainOp s l i = some (d, w, val l)) ∧ Issues i s ∧ Falls s) ∧
    (∃ (i : Instr) (s : State) (d : Spec) (w : BitVec 1) (val : Nat → Word),
      (∀ l, Say.moveOp s l i = some (d, w, val l)) ∧ Issues i s ∧ Falls s) ∧
    ∃ (i : Instr) (s : State) (d : Spec) (val : Nat → Word), (∀ l, Say.immediate s l i = some (d, val l)) ∧ Issues i s ∧ Falls s :=
  ⟨⟨.shl 3 1 2 1 0 0, st2 1 63, _, _, _, fun _ => rfl, runs (by decide)⟩,
   ⟨.bfi 3 1 2 1 0 0, st2 1 0x3F3F, _, _, _, fun _ => rfl, runs (by decide)⟩,
   ⟨.addi 0x79 1 0x200, st2 1 0, _, _, fun _ => rfl, runs (by decide)⟩⟩
theorem witness_CompareResults : ∃ (i : Instr) (s : State) (lat : Nat → Word) (fl : Nat → Nzcv),
    (∀ l, Say.compares s l i = some (lat l, fl l)) ∧ Issues i s ∧ Falls s :=
  ⟨.cmpZ 1 2 0 0, st2 1 2, _, _, fun _ => rfl, runs (by decide)⟩

theorem witness_FloatResults : ∃ (i : Instr) (s : State) (d : Spec) (w : BitVec 1) (r : Nat → FLane),
    (∀ l, Say.float s l i = some (d, w, r l)) ∧ Issues i s ∧ Falls s ∧ Say.quiet s r :=
  ⟨.fdivD 3 1 2 1 0 0, one (st2 0x3FF0000000000000 0), _, _, _, fun _ => rfl, (runs (by decide)).1, (runs (i := .nop) (by decide)).2,
    fun l hl => by
      have h : l = 0 := by simpa using (show l ∈ [0] from hl)
      subst h; decide⟩
/-- Every trap of FPCR enabled. -/
def trapsOn (s : State) : State := tm_ s fun t => { t with fpcr := 0x1FF }
theorem witness_FloatTraps : ∃ (i : Instr) (s : State) (d : Spec) (w : BitVec 1) (r : Nat → FLane),
    (∀ l, Say.float s l i = some (d, w, r l)) ∧ Issues i s ∧ ¬Say.quiet s r :=
  ⟨.fdivD 3 1 2 1 0 0, trapsOn (one (st2 0x3FF0000000000000 0)), _, _, _, fun _ => rfl, (runs (by decide)).1,
    fun h => absurd (h 0 (by decide)) (by decide)⟩
theorem witness_SignResults : ∃ (i : Instr) (s : State) (d : Spec) (w : BitVec 1) (val : Nat → Word) (fl : Nat → Nzcv),
    (∀ l, Say.signs s l i = some (d, w, val l, fl l)) ∧ Issues i s ∧ Falls s :=
  ⟨.fnegD 3 1 1 0, trapsOn (st2 0 0), _, _, _, _, fun _ => rfl, runs (by decide)⟩
/-- The smallest and the largest finite number of each format, and a rounding that is not exact. -/
theorem witness_RoundsAsItsModeSays : (0 : Int) < 1 ∧ (1 < 2 ^ b64.width ∧ b64.expo 1 ≠ 2 ^ b64.ew - 1) ∧
    0x7FEFFFFFFFFFFFFF < 2 ^ b64.width ∧ b64.expo 0x7FEFFFFFFFFFFFFF ≠ 2 ^ b64.ew - 1 := by decide
theorem witness_NanOperands : b32.isNaN 0x7FC00000 = true ∧ b32.isNaN 0x7F800001 = true ∧ b32.isNaN 0x7F800000 = false ∧
    b64.isNaN 0x7FF8000000000000 = true := by decide
theorem witness_SpecialResults : ∃ (i : Instr) (s : State) (d : Spec) (w : BitVec 1) (r : Nat → FLane),
    (∀ l, Say.special s l i = some (d, w, r l)) ∧ Issues i s ∧ Falls s ∧ ¬Say.quiet s r :=
  ⟨.frcpF 3 1 1 0, trapsOn (one (st2 0 0)), _, _, _, fun _ => rfl, (runs (by decide)).1, (runs (i := .nop) (by decide)).2,
    fun h => absurd (h 0 (by decide)) (by decide)⟩
theorem witness_SpecialResults_quiet : ∃ (i : Instr) (s : State) (d : Spec) (w : BitVec 1) (r : Nat → FLane),
    (∀ l, Say.special s l i = some (d, w, r l)) ∧ Issues i s ∧ Falls s ∧ Say.quiet s r :=
  ⟨.frcpF 3 1 1 0, one (st2 0x3F800000 0), _, _, _, fun _ => rfl, (runs (by decide)).1, (runs (i := .nop) (by decide)).2,
    fun l _ => by
      have h : (one (st2 0x3F800000 0)).fpTe = 0 := by decide
      rw [h]; exact BitVec.and_zero⟩
theorem witness_QuantiseResults : ∃ (i : Instr) (s : State) (d : Spec) (val : Nat → Word) (fl : Nat → FpFlags),
    (∀ l, Say.quantise s l i = some (d, val l, fl l)) ∧ Issues i s ∧ Falls s :=
  ⟨.qdxX8 4 2 4 1, me_ st0 (fun g => { g with W := 32 }), _, _, _, fun _ => rfl, runs (by decide)⟩
theorem witness_LaneResults : (∃ (i : Instr) (s : State) (d : Spec) (val : Nat → Word),
    (∀ l, Say.lanes s l i = some (d, val l)) ∧ Issues i s ∧ Falls s) ∧
    (Issues (.xrd 4 3 2 0) (st2 0 15) ∧ Falls (st2 0 15) ∧ (∀ q, (st2 0 15).me.key 4 ≠ .q q) ∧
      (st2 0 15).remap 15 = some ((st2 0 15).me, 15)) ∧
    ((void (st2 0 15) 15 (.v 3)).me.fullKey 15 (.v 3) = false ∧ Issues (.xrd 4 3 2 0) (void (st2 0 15) 15 (.v 3))) :=
  ⟨⟨.shflUp 3 1 2 0 0, st2 1 63, _, _, fun _ => rfl, runs (by decide)⟩,
   ⟨(runs (by decide)).1, (runs (i := .nop) (by decide)).2, (by rw [show (st2 0 15).me.key 4 = .v 4 by decide]; simp), (by decide)⟩,
   by decide, (runs (by decide)).1⟩

/-- Lane 0 alone, v1 an address and v2 a number. -/
def at1 (x y : Word) : State := one (st2 x y)
def put (s : State) (pa n v : Nat) : State := { s with mem := mwrite pa (toBytes n v) s.mem }
/-- The nonzero bytes of tables with a versioned page at virtual address 0x20000 and a page of device registers at 0x30000
(R113, R114); of domain 1 (R162): open version 5, oldest 3, one page from 0x20000 on, enabled; of its page entry (R163) with
the versions 5, 3 and 2; and of a pool of four entries that holds one frame (R165). -/
def domMem : List Host.Cell :=
  [
    (0x2000, 0x01), (0x2001, 0x40), (0x4000, 0x01), (0x4001, 0x60), (0x6000, 0x01), (0x6001, 0x80), (0x8008, 0x0F),
    (0x800A, 0x10), (0x8010, 0x8F), (0x8011, 0x01), (0x8012, 0x40), (0x8018, 0x6F), (0x801E, 0xFF), (0x100003, 0xCB)] ++ [
    (0x300040, 0x05), (0x300044, 0x03), (0x30004A, 0x02), (0x300050, 0x01), (0x30005A, 0x31), (0x300062, 0x32),
    (0x30007F, 0x01), (0x310000, 0x05), (0x310004, 0x01), (0x31000A, 0x40), (0x310010, 0x03), (0x310014, 0x01),
    (0x31001A, 0x41), (0x310020, 0x02), (0x310024, 0x01), (0x31002A, 0x43), (0x320004, 0x01), (0x320008, 0x04),
    (0x320012, 0x42)]
def dom1 (s : State) : State := { (cx_ s fun c => { c with domTab := 0x300000 }) with mem := domMem }
def whoOf (s : State) : Who := s.who s.me 0
/-- The accesses of the lone lane find one target. -/
def target (s : State) (va : Word) (n al : Nat) (k : AKind) : Option Target :=
  match s.targets (whoOf s) va n al k with | .ok [(t, m)] => if m = n then some t else none | _ => none
theorem target_of {s : State} {va : Word} {n al : Nat} {k : AKind} {t : Target} (h : target s va n al k = some t) :
    s.targets (whoOf s) va n al k = .ok [(t, n)] := by
  unfold target at h
  split at h
  · next t' m e => split at h <;> simp_all
  · cases h
theorem of0 {E : List Nat} {l : Nat} (h : E = [0]) (hl : l ∈ E) : l = 0 := by subst h; simpa using hl

theorem witness_LongClass : st0.me.key 0x72 = .q 2 ∧ st0.me.E ≠ [] ∧ st0.me.key 3 = .v 3 := by decide

/-- LDV from local store. -/
theorem witness_LoadsComplete : ∃ (i : Instr) (s : State) (x : Say.Load) (tgt : Nat → Target) (bs : Nat → List Byte),
    Say.load s tgt i = some x ∧ Issues i s ∧ Falls s ∧ s.me.wait ≠ .remote ∧ s.bad = [] ∧
    (∀ l ∈ s.me.E, s.prefetch (s.who s.me l) (x.va l) x.n = s ∧
      s.targets (s.who s.me l) (x.va l) x.n x.al .load = .ok [(tgt l, x.n)] ∧ Say.loads s x.n (bs l) (Say.version s i l) (tgt l)) :=
  ⟨.ldv 4 1 2 0, at1 0xFF0000000000FFF8 0, _, fun _ => .store 1 0xFFF8,
    fun _ => mread (at1 0xFF0000000000FFF8 0).myTeam.lstore 0xFFF8 8, rfl, (runs (by decide)).1, (runs (i := .nop) (by decide)).2,
    by decide, rfl, (by intro l hl; cases of0 (by decide) hl; exact ⟨by decide, target_of (s := at1 0xFF0000000000FFF8 0) (by decide), rfl⟩)⟩
/-- A state whose lane has read the line of its address: the translation is cached, and the line is in its cluster. -/
def warm (s : State) : State := after (.ld64 4 1 0) s
theorem witness_LoadsComplete_memory :
    (let s := warm (at1 0x10000 0)
     s.prefetch (whoOf s) (0x10000#64) 8 = s ∧ target s 0x10000 8 1 .load = some (.mem 0x100000 .coh none 0x10000) ∧
     s.lineSt (clusterOf s.me.core) (lineOf 0x100000) = some .E ∧ s.me.taskId = 0 ∧ linesOf 0x100000 8 = [0x2000]) := by decide
theorem witness_LoadsComplete_ray :
    (∃ (s : State) (tgt : Target), Issues (.rbox 4 1 0) s ∧ Falls s ∧ s.bad = [] ∧ s.me.E = [0] ∧
      s.prefetch (whoOf s) (s.rd 1 0) 128 = s ∧ s.targets (whoOf s) (s.rd 1 0) 128 128 .load = .ok [(tgt, 128)] ∧
      (∀ pa dom v, tgt ≠ .mem pa .dev dom v) ∧ Say.reads s 0 96 (mread s.myTeam.lstore 0x80 96) tgt ∧ s.me.taskId = 0) ∧
    ∃ (s : State) (tgt : Target), Issues (.rtri 4 1 0) s ∧ Falls s ∧ s.me.E = [0] ∧
      s.prefetch (whoOf s) (s.rd 1 0) 48 = s ∧ s.targets (whoOf s) (s.rd 1 0) 48 16 .load = .ok [(tgt, 48)] ∧
      Say.reads s 0 40 (mread s.myTeam.lstore 0x10 40) tgt :=
  ⟨⟨at1 0xFF00000000000080 0, .store 1 0x80, (runs (by decide)).1, (runs (i := .nop) (by decide)).2, rfl, by decide, by decide,
    target_of (by decide), (fun _ _ _ h => by cases h), rfl, by decide⟩,
   ⟨at1 0xFF00000000000010 0, .store 1 0x10, (runs (by decide)).1, (runs (i := .nop) (by decide)).2, by decide, by decide,
    target_of (by decide), rfl⟩⟩

theorem witness_StoresComplete : ∃ (i : Instr) (s : State) (n al : Nat) (va : Nat → Word) (val : Nat → Nat) (tgt : Nat → Target),
    Say.store s i = some (n, al, va, val) ∧ Issues i s ∧ Falls s ∧ s.me.wait ≠ .remote ∧ s.me.taskId = 0 ∧ s.sco = [] ∧
    (s.me.W * n ≠ 128 ∨ s.me.E.length < s.me.W) ∧
    (∀ l ∈ s.me.E, s.prefetch (s.who s.me l) (va l) n = s ∧
      s.targets (s.who s.me l) (va l) n al .store = .ok [(tgt l, n)] ∧ Say.writable s n (tgt l)) ∧
    (∀ l ∈ s.me.E, ∀ m ∈ s.me.E, l ≠ m → Say.apart n (tgt l) (tgt m)) :=
  ⟨.st64 2 1 0x3FF, at1 0xFF00000000010000 7, _, _, _, _, fun _ => .store 1 0xFFF8, rfl, (runs (by decide)).1,
    (runs (i := .nop) (by decide)).2, by decide, rfl, rfl, by decide,
    (by intro l hl; cases of0 (by decide) hl; exact ⟨by decide, target_of (s := at1 0xFF00000000010000 7) (by decide), trivial⟩),
    (by intro l hl m hm h; cases of0 (by decide) hl; cases of0 (by decide) hm; exact absurd rfl h)⟩
/-- A store to memory in place: the line is held in M after a first store. -/
theorem witness_StoresComplete_memory :
    (let s := after (.st64 2 1 0) (at1 0x10008 7)
     s.prefetch (whoOf s) (0x10008#64) 8 = s ∧ target s 0x10008 8 1 .store = some (.mem 0x100008 .coh none 0x10008) ∧
     linesOf 0x100008 8 = [0x2000] ∧ s.lineSt (clusterOf s.me.core) 0x2000 = some .M) := by decide

theorem witness_AtomicsComplete : ∃ (i : Instr) (s : State) (op : AOp) (ar : Bool) (d a b : Spec) (tgt : Nat → Target),
    Say.atomic i = some (op, ar, d, a, b) ∧ Issues i s ∧ Falls s ∧ s.me.wait ≠ .remote ∧ s.me.taskId = 0 ∧ s.sco = [] ∧ s.bad = [] ∧
    let n := Say.atomicSize op
    (∀ l ∈ s.me.E, s.prefetch (s.who s.me l) (s.rd a l) n = s ∧
      s.targets (s.who s.me l) (s.rd a l) n n .atomic = .ok [(tgt l, n)] ∧ Say.atomicPlace s (tgt l)) ∧
    (∀ l ∈ s.me.E, ∀ m ∈ s.me.E, l ≠ m → Say.apart n (tgt l) (tgt m)) ∧ ∀ l ∈ s.me.E, ∃ tm off, tgt l = .store tm off :=
  ⟨.acas 3 1 2 0, at1 0xFF00000000000020 5, .cas, false, 3, 1, 2, fun _ => .store 1 0x20, rfl, (runs (by decide)).1,
    (runs (i := .nop) (by decide)).2, by decide, rfl, rfl, rfl,
    (by intro l hl; cases of0 (by decide) hl; exact ⟨by decide, target_of (s := at1 0xFF00000000000020 5) (by decide), trivial⟩),
    (by intro l hl m hm h; cases of0 (by decide) hl; cases of0 (by decide) hm; exact absurd rfl h), fun _ _ => ⟨1, 0x20, rfl⟩⟩
/-- A reduction of a lone lane on a COH page whose translation is cached. -/
theorem witness_AtomicsComplete_reduction :
    (let s := (at1 0x10008 5).tlbFill 0 0 0x10008
     goes (.aadd 0x79 1 2 0) s = true ∧ s.me.E = [0] ∧ s.prefetch (whoOf s) (0x10008#64) 8 = s ∧
     target s 0x10008 8 8 .atomic = some (.mem 0x100008 .coh none 0x10008) ∧ tget (lineOf 0x100008) s.coh.dir = none ∧
     s.sco = [] ∧ s.bad = []) := by decide

/-- The state after the walk of a lone lane. -/
def walked1 (s : State) (va : Word) : State := Say.walked s 8 fun _ => va
/-- A page that no table maps. -/
theorem witness_AccessTraps : (goes (.ld64 4 1 0) (at1 0x70000 0) = true ∧ Say.access (at1 0x70000 0) (.ld64 4 1 0) ≠ none ∧
    (at1 0x70000 0).me.E = [0]) ∧
    causeOf ((walked1 (at1 0x70000 0) 0x70000).targets (whoOf st0) 0x70000 8 1 .load) = some .page :=
  ⟨⟨by decide, by decide, by decide⟩, by decide⟩
def old2 : State := dom1 (at1 0x20000 2)
def new6 : State := dom1 (at1 0x20000 6)
/-- Versions below the oldest and above the open one. -/
theorem witness_AccessTraps_version : (goes (.ldv 4 1 2 0) old2 = true ∧
      target (walked1 old2 0x20000) 0x20000 8 8 .load = some (.mem 0x400000 .coh (some 1) 0x20000)) ∧
    ((old2.rd 2 0).toNat % 2 ^ 32 < (walked1 old2 0x20000).domOldest 0 1) ∧ goes (.ldv 4 1 2 0) new6 = true ∧
    (walked1 new6 0x20000).domOpen 0 1 < (new6.rd 2 0).toNat % 2 ^ 32 :=
  ⟨⟨by decide +kernel, by decide +kernel⟩, by decide +kernel, by decide +kernel, by decide +kernel⟩
/-- A device register. -/
theorem witness_AccessTraps_device : goes (.ld64 4 1 0) (dom1 (at1 0x30000 0)) = true ∧
    target (walked1 (dom1 (at1 0x30000 0)) 0x30000) 0x30000 8 1 .load = some (.device 0xFF000000000000) := ⟨by decide +kernel, by decide +kernel⟩
/-- The addresses at which the clauses meet: the end of the local store, of the global window and of a page. -/
theorem witness_AccessTraps_ranges : (0xFF0000000000FFF9#64).toNat % 2 ^ 48 + 8 > 65536 ∧ (st0.team 1).lsize = 65536 ∧
    (0xFF0000000000FFF8#64).toNat % 2 ^ 48 + 8 ≤ 65536 ∧ (0xFE00000000000000#64).toNat / 2 ^ 56 = 0xFE ∧
    (st0.grid (st0.team 1).grid).pkt.priv = 0 ∧ (0x0100000000000000#64).toNat / 2 ^ 56 = 1 ∧
    (0x00FFFFFFFFFFFFF8#64).toNat + 8 ≤ 2 ^ 56 ∧ (0x1FFF8#64).toNat % 65536 + 8 ≤ 65536 := by decide
/-- A thread's private slot of 64 bytes behind a window pointer, its last byte and the one behind it; and a team that spans two
clusters, whose scope .team asks for SCO actions. -/
def priv64 (x : Word) : State := gr_ (at1 x 0) fun g => { g with pkt := { g.pkt with priv := 64 }, arena := 0x40000 }
theorem witness_CacheResults : (goes (.ptog 3 1 0) (at1 0x10000 0) = true ∧ Say.global (at1 0x10000 0) 0 0x10000 = some 0x10000) ∧
    (goes (.ptog 3 1 0) (priv64 0xFE0000000000003F) = true ∧ Say.global (priv64 0xFE0000000000003F) 0 0xFE0000000000003F = some 0x4003F) ∧
    (goes (.ptog 3 1 0) (priv64 0xFE00000000000040) = true ∧ (priv64 0xFE00000000000040).me.E = [0] ∧
      Say.global (priv64 0xFE00000000000040) 0 0xFE00000000000040 = none ∧ Say.global (at1 0 0) 0 0xFF00000000000000 = none) ∧
    goes (.flsh 2) st0 = true ∧ goes (.flsh 0) st0 = true ∧ goes (.invl 4) st0 = true ∧ goes (.invl 1) st0 = true ∧
    goes (.pref 1 3) st0 = true ∧ (¬Say.scoped st0 0) ∧ (¬Say.scoped st0 1) ∧ Say.scoped st0 2 ∧ Say.scoped st0 4 :=
  ⟨by decide, by decide, by decide, by decide, by decide, by decide, by decide, by decide,
    fun h => h.elim (by decide) fun h => absurd h.2 (by decide), fun h => h.elim (by decide) fun h => absurd h.1 (by decide),
    .inl (by decide), .inl (by decide)⟩

theorem witness_TransferResults : ∃ (i : Instr) (s : State) (tgt : Nat → Word) (link : Option Spec),
    (∀ l, Say.transfer s l i = some (tgt l, link)) ∧ Issues i s ∧ StaysAt s false (s.me.E.map fun l => (l, tgt l)) :=
  ⟨.jmpl 3 1, st2 0x10000 0, _, _, fun _ => rfl, (runs (by decide)).1, stays (by decide) _ _⟩
/-- With an open task, with an MMA in flight, and with every lane staying on its core. -/
theorem witness_BrgResults : ((me_ st0 fun g => { g with taskId := 1 }).brgBarred = true ∧
      goes (.brg 0xF 2) (me_ st0 fun g => { g with taskId := 1 }) = true) ∧
    ((busyMma st0).brgBarred = false ∧ (busyMma st0).mmaInFlight 1 = true ∧ goes (.brg 0xF 2) (busyMma st0) = true) ∧
    (st0.brgBarred = false ∧ st0.mmaInFlight 1 = false ∧ (∀ x ∈ st0.brgLanes 0xF 2, x.2.2 = true) ∧
      st0.brgFits (st0.brgLanes 0xF 2) = true ∧ goes (.brg 0xF 2) st0 = true ∧ (st0.brgLanes 0xF 2).length = 16) := by
  and_intros <;> decide +kernel

/-- A lone lane of a team with a free tid. -/
def roomy (x : Word) : State := tm_ (at1 x 9) fun t => { t with cap := 17 }
theorem witness_SpawnAndExit : (goes (.spawn 3 1 2) (at1 2 0) = true ∧ (at1 2 0).me.E = [0] ∧ ((at1 2 0).rd 1 0).toNat % 4 ≠ 0) ∧
    (goes (.spawn 3 1 2) (super st0) = true ∧ (super st0).me.sup = true) ∧
    (goes (.spawn 3 1 2) (at1 0x10000 0) = true ∧ (at1 0x10000 0).spawnBad 0x10000 = false ∧ (at1 0x10000 0).myTeam.freeTid = none) ∧
    (goes (.spawn 3 1 2) (roomy 0x10000) = true ∧ (roomy 0x10000).spawnBad 0x10000 = false ∧
      (roomy 0x10000).myTeam.freeTid = some 16 ∧
      (((roomy 0x10000).modTeam 1 fun x => { x with live := x.live ++ [16] }).spawnRec 16 0x10000 9).isSome = true) ∧
    (goes .exit st0 = true ∧ st0.myTeam.frames = []) := by
  and_intros <;> decide +kernel
theorem witness_SoftwareTraps : (goes (.trap 127) st0 = true ∧ goes (.svc 0) st0 = true ∧ goes (.bkpt 5) st0 = true ∧
      st0.mmaInFlight 1 = false ∧ st0.me.sup = false ∧ st0.me.taskId = 0 ∧ (st0.ctx (st0.ctxOf st0.me)).tvec ≠ 0) ∧
    goes (.bkpt 5) (super st0) = true ∧ (super st0).mmaInFlight 1 = false ∧ (super st0).me.sup = true ∧ (super st0).me.taskId = 0 ∧
    (super st0).canPost (dieOf (super st0).me.core) 3 = true := ⟨by decide, by decide, by decide, by decide, by decide, room_of (by decide)⟩
theorem witness_TrapReturn : (goes .eret (super st0) = true ∧ (super st0).me.eMask = (super st0).me.tlanes.toNat) ∧
    (let s := me_ (super st0) fun g => { g with tlanes := 1 }
     goes .eret s = true ∧ s.me.eMask ≠ s.me.tlanes.toNat) ∧
    (let s := me_ (super st0) fun g => { g with kept := some (List.replicate 16 (.ready, 0x10040, none)) }
     goes .eret s = true ∧ s.me.eMask = s.me.tlanes.toNat ∧ s.me.kept = some (List.replicate 16 (.ready, 0x10040, none))) := by
  and_intros <;> decide +kernel
theorem witness_NopOnlyAdvances : ((0xCB000001#32).toNat / 2 ^ 24 = 0xCB ∧ (0xCB000001#32) ≠ 0xCB000000#32) ∧ Stands st0 ∧
    goes .nop st0 = true := ⟨by decide, stands_of (by decide), by decide⟩

/-- A request to leave (R270). -/
def asked (s : State) : State := tm_ s fun t => { t with preq := some { until_ := 1000, deadline := false } }
/-- A frame of group 1 with number 1, and v1 its number. -/
def parked (w : FrameWait) (s : State) : State :=
  let g := s.me.toGState
  tm_ (regAll s 1 1) fun t => { t with frames := [(1, { gid := 1, st := g, until_ := w, tagged := false })] }
theorem witness_YieldAndResume : (goes (.winb 7) st0 = true ∧ goes (.winb 8) st0 = true ∧ st0.me.R = 128) ∧
    (goes .yield st0 = true ∧ st0.myTeam.preq = none) ∧
    (goes .yield (asked st0) = true ∧ (asked st0).myTeam.preq ≠ none ∧ (asked st0).canYield = true) ∧
    (goes .yield (asked (void st0 3 (.v 40))) = true ∧ (asked (void st0 3 (.v 40))).canYield = false) ∧
    (goes (.resm 4 1) st0 = true ∧ st0.myTeam.frames = []) ∧
    (goes (.resm 4 1) (parked .now st0) = true ∧ (parked .now st0).rd 1 0 = 1 ∧ (parked .now st0).me.E = (parked .now st0).me.aliveLanes ∧
      (tget 1 (parked .now st0).myTeam.frames).any (fun f => (parked .now st0).frameReady f &&
        f.st.lanes.all fun x => x.status == .ready) = true) ∧
    (goes (.resm 4 1) (parked (.reply 3) st0) = true ∧
      (tget 1 (parked (.reply 3) st0).myTeam.frames).any (fun f => (parked (.reply 3) st0).frameReady f) = false) ∧
    (let s := me_ (parked .now st0) fun g => g.modLane 3 fun y => { y with status := .waitK 1 }
     goes (.resm 4 1) s = true ∧ s.me.E ≠ s.me.aliveLanes) := by
  and_intros <;> decide +kernel

theorem witness_MaskResults : (∃ (i : Instr) (s : State) (k m : Nat) (check : Bool), Say.maskOp s i = some (k, m, check) ∧ Issues i s ∧
      Falls s ∧ s.me.W ≤ 64) ∧
    (goes (.waitk 0) st0 = true ∧ st0.localSeg st0.me = none) ∧ goes (.kget 0 3) st0 = true :=
  ⟨⟨.klog 1 0 0 4, st0, _, _, _, rfl, (runs (by decide)).1, (runs (i := .nop) (by decide)).2, by decide⟩, by decide, by decide⟩
/-- A team with a live thread elsewhere; a Bramble grid with its home on another core; a cooperative grid. -/
def more (s : State) : State := tm_ s fun t => { t with live := upTo 17, cap := 17 }
def coop (s : State) : State := gr_ s fun g => { g with pkt := { g.pkt with flags := 4 } }
def farHome (s : State) : State := tm_ (gr_ s fun g => { g with pkt := { g.pkt with flags := 8 } }) fun t => { t with home := 1 }
def tasked (s : State) : State := me_ s fun g => { g with taskId := 1 }
theorem witness_BarrierResults : (goes .bart (tasked st0) = true ∧ goes .bart (more st0) = true ∧ (more st0).me.taskId = 0 ∧
      (more st0).myGrid.bramble = false ∧ 16 ∈ (more st0).myTeam.live ∧ 16 ∉ (more st0).myTeam.bartAt ∧
      goes .bart (farHome st0) = true ∧ (farHome st0).myGrid.bramble = true ∧ (farHome st0).me.core ≠ (farHome st0).myTeam.home) ∧
    (goes .barg st0 = true ∧ st0.myGrid.cooperative = false ∧ goes .barg (coop (more st0)) = true ∧
      (coop (more st0)).myGrid.cooperative = true ∧ 1 ∈ (coop (more st0)).myGrid.teams ∧ (coop (more st0)).myTeam.ending = false) :=
  ⟨by decide, by decide⟩
/-- The comparand differs from the word, which is zero, and equals it. -/
theorem witness_WaitAndFence : (goes (.waita 3 1 2 0) (at1 0xFF0000000000FFF8 5) = true ∧ goes (.waita 3 1 2 1) (at1 0xFF0000000000FFF8 5) = true ∧
      (at1 0xFF0000000000FFF8 5).me.E = [0] ∧ ((at1 0xFF0000000000FFF8 5).rd 1 0).toNat = 0xFF00 * 2 ^ 48 + 0xFFF8 ∧
      (at1 0xFF0000000000FFF8 5).anchors = [] ∧ (at1 0xFF0000000000FFF8 5).monitors = [] ∧ (at1 0xFF0000000000FFF8 5).sco = [] ∧
      (at1 0xFF0000000000FFF8 5).myTeam.lsize = 65536 ∧ ofBytes (mread st0.myTeam.lstore 0xFFF8 8) = 0) ∧
    (goes (.fence 3 4) st0 = true ∧ goes (.fence 2 4) st0 = true ∧ st0.readsOut = false ∧ (warm (at1 0x10000 0)).readsOut = true) ∧
    goes (.fence 0 4) (me_ (warm (at1 0x10000 0)) fun g => g.goTo [(0, 0x10000)]) = true ∧ goes (.waita 3 1 2 0) (tasked st0) = true := by
  and_intros <;> decide +kernel
theorem witness_ControlRegisters : (goes (.csrr 1 6) st0 = true ∧ goes (.csrr 1 6) (farHome st0) = true ∧
      (farHome st0).myGrid.bramble = true ∧ (farHome st0).me.core ≠ (farHome st0).myTeam.home) ∧
    (goes (.csrw 1 2) (st2 0x10200 0) = true ∧ Say.csrBits 2 ≠ none ∧ tget 1 st0.teams ≠ none ∧ tget (st0.ctxOf st0.me) st0.ctxs ≠ none ∧
      goes (.csrw 1 2) (st2 0x10202 0) = true ∧ goes (.csrw 1 3) (st2 0x7F 0) = true ∧ goes (.csrw 1 1) (st2 31 0) = true) ∧
    (goes (.csrw 1 0x47) (super st0) = true ∧ (super st0).myCtx.lkNew = none ∧ (super st0).me.wait ≠ .lkmat) := by
  and_intros <;> decide +kernel

/-- The accumulator store of the core is another team's. -/
def taken (s : State) : State := s.modCore 0 fun c => { c with owner := .team 2 }
theorem some_of {α : Type} {x : Option α} {p : α → Bool} (h : x.any p = true) : ∃ u, x = some u ∧ p u = true := by
  cases x <;> simp_all
theorem witness_MatrixResults : ((taken st0).claim = none ∧ goes (.mma 0 4 8 0) (taken st0) = true ∧ (taken st0).myTeam.paired = false ∧
      goes (.mzro 15) (taken st0) = true ∧ goes (.mfil 2 0x10) (taken st0) = true ∧ goes (.mdrn 2 0x10 0x79 0) (taken st0) = true) ∧
    (goes (.mma 0 4 8 0) st0 = true ∧ goes (.mzro 15) st0 = true ∧ goes (.mfil 2 0x10) st0 = true ∧ goes (.mdrn 2 0x10 0x79 0) st0 = true ∧
      fragFull st0.me 4 0 = true ∧ fragFull st0.me 8 0 = true ∧ st0.myTeam.paired = false ∧ st0.me.W = 16 ∧ st0.me.wait = .none ∧
      ∀ n, n < 256 / 16 → st0.me.key (BitVec.ofNat 7 (0x10 + n)) = .v (0x10 + n)) ∧
    (∃ u, st0.claim = some u ∧ (!u.mmaHeld && !u.tileBusy 2 && !u.tileBusy 15) = true) :=
  ⟨⟨by decide, by decide, by decide, by decide, by decide, by decide⟩, by decide, some_of (by decide)⟩
/-- A paired team: group 1 on core 0, its partner on core 1. -/
def twins : State :=
  let s := tm_ st0 fun t => { t with paired := true }
  { s with groups := s.groups ++ [(2, { s.grp 1 with core := 1, num := (s.grp 1).num + 1 })] }
/-- The MMA of a group whose array is busy, above the power limit; one whose fragment is not full; and a paired one. -/
theorem witness_MatrixResults_waits :
    (let s : State := { busyMma st0 with hot := true }
     goes (.mma 2 4 8 0) s = true ∧ s.claim.any (fun u => u.mmaHeld) = true ∧ s.myTeam.paired = false) ∧
    (let s := void st0 3 (.v 4)
     goes (.mma 2 4 8 0) s = true ∧ fragFull s.me 4 0 = false ∧ s.me.wait = .none ∧ s.claim.isSome = true) ∧
    (goes (.mma 2 4 8 0) twins = true ∧ Say.second twins 2 8 0 (some ((twins.grp 2).frag 0 8 0)) ∧ twins.claim.any (fun u => !u.mmaHeld) = true) :=
  ⟨by decide, by decide, by decide, ⟨rfl, by decide, by decide, twins.grp 2, rfl, by decide, by decide, by decide, rfl⟩, by decide⟩
theorem witness_TileImages : goes (.msav 1) (at1 0xFF00000000000000 0) = true ∧ goes (.mrst 1) (at1 0xFF00000000000000 0) = true ∧
    ((at1 0xFF00000000000000 0).core 0).mmaQ = [] ∧ (at1 0xFF00000000000000 0).imageBar 0 = none ∧
    target (at1 0xFF00000000000000 0) 0xFF00000000000000 32768 128 .store = some (.store 1 0) ∧
    (at1 0xFF00000000000000 0).prefetch (whoOf (at1 0 0)) 0xFF00000000000000 32768 = at1 0xFF00000000000000 0 := by
  and_intros <;> decide +kernel

/-- Tag 3 ready, tag 4 ready with an error; v1 a mask. -/
def tagged (m : Word) : State := tm_ (st2 m 0) fun t => { t with tags := [(3, { ready := true }), (4, { ready := true, err := some (.engerr, 8) })] }
theorem witness_TagResults : ((tagged 8).tagBar 8 false = false ∧ (tagged 8).tagBar 8 true = false ∧ goes (.wtal 1) (tagged 8) = true ∧
      goes (.wtan 2 1) (tagged 8) = true ∧ goes (.ffrt 2 1) (tagged 8) = true ∧ goes (.tgcl 1) (tagged 8) = true ∧
      ((tagged 8).myTeam.tag 3).ready = true ∧ ((tagged 8).myTeam.tag 3).err = none) ∧
    (((tagged 16).myTeam.tag 4).err = some (.engerr, 8) ∧ goes (.wtal 1) (tagged 16) = true ∧ goes (.wtan 2 1) (tagged 16) = true) ∧
    (((tagged 1).myTeam.tag 0).ready = false ∧ goes (.wtal 1) (tagged 1) = true ∧ goes (.wtan 2 1) (tagged 1) = true ∧
      goes (.ffrt 2 1) (tagged 1) = true) ∧
    ((tasked st0).tagBar 0 false = true ∧ goes (.wtal 1) (tasked st0) = true ∧
      (tm_ (st2 2 0) fun t => { t with ntags := 1 }).tagBar 2 true = true) := by
  and_intros <;> decide +kernel

/-- A collective group that the package knows, at sequence number 0. -/
def knows (s : State) : State := { s with collGroups := [(0, { ctx := 0, members := [0, 1], staging := 0 })] }
def desc0 : State := at1 0xFF00000000000000 0
theorem witness_EngineIssue : (goes (.bcpy 1) desc0 = true ∧ goes (.coll 1) desc0 = true ∧ desc0.me.taskId = 0 ∧ desc0.myGrid.bramble = false ∧
      desc0.me.wait ≠ .remote ∧ desc0.me.wait ≠ .tag ∧ desc0.bad = []) ∧
    (desc0.prefetch (whoOf desc0) 0xFF00000000000000 128 = desc0 ∧ target desc0 0xFF00000000000000 128 1 .load = some (.store 1 0) ∧
      (mread desc0.myTeam.lstore 0 128 = List.replicate 128 0)) ∧
    (cGroup (List.replicate 128 0) = 0 ∧ cSeq (List.replicate 128 0) = 0 ∧ (desc0.myTeam.tag 0).busy = false ∧ desc0.collGroups = [] ∧
      goes (.coll 1) (knows desc0) = true) ∧ goes (.bcpy 1) (at1 0xFF00000000000040 0) = true ∧
    (goes (.cdec 1) (st2 4095 0) = true ∧ (st2 4095 0).myCtx.ctrLo = 0 ∧ (st2 4095 0).myCtx.ctrN = 4096 ∧ goes (.cdec 1) (st2 4096 0) = true) := by
  and_intros <;> decide +kernel

/-- Locks held on a tensor (descriptor 0). -/
def heldBy (t m : Nat) (s : State) : State := { s with holds := [{ ctx := 0, desc := 0, team := t, mode := m }] }
theorem witness_LockResults : (goes (.lock 3 1 3) (super (at1 0 0)) = true ∧ (at1 0 0).me.E = [0] ∧
      goes (.lock 3 1 3) (at1 1 0) = true ∧ descOk 1 = false) ∧
    (goes (.lock 3 1 3) (at1 0x4000000000000000 0) = true ∧ descOk 0x4000000000000000 = true ∧
      (at1 0x4000000000000000 0).lockHier false 3 0x4000000000000000 = true) ∧
    (goes (.lock 3 1 3) (at1 0 0) = true ∧ descOk 0 = true ∧ (at1 0 0).lockHier false 3 0 = false ∧ (at1 0 0).heldMode 0 0 1 = 0 ∧
      (at1 0 0).locksFull 0 0 = false ∧ (at1 0 0).lockPasses 0 0 1 3 false = true) ∧
    (goes (.lckt 3 1 3) (heldBy 1 6 (at1 0 0)) = true ∧ (heldBy 1 6 (at1 0 0)).heldMode 0 0 1 = 6 ∧ covers 6 3 = true ∧
      (heldBy 1 6 (at1 0 0)).lockHier false 3 0 = false) ∧
    (goes (.lckt 3 1 3) (heldBy 2 6 (at1 0 0)) = true ∧ (heldBy 2 6 (at1 0 0)).lockPasses 0 0 1 3 false = false ∧
      (heldBy 2 6 (at1 0 0)).locksFull 0 0 = false ∧ (heldBy 2 6 (at1 0 0)).lockHier false 3 0 = false ∧
      goes (.lock 3 1 3) (heldBy 2 6 (at1 0 0)) = true ∧ (heldBy 2 6 (at1 0 0)).age 2 ≤ (heldBy 2 6 (at1 0 0)).age 1) ∧
    (goes (.lupg 3 1 6) (heldBy 1 3 (at1 0 0)) = true ∧ (heldBy 1 3 (at1 0 0)).lockHier true 6 0 = false ∧ covers 3 6 = false) := by
  and_intros <;> decide +kernel
theorem witness_LockResults_release : (goes (.ulck 3 0x79 0) (super (at1 0 0)) = true ∧ goes (.ulck 3 0x79 0) (heldBy 1 6 (at1 0 0)) = true ∧
      (heldBy 1 6 (at1 0 0)).me.taskId = 0 ∧ (heldBy 1 6 (at1 0 0)).lockWaits = []) ∧
    (goes (.ulck 3 1 6) (at1 1 0) = true ∧ descOk 1 = false) ∧
    (goes (.ulck 3 1 3) (heldBy 1 6 (at1 0 0)) = true ∧ covers 6 3 = true ∧ tget 0 (heldBy 1 6 (at1 0 0)).tasks = none ∧
      ∀ k ∈ (heldBy 1 6 (at1 0 0)).holds, dParent k.desc ≠ some 0) := by
  and_intros <;> decide +kernel

/-- An open task of the group. -/
def inTask (s : State) : State := { (tasked s) with tasks := [(1, { gid := 1, ctx := 0, abort := 0x10040 })] }
/-- The package has as many tasks as it can have. -/
def fullTasks (s : State) : State := { s with tasks := (upTo 4096).map fun i => (i + 2, { gid := 9, ctx := 0, abort := 0 }) }
theorem witness_TaskResults : (goes (.tskb 3 1) (super st0) = true ∧ goes (.tskb 3 1) (inTask st0) = true ∧ st0.me.E = st0.me.aliveLanes ∧
      goes (.tskb 3 1) (me_ st0 fun g => g.modLane 3 fun y => { y with status := .waitK 1 }) = true) ∧
    (goes (.tskb 3 1) (st2 2 0) = true ∧ goes (.tskb 3 1) (st2 0x100000000000000 0) = true ∧ goes (.tskb 3 1) (st2 0xFFFFFFFFFFFFFC 0) = true ∧
      (st2 0 0).tasks.length < Config.liveTasks) ∧
    (goes .tska st0 = true ∧ goes .tska (inTask st0) = true ∧ (tget 1 (inTask st0).tasks).any (fun k => k.locks == []) = true) ∧
    (goes .tske st0 = true ∧ goes .tske (inTask st0) = true ∧ (inTask st0).readsOut = false ∧
      ((inTask st0).release 3).commitCopies ((inTask st0).task 1) = []) := by
  and_intros <;> decide +kernel
theorem witness_TaskResults_full : goes (.tskb 3 1) (fullTasks (st2 0 0)) = true ∧ Config.liveTasks ≤ (fullTasks (st2 0 0)).tasks.length :=
  ⟨by decide +kernel, by decide +kernel⟩

def lastVersion (s : State) : State := put (dom1 s) 0x300040 4 0xFFFFFFFF
theorem witness_VersionResults : (goes (.publ 3 1) (inTask st0) = true ∧ goes (.vqry 3 1) (st2 256 0) = true ∧
      goes (.vqry 3 1) (dom1 (st2 255 0)) = true ∧ (dom1 (st2 255 0)).domOn 0 255 = false) ∧
    (goes (.vqry 3 1) (dom1 (st2 1 0)) = true ∧ (dom1 (st2 1 0)).domOn 0 1 = true ∧ (dom1 (st2 1 0)).coh.dir = [] ∧ (dom1 (st2 1 0)).sco = []) ∧
    (goes (.publ 3 1) (dom1 (st2 1 0)) = true ∧ (dom1 (st2 1 0)).domOpen 0 1 = 5 ∧ goes (.publ 3 1) (lastVersion (st2 1 0)) = true ∧
      (lastVersion (st2 1 0)).domOpen 0 1 = 0xFFFFFFFF) ∧
    (goes (.retv 3 1 2) (dom1 (st2 1 6)) = true ∧ goes (.retv 3 1 2) (dom1 (st2 1 3)) = true ∧ (dom1 (st2 1 3)).domOldest 0 1 = 3 ∧
      goes (.retv 3 1 2) (dom1 (st2 1 5)) = true ∧ (dom1 (st2 1 5)).ldvOut 0 1 5 = false) := by
  and_intros <;> decide +kernel

/-- `REP #2` with d stepping before `ADD v3, v1, v2`: not begun, in its first repeat and in its last. -/
def repAt (i : Nat) : State := put (me_ (base 0xFC040000) fun g => { g with repPc := some 0x10000, repE := 0xFFFF, repi := i }) 0x100004 4 0x01060410
theorem witness_RepAndReserved : ∃ (s t u : State) (n : BitVec 6) (p q r : BitVec 1) (x : BitVec 2) (N : IWord) (i : Instr) (f : State → Res),
    Issues (.rep n p q r x) s ∧ s.fetch s.me (s.me.pc + 4) = (.word N, t) ∧ s.me.repi ≤ n.toNat ∧
    decode (N + BitVec.ofNat 32 (s.me.repi * 2 ^ x.toNat *
      ((if p = 1 then 2 ^ 17 else 0) + (if q = 1 then 2 ^ 10 else 0) + (if r = 1 then 2 ^ 3 else 0)))) = .ok i ∧
    i.wf s.me.W = true ∧ t.me = s.me ∧ t.ready i = .go ∧ semOf i = some f ∧ f t = .done u ∧
    s.me.repPc = some s.me.pc ∧ s.me.repSup = s.me.sup ∧ s.me.repi < n.toNat := by
  refine ⟨repAt 0, _, _, 1, 1, 0, 0, 0, 0x01060410#32, .add 3 1 2 0 0 0, semAdd 3 1 2 0, (runs (by decide)).1, Prod.ext (by decide) rfl, by decide, rfl,
    by decide, by decide, by decide, rfl, rfl, by decide, by decide, by decide⟩
theorem witness_RepAndReserved_others :
    (Issues (.rep 1 1 0 0 0) (repAt 1) ∧ (repAt 1).me.repPc = some (repAt 1).me.pc ∧ (repAt 1).me.repi = (1#6).toNat ∧ Falls (repAt 1)) ∧
    (goes (.rep 1 1 0 0 0) (put (base 0xFC040000) 0x100004 4 0xCB000000) = true ∧ (base 0xFC040000).me.repPc ≠ some 0x10000#64 ∧
      (base 0xFC040000).repCheck 0xCB000000#32 true false false 1 1 = some .ill) ∧
    (st0.canIssue = true ∧ (∃ e, decode 0xCB000001#32 = .error e)) ∧
    ((me_ st0 fun g => { g with lanes := (upTo 16).map fun l => { occ := true, status := .ready, pcv := 0x70000#64, th := { tid := l } } }).canIssue = true) :=
  ⟨⟨(runs (by decide)).1, by decide, by decide, (runs (i := .nop) (by decide)).2⟩, ⟨by decide, by decide, by decide⟩,
    ⟨by decide, ⟨_, rfl⟩⟩, by decide⟩

/-! ### Witnesses of the events -/

/-- A record of team 1's thread 3 for an address. -/
def rec3 (bramble : Bool) : Rec := { team := 1, th := { tid := 3 }, tgt := 0x10040, bramble := bramble }
def coreDo (s : State) (f : Core → Core) : State := s.modCore 0 f
/-- The nonzero bytes of a segment map (R89) at 0x11000: one segment of 128 bytes at 0x10000 with replicas on cores 0 and 1 of
the placement 0, 1, 2, threshold 1; and of rings of 64 KiB (R96) from 0x20000 on, with `n` records in the ring of core 0. -/
def mapMem (n : Nat) : List Host.Cell :=
  [
    (0x2000, 0x01), (0x2001, 0x40), (0x4000, 0x01), (0x4001, 0x60), (0x6000, 0x01), (0x6001, 0x80), (0x8008, 0x0F),
    (0x800A, 0x10), (0x8010, 0x0F), (0x8012, 0x40), (0x8018, 0x0F), (0x801A, 0x41), (0x8020, 0x0F), (0x8022, 0x42),
    (0x100003, 0xCB)] ++ [
    (0x101000, 0x01), (0x101002, 0x03), (0x101009, 0x20), (0x10100A, 0x01), (0x101012, 0x02), (0x10101A, 0x01),
    (0x101042, 0x01), (0x101049, 0x30), (0x10104A, 0x01), (0x101050, 0x80), (0x101054, 0x01), (0x101055, 0x01),
    (0x101061, 0x80), (0x101062, 0x01), (0x101063, 0x80), (0x102002, 0x01), (0x102004, 0x02), (0x103002, 0x04)] ++
    [(0x400000, 0x01), (0x400004, BitVec.ofNat 8 (n + 1))] ++ (if n = 0 then [] else [(0x400008, 0x01)]) ++
    [(0x400402, 0x01), (0x400408, 0x03), (0x40040C, 0x01), (0x410000, 0x01), (0x410004, 0x01)]
def mapped (n : Nat) (s : State) : State :=
  { (gr_ s fun g => { g with pkt := { g.pkt with flags := 8, segm := 0x11000 } }) with mem := mapMem n }
def arriving (b : Bool) (s : State) : State := coreDo s fun c => { c with transit := [rec3 b] }
theorem witness_RecordEvents_arrival : (∀ b, ((arriving b st0).core 0).transit[0]? = some (rec3 b)) ∧
    (rec3 true).bramble = true ∧ (rec3 false).bramble = false ∧ st0.pins (st0.team 1).grid 0 (rec3 true).seg = false ∧
    (pinned st0).pins (st0.team 1).grid 0 (rec3 true).seg = true ∧ (pinned st0).ringGrids 0 = [] ∧ (pinned st0).arriveRoom 0 (rec3 true) = true ∧ ((pinned st0).core 0).arrive = [] ∧
    ((pinned st0).core 0).spill = [] := by decide
theorem witness_RecordEvents_rings : (st0.ringGrids 0 = [] ∧ tsorted (st0.core 0).bins = true) ∧
    ((mapped 1 st0).ringGrids 0).contains 1 = true ∧ (mapped 1 st0).pins 1 0 0 = false ∧ (pinned (mapped 1 st0)).pins 1 0 0 = true ∧
    ((pinned (mapped 1 st0)).ringGrids 0).contains 1 = true ∧
    ((pinned (mapped 1 st0)).fromRing 1 0).any (fun x => x.1.any fun r => ((pinned (mapped 1 st0)).grid 1).teams.contains r.team &&
      r.seg == 0 && (pinned (mapped 1 st0)).arriveRoom 0 r) = true ∧
    ((mapped 1 st0).fromRing 1 0).any (fun x => x.1.any fun r => ((mapped 1 st0).grid 1).teams.contains r.team && r.seg == 0) = true ∧
    ((put (mapped 0 st0) 0x400000 4 0).fromRing 1 0).isNone = true := by
  and_intros <;> decide +kernel
/-- A group that waits for room, at the clock at which its wait ends. -/
def waits (s : State) : State := { (me_ s fun g => { g with wait := .room 1 0 }) with tick := 4096 }
theorem witness_RecordEvents_waits : (st0.grp 1).waitedOut st0.tick = false ∧ ((waits st0).grp 1).wait = .room 1 0 ∧ 0 + 4096 ≤ (waits st0).tick ∧
    ((waits st0).grp 1).depart = none ∧
    ((me_ (waits st0) fun g => { g with depart := some ([(0, 0x10040, true)], []) }).grp 1).depart ≠ none := by decide
/-- A bin of 16 records, as many as the group has lanes, and one whose timer runs out at clock 100. -/
def binned (s : State) : State := coreDo s fun c => { c with
  bins := [(0, { team := 1, addr := 0x10040, recs := List.replicate 16 (rec3 false), expires := 9, since := 0, due := false }),
    (1, { team := 1, addr := 0x10080, recs := [rec3 false], expires := 100, since := 0, due := false })] }
theorem witness_RecordEvents_bins : (tget 0 ((binned st0).core 0).bins).any (fun b => (binned st0).canLaunch 0 b) = true ∧
    (tget 1 ((binned st0).core 0).bins).any (fun b => !(binned st0).canLaunch 0 b && decide ((binned st0).tick < b.expires)) = true ∧
    (∀ e ∈ ((binned st0).core 0).bins, (binned st0).canLaunch 0 e.2 = true → 0 ≤ e.2.since) := by
  and_intros <;> decide +kernel
/-- Segment 0 holds more than one waiting record for each of its two replicas; three windows in a row it has done so. -/
def hotMap (n : Nat) : State := { (gr_ (binned (mapped 0 st0)) fun g => { g with hotRun := [(0, n)], occSum := [(0, 4096 * 3), (1, 0)] }) with tick := 4096 }
theorem witness_RecordEvents_replication : ((hotMap 2).grid 1).bramble = true ∧ ((hotMap 2).grid 1).admitted = true ∧
    ((hotMap 2).smap 1).nseg = 1 ∧ Say.hot (hotMap 2) ((hotMap 2).grid 1) ((hotMap 2).smap 1) 0 = true ∧ tgetD ((hotMap 2).grid 1).hotRun 0 0 = 2 ∧
    Say.hot (hotMap 3) ((hotMap 3).grid 1) ((hotMap 3).smap 1) 0 = true ∧ tgetD ((hotMap 3).grid 1).hotRun 0 0 = 3 ∧
    ((hotMap 3).replicas ((hotMap 3).smap 1) 0).length = 2 ∧ (hotMap 3).freeReplica 1 ((hotMap 3).grid 1) ((hotMap 3).smap 1) 1 = some (2, none) := by
  and_intros <;> decide +kernel
def replicating (c : Nat) : State := gr_ (mapped 0 st0) fun g => { g with repl := some (0, c) }
theorem witness_RecordEvents_replica : ((replicating 2).grid 1).repl = some (0, 2) ∧ (replicating 2).drained 1 2 = true ∧
    (replicating 0).drained 1 0 = false ∧ (replicating 2).replicas ((replicating 2).smap 1) 0 = [(0, 0), (1, 1)] := by
  and_intros <;> decide +kernel

/-- Every lane of the group waits at the barrier. -/
def waitB (s : State) : State := me_ s fun g => { g with lanes := g.lanes.map fun x => { x with status := .waitB false 0 }, waitingSince := some 0 }
def later (n : Nat) (s : State) : State := { s with tick := n }
theorem witness_GroupEvents_park : ((waitB st0).grp 1).waitingSince = some 0 ∧ (later 16383 st0).tick < 0 + 16384 ∧
    0 + 16384 ≤ (later 16384 (waitB st0)).tick ∧ ((waitB st0).grp 1).loc = .onCore ∧ ((waitB st0).grp 1).depart = none ∧
    ((waitB st0).grp 1).trapDue = none ∧ (waitB st0).mmaInFlight 1 = false := by decide
def parkedOff (s : State) : State := me_ s fun g => { g with loc := .parkArea }
theorem witness_GroupEvents_reform : ((parkedOff (waitB st0)).grp 1).reformDue = false ∧ ((parkedOff st0).grp 1).reformDue = true ∧
    (parkedOff st0).resident 1 = true ∧ (cx_ (parkedOff st0) fun c => { c with swapped := true }).resident 1 = false ∧ (parkedOff st0).groupRoom 0 16 128 = true ∧ (parkedOff st0).freeSlot 0 = some 0 := by decide
theorem witness_GroupEvents_boost : (st0.grp 1).boosted = none ∧ st0.readyGroup 1 = true ∧ (later 255 st0).tick < (st0.grp 1).readyAt + 256 ∧
    (later 256 st0).readyGroup 1 = true ∧ (st0.grp 1).readyAt + 256 ≤ (later 256 st0).tick := by decide
def onWay (s : State) : State := { s with bartMsgs := [(1, 3)] }
theorem witness_GroupEvents_bart : (1, 3) ∈ (onWay st0).bartMsgs ∧ 3 ∈ ((onWay st0).team 1).live := by decide
/-- A value on its way to v40 of lane 3. -/
def pending (s : State) : State := me_ s fun g => g.modLane 3 fun y => y.awaits { key := .v 40, val := 7 }
/-- The same for q2, as group 1 has it. -/
def pendingQ (s : State) : State := me_ s fun g => { g with qEmpty := [2], qPend := [{ key := .q 2, val := 7 }] }
theorem witness_GroupEvents_fillQ : ((pendingQ st0).grp 1).fullKey 3 (.q 2) = false ∧
    takeFirst (fun x => x.key == .q 2) ((pendingQ st0).grp 1).qPend = some ({ key := .q 2, val := 7 }, []) := by decide
theorem witness_GroupEvents_fill : regKey 40 = .v 40 ∧ ((pending st0).grp 1).fullKey 3 (.v 40) = false ∧
    takeFirst (fun x => x.key == .v 40) (((pending st0).grp 1).lane 3).th.pend = some ({ key := .v 40, val := 7 }, []) := by decide
def due (c : Cause) (s : State) : State :=
  me_ s fun g => { g with trapDue := some { cause := c, tval := 0, epc := 0x10000, lanes := 0xFFFF, async := false, task := 0 } }
theorem witness_GroupEvents_entry : (due .ill (busyMma st0)).canEnter 1 .ill = false ∧ ((due .ill (busyMma st0)).grp 1).trapDue ≠ none ∧
    (due .empty (conts st0)).canEnter 1 .empty = true ∧ ((due .empty (conts st0)).team 1).dest .empty = .contv ∧
    (due .winov st0).canEnter 1 .winov = (due .winov st0).canEnter 1 .winov ∧ ((due .winov st0).team 1).dest .winov = .tvec := by decide
theorem witness_GroupEvents_frame : (tget 1 ((parked .now st0).team 1).frames).any
      (fun f => f.gid == 1 && !f.tagged && (parked .now st0).frameReady f) = true ∧
    (tget 1 ((parked (.reply 3) st0).team 1).frames).any (fun f => f.gid == 1 && !(parked (.reply 3) st0).frameReady f) = true := by decide
def record5 (s : State) : State := { s with evq := [{ kind := 5, seq := 5 }] }
theorem witness_GroupEvents_reply : (∃ r ∈ (record5 st0).evq, r.seq = 5) ∧ ∀ r ∈ (record5 st0).evq, r.seq ≠ 6 := by decide
def wounded (s : State) : State := me_ s fun g => { g with woundDue := true }
/-- A revocation that waits for the group; and a cooperative grid of one team, a quarter microsecond of YLIM given. -/
def revoking (s : State) : State := me_ s fun g => { g with revokeDue := true }
theorem witness_GroupEvents_revoke : (revoking st0).canDeliver 1 = true ∧ ((revoking st0).grp 1).revokeDue = true ∧ ((revoking st0).grp 1).taskId = 0 := by decide
theorem witness_GroupEvents_coop : (let s := coop (cx_ st0 fun c => { c with ylim := 100 })
    (s.grid 1).cooperative = true ∧ (s.grid 1).teams = [1] ∧ (s.ctx (s.grid 1).ctx).ylim ≠ 0 ∧
    (tget 1 s.teams).any (fun x => x.grid == 1 && !x.saved && x.preq.isNone) = true ∧ ∃ e ∈ s.groups, e.2.team = 1 ∧ e.2.loc = .onCore) := by decide
theorem witness_GroupEvents_wound : (super st0).canDeliver 1 = false ∧ (wounded st0).canDeliver 1 = true ∧ ((wounded st0).grp 1).revokeDue = false ∧
    ((wounded st0).grp 1).taskId = 0 ∧ ((wounded st0).team 1).canPark ((wounded st0).team 1).wndv = false ∧
    (wounded (conts st0)).canDeliver 1 = true ∧ ((conts st0).team 1).wndv ≠ 0 ∧ ((conts st0).team 1).freeFrame = some 1 ∧
    (wounded (inTask st0)).canDeliver 1 = true ∧ ((wounded (inTask st0)).grp 1).taskId ≠ 0 := by decide
def struck (due : Option Nat) (s : State) : State := { (later 1000 s) with wounds := [{ team := 1, ctx := 0, desc := 0, by_ := 2, due := due }] }
def contested (s : State) : State :=
  { (heldBy 1 6 s) with lockWaits := [{ ctx := 0, desc := 0, team := 2, gid := 2, mode := 6, lupg := false, mat := (s.ctx 0).matrix }] }
theorem witness_GroupEvents_deadline : (struck (some 1001) st0).woundExpired 1 = false ∧ (struck none st0).woundExpired 1 = false ∧
    (struck (some 1000) st0).woundExpired 1 = true ∧ (struck (some 1000) st0).deadlineMet 1 = true ∧
    (struck (some 1000) (contested st0)).woundExpired 1 = true ∧ (struck (some 1000) (contested st0)).deadlineMet 1 = false := by decide
def ylim (s : State) : State := cx_ s fun c => { c with ylim := 100 }
theorem witness_GroupEvents_preempt : (tget 1 (ylim st0).teams).any (fun t => !t.saved && t.preq.isNone) = true ∧
    ((ylim st0).ctx ((ylim st0).grid 1).ctx).ylim ≠ 0 ∧ (∃ e ∈ (ylim st0).groups, e.2.team = 1 ∧ e.2.loc = .onCore) ∧
    ((asked st0).team 1).preq ≠ none := by decide
def twoGroups (s : State) : State := { s with groups := s.groups ++ [(2, { s.grp 1 with slot := 1 })] }
theorem witness_GroupEvents_save : (tget 1 (later 1000 (asked (twoGroups st0))).groups).any
      (fun g => g.loc == .onCore && g.taskId == 0 && (later 1000 (asked (twoGroups st0))).canForce 1) = true ∧
    ((asked (twoGroups st0)).team 1).preq = some { until_ := 1000, deadline := false } ∧
    (∃ e ∈ (asked (twoGroups st0)).groups, e.1 ≠ 1 ∧ e.2.team = 1 ∧ e.2.loc = .onCore) := by decide

/-! A line, 0x3000, of the coherence protocol. -/
def withCoh (c : Coh) : State := { st0 with coh := c }
def line : Nat := 0x3000
def copyOf (cl : Nat) (st : LineSt) (wb : Bool) : CLine := { cl := cl, line := line, st := st, part := [(0, 7)], wb := wb }
def msg (k : MsgKind) : Coh := { msgs := [{ kind := k, cl := 1, line := line }] }
/-- A directory entry with a transaction of cluster 0 open. -/
def openTxn (st : HSt) (r : Req) : Dir := { st := st, txn := some (0, r) }
theorem quiet_of {s : State} {l : Nat} (h : s.coh.spill = []) (f : (s.sliceFull l || s.sliceHas l (fun d => d.inLlc) Config.sliceLines) = false)
    (m : s.coh.msgs.all (fun m => m.line != l) = true) :
    Say.quietLine s l := ⟨h, (Bool.or_eq_false_iff.mp f).1, (Bool.or_eq_false_iff.mp f).2, fun x hx => by simpa using List.all_eq_true.mp m x hx⟩
theorem witness_CoherenceEvents_requests : Say.request (.rdu 0 line 0) = some (0, line, .rdU .add) ∧ Say.quietLine st0 line ∧
    tget line st0.coh.dir = none ∧ st0.cline 0 line = none ∧ (AOp.add).reduces = true ∧ st0.watched line = false ∧
    (withCoh { lines := [copyOf 0 .E false] }).cline 0 line = some (copyOf 0 .E false) :=
  ⟨rfl, quiet_of (by decide) (by decide) (by decide), by decide, by decide, by decide, by decide, by decide⟩
/-- A shared line of clusters 0 and 1, and one that cluster 0 holds alone. -/
def shared (hs : List Nat) : State := withCoh { lines := [copyOf 0 .S false], dir := [(line, { st := .S, holders := hs })] }
theorem witness_CoherenceEvents_upg : st0.lineSt 0 line = none ∧ (shared [0]).lineSt 0 line = some .S ∧ Say.quietLine (shared [0]) line ∧
    ((shared [0]).dirOf line).st = .S ∧ ((shared [0]).dirOf line).inLlc = true ∧ ((shared [0]).dirOf line).txn = none ∧ ((shared [0]).dirOf line).held = none ∧
    ((shared [0]).dirOf line).holders = [0] ∧ ((shared [0, 1]).dirOf line).holders = [0, 1] ∧ Say.quietLine (shared [0, 1]) line ∧
    (shared [0, 1]).lineSt 0 line = some .S :=
  ⟨by decide, by decide, quiet_of (by decide) (by decide) (by decide), by decide, by decide, by decide, by decide, by decide, by decide,
    quiet_of (by decide) (by decide) (by decide), by decide⟩
theorem witness_CoherenceEvents_evictions : (∀ st ∈ [LineSt.M, .O, .E, .S, .U .add], ∀ b,
      (withCoh { lines := [copyOf 0 st b] }).cline 0 line = some (copyOf 0 st b) ∧ (withCoh { lines := [copyOf 0 st b] }).scoLine 0 line = none) ∧
    (tget line (withCoh { dir := [(line, {})] }).coh.dir = some {} ∧ ({} : Dir).st = .I ∧ ({} : Dir).txn = none ∧ ({} : Dir).held = none ∧
      (tget line (shared [0]).coh.dir).any (fun d => d.st == .S && d.holders == [0]) = true) ∧
    (tgetD (withCoh { spill := [(0, [(line, 0, .rdS)])] }).coh.spill 0 [] = [(line, 0, .rdS)] ∧
      (withCoh { spill := [(0, [(line, 0, .rdS)])] }).sliceFull line = false) := by
  and_intros <;> decide +kernel
theorem witness_CoherenceEvents_home : (120 : Nat) < 128 ∧ 120 % Say.atomicSize (aopOf 10) = 0 ∧ (2 ^ 64 - 1 : Nat) < 2 ^ (8 * Say.atomicSize (aopOf 10)) ∧
    tget line st0.coh.dir = none := by decide
theorem witness_CoherenceEvents_none : Say.message (.ack 1 line) = some ((· = .ack), some 1, line) ∧ st0.coh.msgs = [] := ⟨rfl, by decide⟩
theorem witness_CoherenceEvents_room : Say.cacheHasRoom st0 1 line ∧ Say.cacheHasRoom (withCoh { lines := [copyOf 1 .E false] }) 1 line :=
  ⟨by unfold Say.cacheHasRoom; decide +kernel, by unfold Say.cacheHasRoom; decide +kernel⟩
/-- A spilled request behind an open transaction of its line, and with its slice full of them; and an eviction from the owner
that a forward to it, still on its way, holds. -/
def queuedBehind : State := withCoh { spill := [(0, [(line, 0, .rdS)])], dir := [(line, openTxn .F .rdX)] }
def crossing : State := withCoh {
  msgs := [{ kind := .wb, cl := 1, line := line }, { kind := .fwdS, cl := 1, line := line }],
  dir := [(line, { st := .F, owner := some 1, txn := some (0, .rdS) })] }
theorem witness_CoherenceEvents_waiting : tgetD queuedBehind.coh.spill 0 [] = [(line, 0, .rdS)] ∧ (queuedBehind.dirOf line).txn ≠ none ∧
    (queuedBehind.dirOf line).waiting.length < Config.lineWaiting ∧
    (withCoh { spill := [(0, [(line, 0, .rdS)])] }).sliceHas line (fun d => d.inLlc) Config.sliceLines = false ∧
    (crossing.dirOf line).owner = some 1 ∧ crossing.sliceHas line (fun d => d.held.isSome) Config.sliceReserve = false ∧
    crossing.coh.msgs = [{ kind := .wb, cl := 1, line := line }, { kind := .fwdS, cl := 1, line := line }] := by decide +kernel
/-- Every message that the statement names, in the directory's state that it meets. -/
theorem witness_CoherenceEvents_messages : ∀ e ∈ [(MsgKind.memData, openTxn .IM .rdS), (.memData, openTxn .IM .rdX), (.memData, openTxn .IM (.rdU .add)),
      (.memData, openTxn .IM (.wrL 5)), (.grant .E, {}), (.inv, {}), (.rcl, {}), (.coll, {}), (.fwdS, openTxn .F .rdS), (.fwdX, openTxn .F .rdX),
      (.ack, openTxn .SX .rdX), (.partial_ [(0, 7)] .add, openTxn .C .read), (.fwdAck .M, openTxn .F .rdS), (.fwdAck .E, openTxn .F .rdS),
      (.fwdAck .M, openTxn .F .rdX), (.wb, { st := .O, owner := some 1 }), (.putE, { st := .E, owner := some 2 }), (.wb, openTxn .F .rdS),
      (.wbu [(0, 7)] .add, { st := .U .add, holders := [1] }), (.wbAck, {})],
    (withCoh { (msg e.1) with dir := [(line, e.2)] }).coh.msgs = [{ kind := e.1, cl := 1, line := line }] ∧
    (withCoh { (msg e.1) with dir := [(line, e.2)] }).dirOf line = e.2 ∧ e.2.waiting = [] ∧ e.2.held = none := by decide
theorem witness_CoherenceEvents_copies : ∀ x ∈ [copyOf 1 (.U .add) false, copyOf 1 .E false, copyOf 1 .M true],
    (withCoh { lines := [x] }).cline 1 line = some x := by decide

theorem witness_MemoryEvents_walk : st0.tlbFind 0 0 0x10000 = none ∧ st0.coh.dir = [] ∧ (0xFFFFFFFFFFFFFF : Nat) < 2 ^ 56 ∧
    st0.walk 0 0x10000 = .ok 0x10000F ∧ st0.walk 0 0xFFFFFFFFFFFFFF = .error .page :=
  ⟨by decide, by decide, by decide, okOf (by decide), errOf (by decide)⟩
def copying (s : State) : State := { s with cows := [{ ctx := 0, vpage := 2, dom := 1, frame := 0x500000, tier := none }] }
/-- A request under the old translation of the page at 0x20000, and the address behind its last byte. -/
def oldRequest : State := { st0 with remReqs := [{ rtag := 4, peer := 1, ctx := 0, gid := 1, parts := [(0, 0, 8, 0)], vas := [(0x2FFF8, 8)] }] }
theorem witness_MemoryEvents_invalidate : oldRequest.usesOld 0 0x20000 0x30000 = true ∧ oldRequest.usesOld 0 0x30000 0x40000 = false ∧
    st0.usesOld 0 0x20000 0x30000 = false := by decide
theorem witness_MemoryEvents_copy : st0.cowOf 0 (0x20000 / 65536) = none ∧ ((copying st0).cowOf 0 (0x2FFFF / 65536)).isSome = true := by decide
def poolWait (s : State) : State := me_ s fun g => { g with wait := .pool { ctx := 0, dom := 1, tier2 := false } }
theorem witness_MemoryEvents_pool : ((poolWait (dom1 st0)).grp 1).wait = .pool { ctx := 0, dom := 1, tier2 := false } ∧
    (poolWait (dom1 st0)).poolHas { ctx := 0, dom := 1, tier2 := false } = true ∧
    (poolWait (dom1 st0)).poolHas { ctx := 0, dom := 1, tier2 := true } = false := by
  and_intros <;> decide +kernel
/-- The oldest record, version 2, is no longer needed once L is 3 and HOLDMIN is 3; with HOLDMIN 0 it is kept. -/
def holdMin (n : Nat) : State := put (dom1 st0) 0x300054 4 n
theorem witness_MemoryEvents_reclaim : (holdMin 3).keptFrames = [] ∧ (holdMin 3).viewFrames = [] ∧ (∀ e ∈ (holdMin 3).groups, e.2.wait ≠ .ldv) ∧
    (holdMin 3).cowOf 0 ((holdMin 3).domBase 0 1 / 65536) = none ∧ (copying (dom1 st0)).cowOf 0 ((copying (dom1 st0)).domBase 0 1 / 65536) ≠ none ∧ (holdMin 3).domOn 0 1 = true ∧ 0 < (holdMin 3).domPages 0 1 ∧
    (holdMin 3).vrecs 0x310000 = [⟨5, 1, 0x400000⟩] ++ [⟨3, 1, 0x410000⟩, ⟨2, 1, 0x430000⟩] ∧ (holdMin 3).domVrt 0 1 = 0x310000 ∧
    3 ≤ (holdMin 3).domOldest 0 1 ∧ 3 ≤ (holdMin 3).domHold 0 1 ∧ (holdMin 0).domHold 0 1 < 3 ∧ (holdMin 3).num (0x310000 + 264) 4 = 0 := by
  and_intros <;> decide +kernel
def monitored (f : Option Word) (s : State) : State :=
  { s with monitors := [{ gid := 1, lane := 3, place := .store 1 8, va := 0xFF00000000000008, ne := false, cmp := 0, key := .v 4, fired := f }] }
theorem witness_MemoryEvents_waita : ((monitored none st0).monitors.find? fun m => m.gid == 1 && m.lane == 3 && m.peer.isNone).any
      (fun m => m.fired == none && m.place == .store 1 8) = true ∧ (monitored none st0).sco = [] ∧ 3 < ((monitored none st0).grp 1).lanes.length ∧
    ((monitored (some 7) st0).monitors.find? fun m => m.gid == 1 && m.lane == 3 && m.peer.isNone).any
      (fun m => m.fired == some 7 && m.place == .store 1 8) = true ∧ (monitored (some 7) st0).sco = [] ∧
    3 < ((monitored (some 7) st0).grp 1).lanes.length := by decide +kernel
theorem witness_MemoryEvents_lkmat : (st0.ctx 0).lkNew = none ∧ ((cx_ st0 fun c => { c with lkNew := some (1, 2) }).ctx 0).lkNew = some (1, 2) := by decide

def coreMma (s : State) (m : Mma) : State := s.modCore 0 fun c => { c with mmaQ := [m] }
theorem witness_EngineEvents_mma : (st0.core 0).mmaQ = [] ∧ ((busyMma st0).core 0).mmaQ =
    [{ gid := 1, team := 1, tile := 0, shape := 0, a := [], b := [], b2 := none, lanes := 0 }] ∧ tget 1 (busyMma st0).groups ≠ none := by decide
/-- A paired MMA, its second B given, behind one of the other core; and none. -/
def pairedMma (n : Nat) : State :=
  coreMma st0 { gid := 1, team := 1, tile := 0, shape := 0, a := [], b := [], b2 := some [], lanes := 1, behind := n }
theorem witness_EngineEvents_pair : ((pairedMma 1).core 0).mmaQ.map (fun m => m.behind) = [1] ∧ ((pairedMma 0).core 0).mmaQ.map (fun m => m.behind) = [0] ∧
    ((pairedMma 0).core 0).mmaQ.all (fun m => m.b2 == some [] && m.lanes.testBit 0) = true ∧ 0 < ((pairedMma 0).grp 1).lanes.length ∧
    0 < ((pairedMma 0).grp 1).W := by decide
/-- A box of one element of 8 bytes from offset 0 of the local store to offset 256 (R233). -/
def boxBytes : List Byte := toBytes 8 0xFF00000000000000 ++ toBytes 8 0xFF00000000000100 ++ toBytes 8 3 ++
  (List.replicate 5 (toBytes 4 1)).flatten ++ List.replicate 20 0 ++ (List.replicate 5 (toBytes 2 1)).flatten ++ List.replicate 54 0
def copyOp (bs : List Byte) : BceOp := { team := 1, tag := 2, desc := 0xFF00000000000200, bytes := bs, core := 0, tid := 0 }
def boxing (bs : List Byte) : State := { st0 with bce := [copyOp bs] }
theorem witness_EngineEvents_box : (boxing boxBytes).bce.find? (fun b => b.team == 1 && b.tag == 2) = some (copyOp boxBytes) ∧
    (boxing boxBytes).remReqs = [] ∧ (tget 1 (boxing boxBytes).teams).any (fun t => t.preq.isNone && t.ensemble.isNone) = true ∧
    (boxOf (List.replicate 128 0)).error 0 = some 1 ∧ (boxOf boxBytes).error 0 = none ∧ (boxOf boxBytes).red = 0 ∧
    ((boxOf boxBytes).els.all fun x => (x.src.toList ++ x.dst).all fun va => va.toNat / 2 ^ 56 == 0xFF) = true ∧
    (boxing boxBytes).boxAccs ((boxing boxBytes).bceWho (copyOp boxBytes)) 8 false (boxOf boxBytes).els =
      ([{ src := some (.store 1 0), fill := [], dst := [.store 1 256] }], none) ∧
    boxClash 8 [{ src := some (.store 1 0), fill := [], dst := [.store 1 256] }] = false :=
  ⟨rfl, by and_intros <;> decide +kernel⟩
/-- A COLL of one element of 8 bytes to 0x10020, its record at 0x10010 (R291). -/
def collBytes : List Byte := toBytes 8 0 ++ toBytes 8 1 ++ toBytes 8 0 ++ toBytes 8 0x10020 ++ toBytes 8 0 ++ toBytes 2 1 ++ toBytes 2 8 ++
  toBytes 4 0 ++ toBytes 8 0x10010 ++ List.replicate 72 0
def collOp (fail : Option (Cause × Word)) (got : Nat) : CollOp :=
  { team := 1, tag := 2, desc := 0xFF00000000000200, bytes := collBytes, core := 0, tid := 0, nrecv := [1], got := [(0, got)], fail := fail }
def chunk8 (ops : List Nat) (dhash : Nat) : FPkt := Say.chunk 1 0 0 0 dhash ops 0 8 false (List.replicate 8 1)
/-- Group 0 of packages 0 and 1, a right to collectives of package 1, one packet staged. -/
def collState (op : Option CollOp) (next : Nat) (k : FPkt) : State :=
  { st0 with collGroups := [(0, { ctx := 0, members := [0, 1], staging := 0, next := next, ops := (op.map fun o => (0, o)).toList })],
             access := [(0, { base := 0, limit := 4096, src := 1, valid := true, rights := 8, sctx := 0 })], hops := [k] }
theorem witness_EngineEvents_packet : tget 0 st0.collGroups = none ∧ (tget 0 (collState none 0 (chunk8 [0] 0)).collGroups).any
      (fun g => g.members == [0, 1]) = true ∧ (collState none 0 (chunk8 [0] 0)).admitsColl 1 0 = true ∧
    (collState none 0 (chunk8 [0] 0)).admitsColl 2 0 = false := by decide
theorem witness_EngineEvents_hop : (collState none 0 (chunk8 [0] 0)).hops[0]? = some (chunk8 [0] 0) ∧ seqPast 0 0 = false ∧ seqPast 1 0 = true ∧
    (collOp (some (.engerr, 1)) 0).fail ≠ none ∧ (collOp none 0).fail = none ∧ (chunk8 [0] 0).dhash ≠ dhashOf collBytes ∧
    (chunk8 [0] (dhashOf collBytes)).dhash = dhashOf collBytes ∧ 0 / 2 ^ 12 % 8 = cType collBytes ∧ 0 % cChunk collBytes = 0 ∧
    0 < cTotal collBytes ∧ (8 : Nat) = min (cChunk collBytes) (cTotal collBytes - 0) ∧ (List.replicate 8 (1 : Byte)).length = 8 := by
  and_intros <;> decide +kernel
/-- The last hop of a chunk, and one with another hop to go. -/
theorem witness_EngineEvents_fits : (chunk8 [0] (dhashOf collBytes)).resv = 0 ∧ (chunk8 [0] (dhashOf collBytes)).len = flitsOf (24 + 8) ∧
    0 / 2 ^ 8 % 8 = 0 ∧ (0 : Nat).testBit 15 = false ∧ (0 : Nat).testBit 11 = false ∧ 0 % 128 = 0 ∧
    (collState (some (collOp none 0)) 1 (chunk8 [0, 0] (dhashOf collBytes))).hops[0]?.any (fun k => k.ops == [0, 0]) = true := by
  and_intros <;> decide +kernel
/-- FIPS 180-4: the digest of the 64 bytes 0x00 to 0x3F, most significant first (R303). -/
theorem test_sha256 : sha256Pair 0x000102030405060708090a0b0c0d0e0f101112131415161718191a1b1c1d1e1f
    0x202122232425262728292a2b2c2d2e2f303132333435363738393a3b3c3d3e3f =
    0xfdeab9acf3710362bd2658cdc9a29e8f9c757fcf9811603a8c447cd1d9151108 := by decide +kernel
/-- The check value of CRC-32C (RFC 3720, R280). -/
theorem test_crc32c : crc32c ([0x31, 0x32, 0x33, 0x34, 0x35, 0x36, 0x37, 0x38, 0x39] : List Byte) = 0xE3069283 := by decide +kernel
theorem witness_EngineEvents_store : ((st0.feWrite (st0.collWho (collOp none 0)) (cDstb collBytes + 0) (List.replicate 8 1) false).toOption).any
    (fun x => !x.1) = true := by decide +kernel
/-- A COLL whose record's address is misaligned, and one whose record's page no table maps. -/
def collTo (crec : Nat) : CollOp := { (collOp none 1) with bytes := collBytes.take 48 ++ toBytes 8 crec ++ List.replicate 72 0 }
theorem witness_EngineEvents_record : cCrec (collTo 0x10018).bytes % 16 ≠ 0 ∧ cCrec (collTo 0x70000).bytes % 16 = 0 ∧
    (collState (some (collTo 0x10018)) 1 (chunk8 [] 0)).collReady (collTo 0x10018) = true ∧
    (collState (some (collTo 0x70000)) 1 (chunk8 [] 0)).collReady (collTo 0x70000) = true ∧
    causeOf (st0.feWrite (st0.collWho (collTo 0x70000)) 0x70000 (collRecord (collTo 0x70000) none 0) true) = some .page := by
  and_intros <;> decide +kernel
theorem witness_EngineEvents_complete : (collState (some (collOp none 1)) 1 (chunk8 [] 0)).collOf 1 2 = some (collOp none 1) ∧
    (collState (some (collOp none 1)) 1 (chunk8 [] 0)).collReady (collOp none 1) = true ∧
    (collState (some (collOp none 0)) 1 (chunk8 [] 0)).collReady (collOp none 0) = false ∧ cCrec collBytes % 16 = 0 ∧
    ((st0.feWrite (st0.collWho (collOp none 1)) (cCrec collBytes) (collRecord (collOp none 1) none 0) true).toOption).any
      (fun x => !x.1) = true := by
  and_intros <;> decide +kernel

/-- Die 0 bound; a queue descriptor (R244) at 0x14000 with one packet (R247) of a plain kernel at 0x15000. -/
def bound (s : State) : State := { s with binds := [(0, 5)] }
def queueMem (widx size : Nat) : List Byte := toBytes 8 0x15000 ++ toBytes 4 size ++ toBytes 1 1 ++ toBytes 1 0 ++ toBytes 2 0 ++ toBytes 8 widx ++ toBytes 8 0
def packetMem : List Byte := toBytes 8 0x10000 ++ toBytes 4 1 ++ toBytes 2 1 ++ toBytes 2 1 ++ toBytes 2 16 ++ toBytes 2 16 ++ [16, 8, 0, 0] ++
  List.replicate 32 0 ++ toBytes 8 0x16000
def queued (st : QState) (widx size : Nat) : State :=
  let s := bound st0
  { s with queues := [(0, { ctx := 0, addr := 0x14000, state := st, cls := 1 })], grids := [], groups := [], teams := [],
           mem := mwrite 0x105000 packetMem (mwrite 0x104000 (queueMem widx size) s.mem) }
theorem witness_QueueEvents_create : (∀ d, d < 4 → (1 : Nat).testBit d = true → tget d (bound st0).binds = some 5 ∧ d ∉ (bound st0).unbinding) ∧
    tfree 0 (bound st0).ctxs < 4096 ∧ tsorted (bound st0).ctxs = true ∧ (bound st0).recovery = none ∧ 4095 + 1 ≤ 4096 ∧ 16383 + 1 ≤ 16384 := by decide
theorem witness_QueueEvents_register : (let s := cx_ st0 fun c => { c with qLo := 2, qN := 1 }
    tget 0 s.ctxs ≠ none ∧ (s.ctx 0).qLo ≤ 2 ∧ 2 < (s.ctx 0).qLo + (s.ctx 0).qN ∧ (s.queue 2).state = .idle ∧ ¬(3 < (s.ctx 0).qLo + (s.ctx 0).qN)) := by
  decide
/-- The descriptor read, with WIDX beyond RIDX and equal to it; and one that does not exist. -/
theorem witness_QueueEvents_wake : ((queued .idle 1 2).queue 0).state = .idle ∧ tget 0 (queued .idle 1 2).queues ≠ none ∧
    ((queued .idle 1 2).qdesc 0).1.any (fun d => d.widx != d.ridx) = true ∧ ((queued .idle 0 2).qdesc 0).1.any (fun d => d.widx == d.ridx) = true ∧
    (({ queued .idle 1 2 with mem := [] }).qdesc 0).1 = none ∧ ((queued .mapped 1 2).queue 0).state ≠ .idle := by
  and_intros <;> decide +kernel
theorem witness_QueueEvents_grant : (queued .ready 1 2).bestReady = some (0, { ctx := 0, addr := 0x14000, state := .ready, cls := 1 }) ∧
    (queued .ready 1 2).freeHwSlot = some 0 ∧ ((queued .ready 1 2).qdesc 0).1.any (fun d => (queued .ready 1 2).descValid 0 d && d.cls != 0) = true ∧
    ((queued .ready 1 3).qdesc 0).1.any (fun d => !(queued .ready 1 3).descValid 0 d) = true ∧
    (∀ e ∈ (queued .idle 1 2).queues, e.2.state ≠ .ready) ∧ ({ queued .ready 1 2 with slots := (upTo 64).map fun i => (i, 7) }).freeHwSlot = none := by
  and_intros <;> decide +kernel
/-- Every slot taken, a queue whose quantum has run out, and another of its class that waits. -/
def contending : State := later 1050000 { queued .mapped 1 2 with
  slots := (upTo 64).map fun i => (i, 0), queues := [(0, { addr := 0x14000, state := .mapped, slot := some 0 }), (70, { state := .ready })] }
theorem witness_QueueEvents_quantum : (contending.queue 0).state = .mapped ∧ (contending.queue 0).cls ≠ 0 ∧
    (contending.queue 0).since + 1050 * contending.effQuant 0 ≤ contending.tick ∧ contending.freeHwSlot = none ∧
    (∃ e ∈ contending.queues, e.2.state = .ready ∧ e.2.cls ≤ (contending.queue 0).cls) ∧ contending.grids = [] ∧
    contending.wants (contending.queue 0).cls = true := by decide +kernel
/-- A deadline queue that waits while every slot is taken, for which queue 0 is driven out. -/
def urgent : State := { contending with queues := [(0, { addr := 0x14000, state := .mapped, slot := some 0 }), (70, { state := .ready, cls := 0 })] }
theorem witness_QueueEvents_drive : urgent.freeHwSlot = none ∧ urgent.wants 0 = true ∧ urgent.victim = some 0 ∧ (∀ e ∈ urgent.grids, e.2.queue ≠ 0) ∧
    urgent.bestReady.map (fun e => e.1) = some 70 ∧ contending.bestReady.map (fun e => e.1) = some 70 ∧ contending.wants 0 = false := by decide +kernel
theorem witness_QueueEvents_unmap : ((queued .mapped 0 2).queue 0).state = .mapped ∧ (queued .mapped 0 2).grids = [] ∧
    ((queued .mapped 0 2).qdesc 0).1.any (fun d => d.widx == d.ridx) = true := by
  and_intros <;> decide +kernel

theorem witness_LaunchEvents_take : ((queued .mapped 1 2).qdesc 0).1.any (fun d => (queued .mapped 1 2).descValid 0 d && d.widx != d.ridx) = true ∧
    ((queued .mapped 1 2).cpRead 0 0x15000 128).1.any (fun bs => (parsePacket bs).signal == 0x16000 && (parsePacket bs).total == 1 &&
      !(parsePacket bs).flags.testBit 6) = true ∧ (queued .mapped 1 2).signalPa 0 0x16000 = some 0x106000 := by
  and_intros <;> decide +kernel
/-- A deadline queue that reserves every core of its context while a team stands on one, and one that has them. -/
def reserving (busy : Bool) : State :=
  let s := queued .mapped 1 2
  { s with queues := [(0, { ctx := 0, addr := 0x14000, state := .mapped, cls := 0, reserved := if busy then [] else upTo 256 })], groups := if busy then st0.groups else [],
           teams := if busy then st0.teams else [], mem := mwrite 0x104020 [0, 1] (mwrite 0x10400C [0] s.mem) }
theorem witness_LaunchEvents_reserve : ((reserving true).qdesc 0).1.any (fun d => (reserving true).descValid 0 d && d.widx != d.ridx && d.cls == 0 &&
      ((reserving true).reserve 0 d.nres).isNone) = true ∧
    ((reserving false).qdesc 0).1.any (fun d => d.cls == 0 && ((reserving false).reserve 0 d.nres).any fun u =>
      (u.cpRead 0 0x15000 128).1.isSome) = true := ⟨by decide +kernel, by decide +kernel⟩
/-- A grid of class 0 whose queue has reserved core 0, with a team still to be placed. -/
def toPlace (next : Nat) : State :=
  { bound st0 with queues := [(0, { state := .mapped, cls := 0, reserved := [0] })], groups := [], teams := [],
                   grids := [(1, { placedGrid with cls := 0, next := next, teams := [] })] }
theorem witness_LaunchEvents_place : (toPlace 0).mayPlace 1 = true ∧ ((toPlace 0).grid 1).teams = [] ∧
    ((toPlace 0).grid 1).next < ((toPlace 0).grid 1).pkt.total ∧ ((toPlace 0).grid 1).pkt.flags / 2 % 8 = 0 ∧
    ((toPlace 0).place 1).isSome = true ∧ ((toPlace 1).grid 1).pkt.total ≤ ((toPlace 1).grid 1).next ∧ st0.mayPlace 2 = false := by
  and_intros <;> decide +kernel
def deadlineGrid (ts : List Nat) (tick : Nat) : State :=
  later tick (gr_ st0 fun g => { g with pkt := { g.pkt with flags := 32, deadline := 5000 }, teams := ts })
theorem witness_LaunchEvents_deadline : (tget 1 (deadlineGrid [1] 5000).grids).any (fun g => g.pkt.flags.testBit 5 && g.teams == [1]) = true ∧
    tget 1 (deadlineGrid [1] 5000).teams ≠ none ∧ (5000 : Nat) ≤ (deadlineGrid [1] 5000).tick ∧ (deadlineGrid [] 2899).tick + 2100 < 5000 ∧
    5000 ≤ (deadlineGrid [] 2900).tick + 2100 ∧ (tget 1 st0.grids).any (fun g => !g.pkt.flags.testBit 5) = true := by decide
/-- A launch past its deadline whose team still has a copy in flight. -/
theorem witness_LaunchEvents_deadline_stopped : (let s : State := { deadlineGrid [1] 5000 with bce := [copyOp boxBytes] }
    (tget 1 s.grids).any (fun g => g.pkt.flags.testBit 5 && decide (g.pkt.deadline ≤ s.tick + 2100) && g.fate.isNone) = true ∧
    (∃ b ∈ s.bce, b.team = 1) ∧ tget 1 s.teams ≠ none) := by decide
theorem witness_LaunchEvents_deadline_room : (deadlineGrid [] 5000).queueRoom 4 = true := by
  have h : (0 : Nat) < Config.eventQueueSize := Nat.succ_pos _
  simp [State.queueRoom, show (deadlineGrid [] 5000).fbufOf 4 = [] by decide, show (deadlineGrid [] 5000).evq = [] by decide, h]
def ended : State := tm_ st0 fun t => { t with ending := true }
theorem witness_LaunchEvents_end : (ended.team 1).ending = true ∧ ended.recsOf 1 = false ∧ ended.bce = [] ∧ ended.collGroups = [] ∧
    (ended.core (ended.team 1).tileCore).mmaQ = [] ∧ (st0.team 1).ending = false := by decide
def counting (val : Int) (armed : Option Nat) : State := { st0 with decs := [3], counters := [(3, { val := val, armed := armed })] }
theorem witness_LaunchEvents_counter : ∀ v ∈ [(1 : Int), 2, -2147483647], (counting v (some 1)).decs = [3] ∧
    (tgetD (counting v (some 1)).counters 3 {}).val = v ∧ -(2 : Int) ^ 31 < v ∧ tget 1 (counting v (some 1)).grids ≠ none := by decide
def savedTeam (s : State) : State := tm_ s fun t => { t with saved := true }
theorem witness_LaunchEvents_swap : (∃ t ∈ (bound st0).partTeams 5, ((bound st0).team t).saved = false) ∧
    (∀ t ∈ (savedTeam (bound st0)).partTeams 5, ((savedTeam (bound st0)).team t).saved = true) ∧ (savedTeam (bound st0)).swapBarred 5 = false ∧
    tget 0 (bound st0).ctxs ≠ none := by decide

/-- A peer with a link and a key, and an acknowledgement packet from it (type 7, one flit). -/
def peered (p : Peer) : State := { st0 with peers := [(1, p)] }
def linked : Peer := { up := true, rx := [(0, { key := 9 })], tx := [(0, { key := 8 })] }
theorem witness_LinkEvents_receive : ((peered linked).peer 1).up = true ∧ (peered {}).peer 1 = {} ∧
    (parseHdr (2 ^ 56 + 7)).rsn = 0 ∧ (parseHdr (2 ^ 56 + 7)).inc = 0 ∧ (parseHdr (2 ^ 56 + 7)).kg = 0 ∧ (parseHdr (2 ^ 56 + 7)).type = 7 ∧
    (parseHdr (2 ^ 56 + 7)).tc ≤ 3 ∧ (parseHdr (2 ^ 56 + 7)).len = 1 ∧ flitsOf 0 ≤ 1 ∧ (parseHdr (2 ^ 56 + 7)).opn = 0 ∧
    (parseHdr (2 ^ 56 + 2 ^ 24 + 7)).rsn = 1 ∧ tget 0 linked.rx = some { key := 9 } := by decide
def sent0 : Sent := { plane := 0, rsn := 0, bank := 0, ctr := 0, inc := 0, rp := false, grant := 0, rack := 0, pkt := chunk8 [] 0 }
theorem witness_LinkEvents_retry : (∃ b ∈ ((peered { linked with buf := [sent0], retries := [(0, 63)] }).peer 1).buf, b.plane = 0) ∧
    tgetD ((peered { linked with buf := [sent0], retries := [(0, 63)] }).peer 1).retries 0 0 + 1 = 64 ∧ Say.tagsApart st0 := by
  refine ⟨by decide, by decide, ?_⟩
  intro r hr; cases (show r ∈ ([] : List RemReq) from hr)
theorem witness_LinkEvents_bringUp : 1 % 128 ≠ st0.position ∧ st0.recovery = none ∧ 128 % 128 = st0.position ∧ ((peered linked).peer 1).inc ≠ 3 % 256 := by
  decide
theorem witness_LinkEvents_keys : (∀ b ∈ linked.buf, b.bank ≠ 1 - linked.kg) ∧ linked.unconfirmed = false ∧
    (peered { linked with unconfirmed := true, buf := [{ sent0 with bank := 1 }] }).peer 1 = { linked with unconfirmed := true, buf := [{ sent0 with bank := 1 }] } := by
  decide
/-- An entry for the first 4 KiB of 0x200000 that lets package 1's context 0 read, write and perform atomics. -/
def letIn : State := { peered linked with access := [(0, { base := 0x200000, limit := 0x201000, src := 1, valid := true, rights := 7, sctx := 0 })] }
theorem witness_LinkEvents_request : (∀ k, k < 3 → ∃ e ∈ letIn.access, Say.lets e.2 1 0 k 0x200000 0x200008) ∧ st0.access = [] ∧
    prange 0x200000 = .hbm ∧ prange 0x200007 = .hbm ∧ letIn.coh.dir = [] ∧ (0x200001 : Nat) % (aopOf 0).size ≠ 0 ∧ 0x200000 % (aopOf 0).size = 0 ∧
    (bitsSet 0xFF 256).headD 0 = 0 ∧ (bitsSet 0xFF 256).getLastD 0 = 7 := by
  refine ⟨fun k hk => ⟨_, List.mem_singleton.mpr rfl, ?_⟩, by decide, by decide, by decide, by decide, by decide, by decide, by decide, by decide⟩
  match k, hk with
  | 0, _ | 1, _ | 2, _ => exact ⟨rfl, rfl, rfl, by decide, by decide, by decide⟩
/-- A peer's WAITA for the word at 0x200000 to equal 5 (op 1), or to differ from 5, which is what stands there (op 2). -/
def waitBytes : List Byte := toBytes 8 5 ++ toBytes 4 0
theorem witness_LinkEvents_wait : isWait 0 1 waitBytes = true ∧ isWait 0 2 waitBytes = true ∧ isWait 0 0 waitBytes = false ∧
    (∃ e ∈ letIn.access, Say.lets e.2 1 0 0 0x200000 0x200008) ∧ prange 0x200000 = .hbm ∧ prange 0x200007 = .hbm ∧ letIn.sco = [] ∧
    letIn.peerVals 1 (ofBytes ((waitBytes.drop 8).take 4) - 1) 0x200000 = [0] ∧ (0#64 : Word) ≠ 5#64 := by
  refine ⟨by decide, by decide, by decide, ⟨_, List.mem_singleton.mpr rfl, rfl, rfl, rfl, by decide, by decide, by decide⟩, by decide, by decide,
    by decide, by decide, by decide⟩
def asked1 : State := { peered linked with remReqs := [{ rtag := 4, peer := 1, ctx := 0, gid := 1, parts := [(0, 0, 8, 0)] }] }
theorem witness_LinkEvents_response : (asked1.remReqs.find? fun r => r.rtag == 4).any (fun r => r.use == .lanes && (tget r.gid asked1.groups).isSome) = true ∧
    ∀ r ∈ asked1.remReqs, r.rtag ≠ 5 := by decide
theorem witness_LinkEvents_tables : (4095 : Nat) < 4096 ∧ 0x200000 % 4096 = 0 ∧ (0x80 : Nat).testBit 7 = true ∧ 0x80 / 2 ^ 8 % 2 ^ 8 < 16 ∧
    tget 0 st0.ctxs ≠ none ∧ [0, 1].Nodup ∧ st0.position ∈ [0, 1] ∧ tget 65535 st0.collGroups = none ∧ st0.collGroups.length < 1024 := by decide

/-- A fault buffer with every entry taken. -/
def fullBuffer : State := { st0 with fbuf := [(0, List.replicate 512 { kind := 1 })] }
theorem witness_SystemEvents_errors : st0.stopped = [] ∧ st0.fbufOf 0 = [] ∧ ({ st0 with fbuf := [(0, [{ kind := 1 }])] }).fbufOf 0 = [{ kind := 1 }] ∧
    st0.evq.length < Config.eventQueueSize ∧ st0.queueRoom 0 = true ∧ fullBuffer.canPost 0 2 = false ∧ fullBuffer.canPost 0 1 = false ∧
    ∃ s : State, Config.eventQueueSize ≤ s.evq.length :=
  ⟨by decide, by decide, by decide, Nat.succ_pos _, by
      have h : (0 : Nat) < Config.eventQueueSize := Nat.succ_pos _
      simp [State.queueRoom, show st0.fbufOf 0 = [] by decide, show st0.evq = [] by decide, h],
    by decide +kernel, by decide +kernel, ⟨{ st0 with evq := List.replicate Config.eventQueueSize { kind := 1 } }, by simp⟩⟩
theorem witness_SystemEvents_host : tget 0 (bound st0).binds ≠ none ∧ (bound st0).recovery = none ∧ 0x2FFFFFFFF8 + 8 ≤ 0x3000000000 ∧
    (bound st0).coh.dir = [] ∧ (bound st0).bad = [] ∧ tget 1 (bound st0).binds = none ∧
    (∃ l ∈ linesOf 0 8, l ∈ ({ bound st0 with bad := [0] }).bad) ∧ (∃ c ∈ (bound st0).ctxs, c.2.dies.testBit 0 = true ∧ c.2.swapped = false) ∧
    (∀ c ∈ (cx_ (bound st0) fun c => { c with swapped := true }).ctxs, c.2.dies.testBit 0 = true → c.2.swapped = true) := by decide
/-- A management session under a key that the operator has installed (R305); and a die's sensor at 96 °C, at 95 and at 105. -/
def trusted (s : State) : State := { s with sessions := [(0, 7)], opKeys := [7] }
theorem witness_SystemEvents_secure : ((trusted st0).recovery = none ∧ tget 0 (trusted st0).sessions = some 7 ∧ 7 ∈ (trusted st0).opKeys) ∧
    (tget 0 st0.sessions ≠ some 7 ∧ tget 1 (trusted st0).sessions ≠ some 7 ∧ 7 ∉ ({ trusted st0 with opKeys := [8] } : State).opKeys) ∧ 95 < 96 ∧ (95 : Nat) ≤ 95 ∧ tsorted (tset 0 96 st0.temps) = true ∧
    (∀ e ∈ tset 0 96 st0.temps, e.1 < [90, 91, 91, 94].length) := by decide
theorem witness_SystemEvents_system : st0.recovery = none ∧ ({ st0 with recovery := some 2 }).recovery = some 2 ∧ (List.replicate 5 (0 : BitVec 256)).length = 5 ∧
    [true, true, false, true, true] = List.replicate 2 true ++ false :: [true, true] ∧ st0.hot = false ∧ st0.stop = false ∧
    (∀ x ∈ [91, 91], x < 92) ∧ (∃ x ∈ [92, 94], 92 ≤ x) ∧ (∀ x ∈ [92, 94], x < 95) ∧ (∃ x ∈ [95], 95 ≤ x) := by decide
theorem witness_SystemEvents_snapshot : st0.snapCtl.src = 0 ∧ st0.snapCtl.arm = false ∧ st0.snapCtl.src ≠ 1 ∧
    st0.sessions = [] ∧ (0, 7) ∈ (trusted st0).sessions ∧
    (after .snapshotArm (trusted st0)).snapCtl.arm = true ∧ (after .snapshotArm (trusted st0)).snapCtl.frozen = false := by decide
/-! ### Further witnesses: waits, traps and departures -/

/-- What Issues asks, for a group on a core with a pinned segment too. -/
def sets (i : Instr) (s : State) : Bool :=
  s.me.depart.isNone && s.issuable && s.pastEnd.isNone && (preCheck i s.me s.myTeam.tix).isNone && s.ready i == .go && s.me.marks.isEmpty
theorem issues_of {i : Instr} {s : State} (h : sets i s = true) : Issues i s := by
  simp only [sets, Bool.and_eq_true, beq_iff_eq, Option.isNone_iff_eq_none, List.isEmpty_iff] at h
  obtain ⟨⟨⟨⟨⟨a, b⟩, c⟩, d⟩, e⟩, m⟩ := h
  exact ⟨⟨a, b, c, m⟩, d, e⟩
/-- The group at its first word again, ready. -/
def back (s : State) : State := me_ s fun g => g.goTo [(0, 0x10000)]
/-- A group whose LDA has not returned, before a load; and one whose BART meets a write in flight. -/
theorem witness_EmptyBlocksOrTraps_order :
    (let s := back (after (.lda 4 1 0) (at1 0xFF00000000000008 0))
     goes .nop s = true ∧ preCheck (.ld64 5 1 0) s.me s.myTeam.tix = none ∧ s.me.ldaOut = true ∧ s.orderHolds (.ld64 5 1 0) = true ∧
       s.orderHolds (.mov 5 1 0 0) = false ∧ s.myTeam.contv = 0) ∧
    (let s := back (after (.ld64 4 1 0) (at1 0xFF00000000000008 0))
     goes .nop s = true ∧ preCheck .bart s.me s.myTeam.tix = none ∧ s.orderHolds .bart = true ∧ s.orderHolds (.ld64 5 1 0) = false ∧
       (∃ x ∈ s.me.lanes, x.th.pend ≠ [])) := by
  and_intros <;> decide +kernel
/-- Every frame of the team parked. -/
def noFrame (s : State) : State :=
  tm_ s fun t => { t with frames := (upTo 16).map fun i => (i + 1, { gid := 9, st := {}, until_ := .now, tagged := true }) }
theorem witness_TrapDestinations_lapse : (st0.me.sup = false ∧ st0.mmaInFlight st0.cur = false ∧ st0.myTeam.contv = 0) ∧
    (noFrame (conts st0)).myTeam.contv ≠ 0 ∧ (noFrame (conts st0)).myTeam.freeFrame = none ∧ (noFrame (conts st0)).me.sup = false ∧
    (noFrame (conts st0)).mmaInFlight 1 = false := by
  and_intros <;> decide +kernel
/-- The leaf's line, and the word's, with an uncorrectable error. -/
def spoilt (l : Nat) (s : State) : State := { s with bad := [l] }
theorem witness_FetchReads_held : ((spoilt 0x100 st0).tlbFill 0 0 0x10000).tlbFind 0 0 0x10000 = none ∧
    ((spoilt 0x100 st0).tlbFill 0 0 0x10000).walkBad 0 0x10000 = true ∧
    ((spoilt 0x2000 st0).tlbFill 0 0 0x10000).bad.contains (lineOf 0x100000) = true ∧
    ((spoilt 0x2000 st0).tlbFill 0 0 0x10000).walkBad 0 0x10000 = false ∧
    fetched (spoilt 0x2000 st0) 0x10000 = .ok (.mem 0x100000 .coh none 0x10000) :=
  ⟨by decide, by decide, by decide, by decide, okOf (by decide)⟩
/-- Operands at the limits of the clauses: finite and not zero, 2^8 and 2^9 of FEX2, the three bounds of FLG2, the largest that
FSIN reduces and the next. -/
theorem witness_SpecialResults_bounds :
    (∀ x ∈ [1, 0x7F7FFFFF, 0x80000001], x < 2 ^ b32.width ∧ b32.isNaN x = false ∧ b32.isInf x = false ∧ b32.isZero x = false) ∧
    (∀ x ∈ [1, 0x7FEFFFFFFFFFFFFF], x < 2 ^ b64.width ∧ b64.isNaN x = false ∧ b64.isInf x = false ∧ b64.isZero x = false ∧ b64.sign x = false) ∧
    b32.expo 0x43FFFFFF < 136 ∧ 136 ≤ b32.expo 0x44000000 ∧
    (∀ x ∈ [0x3EFFFFFF, 0x3F000000, 0x3F800001, 0x40000000, 0x40000001], b32.sign x = false ∧ b32.isZero x = false ∧ x ≠ 0x3F800000) ∧
    0x49800000 % 2 ^ 31 ≤ 0x49800000 ∧ 0x49800000 < 0xC9800001 % 2 ^ 31 := by decide
/-- XRD into q2, from a thread that there is and from one that there is not. -/
theorem witness_LaneResults_q : goes (.xrd 0x72 3 2 0) (st2 0 15) = true ∧ (st2 0 15).me.key 0x72 = .q 2 ∧
    ((st2 0 15).remap ((st2 0 15).rd 2 (st2 0 15).me.lowE).toNat).isSome = true ∧
    (st2 0 16).remap ((st2 0 16).rd 2 (st2 0 16).me.lowE).toNat = none ∧ goes (.xrd 0x72 3 2 0) (st2 0 16) = true := by decide
/-- A lone lane and the bins of its core: none, one of its team and target with room, and one that is full. -/
def atBin (n : Nat) : State := coreDo (one st0) fun c => { c with
  bins := [(3, { team := 1, addr := 0x10008, recs := List.replicate n (rec3 false), expires := 9, since := 0, due := false })] }
theorem witness_BrgResults_bins : (let s := one st0
     goes (.brg 0xF 2) s = true ∧ s.brgBarred = false ∧ s.mmaInFlight s.cur = false ∧ s.brgLanes 0xF 2 = [(0, 0x10008, true)] ∧
     s.brgFits (s.brgLanes 0xF 2) = true ∧ s.myGrid.bramble = false ∧ s.ringGrids s.me.core = [] ∧ (s.core s.me.core).arrive = [] ∧
     (s.core s.me.core).spill = [] ∧ (s.core s.me.core).bins = [] ∧ tfree 0 (s.core s.me.core).bins < 16) ∧
    (∀ n ∈ [1, 64], goes (.brg 0xF 2) (atBin n) = true ∧ (atBin n).brgFits ((atBin n).brgLanes 0xF 2) = true ∧
      (((atBin n).core 0).bins.find? fun e => e.2.team == 1 && e.2.addr == 0x10008#64 && decide (e.2.recs.length < 64)).map
        (fun e => e.1) = if n = 1 then some 3 else none) := by
  and_intros <;> decide +kernel
/-- Another handler's MMA on the store that the supervisor holds. -/
def supBusy : State := (busyMma (super st0)).modCore 0 fun c => { c with owner := .sup, mmaQ := c.mmaQ.map fun m => { m with gid := 9 } }
/-- Two segments, the second of 128 bytes at 0x10080 with no replica and an entry of `lv` registers; the handler returns from the
first one, which core 0 pins, to it. -/
def twoSegs (lv : Nat) : State :=
  let s := me_ (super (pinned (mapped 0 st0))) fun g => { g with epc := 0x10080 }
  let desc := toBytes 8 0x10080 ++ toBytes 8 0x13008 ++ toBytes 4 128 ++ [1]
  { s with mem := mwrite 0x101080 desc (mwrite 0x10300A [BitVec.ofNat 8 lv] (mwrite 0x101000 [2] (mapMem 0))) }
theorem witness_TrapReturn_departs :
    (supBusy.supMma supBusy.me = true ∧ supBusy.mmaInFlight supBusy.cur = false ∧ goes .eret supBusy = true ∧
      supBusy.me.eMask = supBusy.me.tlanes.toNat) ∧
    (let s := twoSegs 4
     sets .eret s = true ∧ s.me.eMask = s.me.tlanes.toNat ∧ s.me.kept = none ∧ s.localSeg s.me = some segment0 ∧
     s.departs s.me segment0 s.me.pc false s.me.epc = true ∧ s.segOf (s.smap s.myTeam.grid) s.me.epc.toNat = some 1 ∧
     s.entryAt (s.smap s.myTeam.grid) s.me.epc.toNat = some (1, 0, 4, 0, false) ∧ s.me.taskId = 0 ∧ s.myTeam.frames = [] ∧
     s.me.wbase + 4 ≤ s.me.R ∧ s.replicas (s.smap s.myTeam.grid) 1 = [] ∧ s.mmaInFlight s.cur = false ∧ s.supMma s.me = false ∧
     (∀ l ∈ s.me.E, ∀ n, n < 4 → s.me.fullKey l (.v (s.me.wbase + n)) = true)) ∧
    (let s := me_ (twoSegs 96) fun g => { g with wbase := 48 }
     sets .eret s = true ∧ s.entryAt (s.smap s.myTeam.grid) s.me.epc.toNat = some (1, 0, 96, 0, false) ∧ s.me.R < s.me.wbase + 96 ∧
     s.departs s.me segment0 s.me.pc false s.me.epc = true) ∧
    (let s := tm_ (twoSegs 4) fun t => { t with frames := [(1, { gid := 1, st := {}, until_ := .now, tagged := true })] }
     sets .eret s = true ∧ (∃ f ∈ s.myTeam.frames, f.2.gid = s.cur) ∧ s.departs s.me segment0 s.me.pc false s.me.epc = true) := by
  and_intros <;> decide +kernel
/-- RESM of a ready frame while the handler's own MMA is in flight. -/
theorem witness_YieldAndResume_mma : (let s := busyMma (parked .now st0)
    goes (.resm 4 1) s = true ∧ s.me.E = s.me.aliveLanes ∧ s.mmaInFlight s.cur = true ∧
    (tget 1 s.myTeam.frames).any (fun f => f.gid == s.cur && s.frameReady f) = true) := by decide +kernel
/-- BART with a write to q2 in flight. -/
theorem witness_BarrierResults_waits : goes .nop (pendingQ st0) = true ∧ preCheck .bart (pendingQ st0).me 0 = none ∧ (pendingQ st0).myTeam.tix = 0 ∧
    (pendingQ st0).me.qPend ≠ [] := by decide

/-! ### Further witnesses: versions, lines and tasks -/

/-- An LDV of version 3, which the second record serves: its line is in the cluster after a first one. -/
def older : State := back (after (.ldv 4 1 2 0) (dom1 (at1 0x20000 3)))
theorem witness_LoadsComplete_version :
    goes (.ldv 4 1 2 0) (dom1 (at1 0x20000 3)) = true ∧ older.me.taskId = 0 ∧ older.prefetch (whoOf older) 0x20000 8 = older ∧
    target older 0x20000 8 8 .load = some (.mem 0x400000 .coh (some 1) 0x20000) ∧ older.domOldest 0 1 = 3 ∧ older.domOpen 0 1 = 5 ∧
    (older.vrecs (older.pageEntry 0 1 0x20000)).find? (fun r => decide (r.ver ≤ 3)) = some ⟨3, 1, 0x410000⟩ ∧
    older.lineSt (clusterOf older.me.core) (lineOf 0x410000) = some .E ∧ linesOf 0x410000 8 = [0x8200] := by
  and_intros <;> decide +kernel
/-- A load inside a task, with a line of the task that holds a byte and a delta of the word. -/
def specState (s : State) : State := { (inTask s) with
  tasks := [(1, { gid := 1, ctx := 0, abort := 0x10040, lines := [{ line := 0x2000, bytes := [(8, 0xAA)], deltas := [(16, .add, 5)] }] })] }
theorem witness_LoadsComplete_task : (let s := specState (back (warm (at1 0x10008 0)))
    s.me.taskId = 1 ∧ s.prefetch (whoOf s) 0x10008 16 = s ∧ target s 0x10008 8 1 .load = some (.mem 0x100008 .coh none 0x10008) ∧
    s.lineSt (clusterOf s.me.core) 0x2000 = some .E ∧ linesOf 0x100008 16 = [0x2000] ∧
    ((s.task 1).lines.find? fun x => x.line == 0x100008 / 128).map (fun x => (tget 8 x.bytes, tget 9 x.bytes, (x.deltaAt 16).map fun d => d.1)) =
      some (some 0xAA, none, some 16)) := by
  and_intros <;> decide +kernel

/-- Sixteen lanes that store 8 bytes each to the line 0x2001. -/
def lineStore : State := (upTo 16).foldl (fun s l => State.reg s l 1 (BitVec.ofNat 64 (0x10080 + 8 * l))) ((st2 0 7).tlbFill 0 0 0x10000)
def lineTgt (l : Nat) : Target := .mem (0x100080 + 8 * l) .coh none (0x10080 + 8 * l)
theorem witness_StoresComplete_line : goes (.st64 2 1 0) lineStore = true ∧ lineStore.me.taskId = 0 ∧
    (∀ l ∈ lineStore.me.E, lineStore.prefetch (lineStore.who lineStore.me l) (lineStore.rd 1 l) 8 = lineStore ∧
      lineStore.walkHeld (lineStore.who lineStore.me l) (lineStore.rd 1 l) 8 = false ∧
      (lineStore.targets (lineStore.who lineStore.me l) (lineStore.rd 1 l) 8 1 .store).toOption = some [(lineTgt l, 8)]) ∧
    lineStore.me.E.length = lineStore.me.W ∧ lineStore.me.W * 8 = 128 ∧
    (∀ l ∈ lineStore.me.E, (0x100080 + 8 * l) / 128 = 0x2001 ∧ (0x100080 + 8 * l) % 8 = 0) ∧
    Say.freeLine lineStore 0x2001 := by
  refine ⟨?_, ?_, ?_, ?_, ?_, ?_, ?_, ?_, ?_, ?_, ?_⟩ <;> decide +kernel
/-- The page at 0x10000 as SCO, its line in the cluster. -/
def scoPage (s : State) : State := put s 0x8008 1 47
def scoWarm : State := back (after (.ld64 4 1 0) (scoPage (at1 0x10008 7)))
theorem witness_StoresComplete_sco : goes (.st64 2 1 0) scoWarm = true ∧ scoWarm.me.taskId = 0 ∧ scoWarm.prefetch (whoOf scoWarm) 0x10008 8 = scoWarm ∧
    target scoWarm 0x10008 8 1 .store = some (.mem 0x100008 .sco none 0x10008) ∧
    (scoWarm.scoLine 0 0x2000).any (fun y => y.data.length == 128 && y.dirty == 0) = true ∧ clusterOf scoWarm.me.core = 0 := by
  and_intros <;> decide +kernel
/-- A task without the line, whose set has room, and one with it. -/
def taskWarm : State := (inTask (at1 0x10008 7)).tlbFill 0 0 0x10000
theorem witness_StoresComplete_task : goes (.st64 2 1 0) taskWarm = true ∧ taskWarm.prefetch (whoOf taskWarm) 0x10008 8 = taskWarm ∧
    target taskWarm 0x10008 8 1 .store = some (.mem 0x100008 .coh none 0x10008) ∧ taskWarm.me.E = [0] ∧ taskWarm.specRoom 0x2000 = true ∧
    (taskWarm.task 1).lines = [] ∧ (0x100008 : Nat) % 128 + 8 ≤ 128 ∧
    (let s := back (after (.st64 2 1 0) taskWarm)
     goes (.st64 2 1 0) s = true ∧ (s.task 1).lines.map (fun y => (y.line, y.deltas.length)) = [(0x2000, 0)]) := by
  and_intros <;> decide +kernel

/-- An atomic on a line of which a cluster has an SCO copy, one dirty byte in it; the old value is the coherent one. -/
def scoDirty : State := back (after (.st64 2 1 0) scoWarm)
theorem witness_AtomicsComplete_sco : goes (.aadd 3 1 2 0) scoDirty = true ∧ scoDirty.me.taskId = 0 ∧ scoDirty.bad = [] ∧
    scoDirty.prefetch (whoOf scoDirty) 0x10008 8 = scoDirty ∧ target scoDirty 0x10008 8 8 .atomic = some (.mem 0x100008 .sco none 0x10008) ∧
    tget (lineOf 0x100008) scoDirty.coh.dir = none ∧ scoDirty.sco.length = 1 ∧
    (∀ y ∈ scoDirty.sco, y.line = 0x100008 / 128 ∧ (∀ j, j < 8 → y.dirty.testBit (8 + j) = true) ∧
      ofBytes ((y.data.drop 8).take 8) = 7) := by
  and_intros <;> decide +kernel
/-- An atomic in a task with its line in the cluster, and a reduction on a line that the task has. -/
theorem witness_AtomicsComplete_task :
    (let s := inTask (back (warm (at1 0x10008 7)))
     goes (.aadd 3 1 2 0) s = true ∧ s.bad = [] ∧ s.prefetch (whoOf s) 0x10008 8 = s ∧
     target s 0x10008 8 8 .atomic = some (.mem 0x100008 .coh none 0x10008) ∧ s.me.E = [0] ∧ s.specRoom 0x2000 = true ∧
     s.lineSt (clusterOf s.me.core) 0x2000 = some .E ∧ s.sco = []) ∧
    (let s := specState (back (warm (at1 0x10010 7)))
     goes (.aadd 0x79 1 2 0) s = true ∧ s.prefetch (whoOf s) 0x10010 8 = s ∧
     target s 0x10010 8 8 .atomic = some (.mem 0x100010 .coh none 0x10010) ∧
     ((s.task 1).lines.find? fun y => y.line == 0x100010 / 128).any (fun y =>
       ((upTo 8).all fun j => (tget (0x10 + j) y.bytes).isNone) && y.deltas == [(16, .add, 5)]) = true) := by
  and_intros <;> decide +kernel
theorem witness_AccessTraps_bad : (at1 0x70000 0).bad = [] ∧ (walked1 (at1 0x70000 0) 0x70000).bad = [] := by decide

/-- A line of which nothing pends, and one with a copy in U and its partial. -/
def inU : State := withCoh { lines := [copyOf 1 (.U .add) false], dir := [(line, { st := .U .add, holders := [1] })] }
theorem witness_CacheResults_pref : goes (.pref 1 3) inU = true ∧ st0.coh.lines = [] ∧ Say.partials st0 line = [] ∧ ¬Say.lineStoreOut st0 line ∧
    Say.coherentByte st0 (line * 128) 0 ∧ Say.stillLine inU line ∧ inU.sco = [] ∧ Say.partials inU line = [(.add, [(0, 7)])] := by
  refine ⟨by decide, by decide, by decide, ?_, .inr ⟨(fun y hy => nomatch (show y ∈ ([] : List Sco) from hy)), by decide⟩, ?_, by decide, by decide⟩
  · rintro (⟨m, hm, _⟩ | ⟨e, he, _⟩ | ⟨c, v, h⟩ | ⟨c, v, h⟩)
    · cases (show m ∈ ([] : List Msg) from hm)
    · cases (show e ∈ ([] : Tab (List (Nat × Nat × Req))) from he)
    · cases (show (c, Req.wrL v) ∈ ([] : List (Nat × Req)) from h)
    · cases (show (none : Option (Nat × Req)) = some (c, .wrL v) from h)
  · refine ⟨by decide, by decide, by decide, by decide, by decide, by decide, ?_⟩
    intro y hy _
    obtain rfl : y = copyOf 1 (.U .add) false := by simpa using (show y ∈ [copyOf 1 (.U .add) false] from hy)
    exact ⟨rfl, fun k _ => ⟨⟨.add, by decide⟩, by decide⟩⟩

/-! ### Further witnesses: locks, tasks and events -/

/-- A LUPG that another team's hold, younger by no more than nothing, keeps waiting. -/
def upgrading : State := { at1 0 0 with holds := [{ ctx := 0, desc := 0, team := 1, mode := 3 }, { ctx := 0, desc := 0, team := 2, mode := 3 }] }
theorem witness_LockResults_upgrade : goes (.lupg 3 1 6) upgrading = true ∧ upgrading.heldMode 0 0 1 = 3 ∧ covers 3 6 = false ∧
    upgrading.lockHier true 6 0 = false ∧ upgrading.hasEntry 0 0 1 = true ∧ upgrading.lockPasses 0 0 1 (join 3 6) true = false ∧
    upgrading.age 2 ≤ upgrading.age 1 ∧ upgrading.me.fullKey 0 (upgrading.me.key 3) = true := by
  and_intros <;> decide +kernel
/-- A TSKE behind a read that is out; and one of a task with a byte and a delta of one line, which no cache holds. -/
def committing : State := specState st0
theorem witness_TaskResults_commit :
    (let s := inTask (back (warm (at1 0x10000 0)))
     goes .tske s = true ∧ s.readsOut = true) ∧
    (goes .tske committing = true ∧ committing.readsOut = false ∧ committing.coh.dir = [] ∧ committing.sco = [] ∧
      (tget 1 committing.tasks).any (fun k => k.gid == committing.cur && k.lines.length == 1) = true ∧
      ∀ x ∈ (committing.task 1).lines, Say.taskLine x ∧ x.ver = none) := by
  refine ⟨by decide +kernel, by decide, by decide, by decide, by decide, by decide, ?_⟩
  intro x hx
  obtain rfl : x = { line := 0x2000, bytes := [(8, 0xAA)], deltas := [(16, .add, 5)] } :=
    List.mem_singleton.mp (show x ∈ [({ line := 0x2000, bytes := [(8, 0xAA)], deltas := [(16, .add, 5)] } : SpecLine)] from hx)
  refine ⟨⟨by decide, by decide, ?_, by decide⟩, rfl⟩
  decide
/-- A ring's record whose target lies in no segment, on a core that pins another grid's segment or none. -/
theorem witness_RecordEvents_nowhere : (mapped 1 st0).segOf ((mapped 1 st0).smap 1) 0x10080 = none ∧
    (mapped 1 st0).segOf ((mapped 1 st0).smap 1) 0x1007C = some 0 ∧ (mapped 1 st0).maps.any (fun e => e.2.contains 0) = true := by
  and_intros <;> decide +kernel
/-- A group that waits at its instruction, and what it waited for has come; and a load in flight that a wound finds. -/
theorem witness_GroupEvents_able : (let s := me_ (later 256 st0) fun g => { g with wait := .regs, able := true };
      (s.grp 1).boosted = none ∧ (s.grp 1).able = true ∧ s.readyGroup 1 = false ∧ (s.grp 1).readyAt + 256 ≤ s.tick ∧ (s.grp 1).loc = .onCore) ∧
    (let s := wounded (me_ st0 fun g => g.modLane 3 fun y => y.awaits { key := .v 40, val := 7, by_ := .load });
      s.canDeliver 1 = true ∧ ((s.grp 1).settleLoads.lane 3).th.pend = [] ∧ (s.grp 1).settleLoads.readKey 3 (.v 40) = 7 ∧
      (s.grp 1).settleLoads.fullKey 3 (.v 40) = true) := by
  and_intros <;> decide +kernel
/-- A forward that a cluster's cache or its writeback buffer serves, and the answer that makes the requester the owner. -/
def forwarding (st : LineSt) (b : Bool) : State :=
  withCoh { (msg .fwdS) with lines := [copyOf 1 st b], dir := [(line, openTxn .F .rdS)] }
theorem witness_CoherenceEvents_forwards : (∀ st ∈ [LineSt.M, .O, .E], ∀ b, (forwarding st b).cline 1 line = some (copyOf 1 st b) ∧
      (copyOf 1 st b).wb = b ∧ ((forwarding st b).dirOf line).txn = some (0, .rdS) ∧
      (forwarding st b).coh.msgs = [{ kind := .fwdS, cl := 1, line := line }]) ∧
    (∀ w ∈ [LineSt.M, .E, .S], (withCoh { (msg (.fwdAck w)) with dir := [(line, openTxn .F .rdS)] }).coh.msgs =
      [{ kind := .fwdAck w, cl := 1, line := line }]) ∧
    (withCoh { (msg .coll) with lines := [copyOf 1 .S false] }).cline 1 line = some (copyOf 1 .S false) ∧
    (withCoh { (msg .coll) with lines := [copyOf 1 (.U .add) false] }).cline 1 line = some (copyOf 1 (.U .add) false) := by
  and_intros <;> decide
/-- The copy of a versioned page with slots to spare: the frame, the page entry, the domain's entry and the tables lie apart. -/
def cowState : State := copying (dom1 st0)
theorem witness_MemoryEvents_cow : cowState.cowOf 0 2 = some { ctx := 0, vpage := 2, dom := 1, frame := 0x500000, tier := none } ∧
    cowState.pageEntry 0 1 0x20000 = 0x310000 ∧ (cowState.vrec 0x310000).frame = 0x400000 ∧ cowState.domAddr 0 1 = 0x300040 ∧
    (cowState.ctx 0).root = 0x2000 ∧ Memory.wf cowState.mem = true ∧ cowState.bad = [] ∧ Say.stillCaches cowState ∧
    Say.entryAt cowState 0x20000 0x2000 0 = 0x2000 ∧ Say.entryAt cowState 0x20000 0x2000 3 = 0x8010 ∧
    (∀ n, n < 4 → Say.disjoint (Say.entryAt cowState 0x20000 0x2000 n) 8 0x500000 65536 ∧
      Say.disjoint (Say.entryAt cowState 0x20000 0x2000 n) 8 0x310000 256) ∧
    Say.disjoint 0x310000 256 0x500000 65536 ∧ Say.disjoint 0x300040 4 0x500000 65536 := by
  unfold Say.stillCaches Say.disjoint
  and_intros <;> decide +kernel
/-- A collective packet that an entry lets in, with room in the vault's staging bytes, with none, and behind others. -/
def staging (n : Nat) (w : List CollHeld) : State :=
  { st0 with collGroups := [(0, { ctx := 0, members := [0, 1], staging := n })], collWait := w, staging := (upTo 12).map fun i => (i, 0),
             access := [(0, { base := 0, limit := 4096, src := 1, valid := true, rights := 8, sctx := 0 })] }
theorem witness_EngineEvents_staging : (∃ e ∈ (staging 8 []).access, Say.letsColl e.2 1 0) ∧ (∀ e ∈ st0.access, ¬Say.letsColl e.2 1 0) ∧
    (staging 8 []).stageRoom (chunk8 [0] 0) = true ∧ (staging 8 []).collWait = [] ∧ (staging 7 []).stageRoom (chunk8 [0] 0) = false ∧
    (staging 8 [{ peer := 1, plane := 0, pool := false, flits := 1, pkt := chunk8 [0] 0 }]).collWait ≠ [] ∧ (staging 8 []).bad = [] := by
  refine ⟨⟨_, List.mem_singleton.mpr rfl, rfl, rfl, rfl, by decide⟩, (fun e he => nomatch (show e ∈ ([] : Tab Access) from he)), ?_, rfl, ?_, by decide, rfl⟩
  · simp only [State.stageRoom, Bool.or_eq_true]; left; decide
  · have h : (upTo 12).foldl (fun n i => n + (staging 7 []).channels i) 0 = 0 := by decide
    simp only [State.stageRoom, h, Nat.zero_mul]; decide
/-- Queue calls at the limits of their ranges, and a package that holds contexts 0 and 2. -/
theorem witness_QueueEvents_number : tfree 0 ({ st0 with ctxs := [(0, {}), (2, {})] }).ctxs = 1 ∧
    tsorted ({ st0 with ctxs := [(0, {}), (2, {})] }).ctxs = true ∧ (15 : Nat) < 16 ∧ 4096 < 4096 + 1 ∧ 16384 < 16383 + 2 := by decide
/-- A deadline of 50000 clocks and a YLIM of 1051, which is 2 µs when rounded up, beside the 4: the last clock before the request
and the first of it. -/
def preqAt (n : Nat) : State :=
  later n (cx_ (gr_ st0 fun g => { g with pkt := { g.pkt with flags := 32, deadline := 50000 }, teams := [1] }) fun c => { c with ylim := 1051 })
theorem witness_LaunchEvents_preq : ((preqAt 0).ctx ((preqAt 0).grid 1).ctx).ylim.toNat = 1051 ∧
    1050 * ((1051 + 1049) / 1050 + 4) = 6300 ∧ tget 1 (preqAt 43700).teams ≠ none ∧ ((preqAt 43700).team 1).preq = none ∧
    (preqAt 43699).tick + 6300 < 50000 ∧ 50000 ≤ (preqAt 43700).tick + 6300 := by decide
/-- Headers with LEN 0 and 19, OPN 9, and OPN 1 of a type that has none; a key and a counter that the bank does not have. -/
theorem witness_LinkEvents_errors : (parseHdr 7).len = 0 ∧ (parseHdr (19 * 2 ^ 56 + 7)).len = 19 ∧ 18 < (19 : Nat) ∧
    (∃ b, tget 0 linked.rx = some b ∧ (b.key ≠ 8 ∨ tgetD b.ctr 0 0 ≠ 0)) ∧ (∃ b, tget 0 linked.rx = some b ∧ (b.key ≠ 9 ∨ tgetD b.ctr 0 0 ≠ 1)) ∧
    letIn.bad = [] := by
  refine ⟨by decide, by decide, by decide, ⟨_, rfl, .inl (by decide)⟩, ⟨_, rfl, .inr (by decide)⟩, rfl⟩
theorem witness_SystemEvents_covered : Say.covered (trusted st0) (0, 7) ∧ ¬Say.covered (trusted st0) (0, 8) ∧ ¬Say.covered st0 (0, 7) ∧
    (∃ e ∈ (trusted st0).sessions, Say.covered (trusted st0) e) ∧ (∀ e ∈ st0.sessions, ¬Say.covered st0 e) :=
  ⟨by unfold Say.covered; decide, by unfold Say.covered; decide, by unfold Say.covered; decide,
    ⟨(0, 7), by decide, by unfold Say.covered; decide⟩, fun e he => nomatch (show e ∈ ([] : Tab Nat) from he)⟩

end Sys2Proof.Tests
end

section
/-!
TRAP, SVC and BKPT (R329, R400): the word of BKPT, and what an exception that goes to TVEC does when it is entered at
once, in user and in supervisor mode (R264).
-/
namespace Sys2Proof.Machine

/-! ### The word of BKPT -/

/-- The b field stands at bit 3, below every bit of the match value, so that adding and joining the two agree. -/
theorem encode_bkpt (c : BitVec 7) : encode (.bkpt c) = some (0xCE000000#32 ||| c.setWidth 32 <<< 3) := by
  have hc := c.isLt
  have hjoin : 0xCE000000 + c.toNat * 8 = 0xCE000000 ||| c.toNat * 8 :=
    Nat.two_pow_add_eq_or_of_lt (i := 25) (by omega) 0x67
  have hfield : (c.setWidth 32 <<< 3).toNat = c.toNat * 8 := by
    rw [BitVec.toNat_shiftLeft, BitVec.toNat_setWidth, Nat.shiftLeft_eq]
    omega
  refine congrArg some (BitVec.eq_of_toNat_eq ?_)
  calc (BitVec.ofNat 32 (0xCE000000 + c.toNat * 8)).toNat
    _ = 0xCE000000 + c.toNat * 8 := by rw [BitVec.toNat_ofNat, Nat.mod_eq_of_lt (by omega)]
    _ = (0xCE000000#32 ||| c.setWidth 32 <<< 3).toNat := by rw [BitVec.toNat_or, hfield]; exact hjoin

/-! ### The present group of an issue -/

/-- A group that stands in no table has no lane to issue. -/
theorem present_of_E {s : State} (h : s.me.E ≠ []) : ∃ x, tget s.cur s.groups = some x := by
  cases hx : tget s.cur s.groups with
  | some x => exact ⟨x, rfl⟩
  | none =>
    have hme : s.me = {} := by simp [State.me, State.grp, tgetD, hx]
    exact absurd (by rw [hme]; rfl) h

theorem Stands.E_ne_nil {s : State} (h : Stands s) : s.me.E ≠ [] := by
  have hable := h.able
  simp only [State.issuable, Bool.and_eq_true, Bool.not_eq_true', List.isEmpty_eq_false_iff] at hable
  obtain ⟨⟨hE, -⟩, -⟩ := hable
  exact hE

/-- What a change of the present group makes of it after the tried instruction was dropped. -/
theorem me_modGrp_dropTry {s : State} (h : s.me.E ≠ []) (f : Group → Group) :
    ((s.dropTry s.cur).modGrp s.cur f).me = f { s.me.unmark with fetched := [], last := false } := by
  obtain ⟨x, hx⟩ := present_of_E h
  have hd : tget s.cur (s.dropTry s.cur).groups = some { x.unmark with fetched := [], last := false } := by
    simp only [State.dropTry, State.modGrp, tget_tmod_same, hx, Option.map_some]
  exact (grp_modGrp_same _ _ f _ hd).trans (congrArg f (grp_dropTry s s.cur))

/-! ### An exception for TVEC -/

/-- The exception of every lane of E, at its instruction. -/
def State.dueAt (s : State) (c : Cause) (v : Word) : TrapDue :=
  { cause := c, tval := v, epc := s.me.pc, lanes := s.me.eMask, async := false, task := s.me.taskId }

theorem raise_of_canEnter {s : State} {c : Cause} (v : Word) (h : s.canEnter s.cur c = true) :
    s.raise c v = s.enterTrap s.cur (s.dueAt c v) := by
  obtain ⟨-, hr⟩ | ⟨hn, -⟩ := raise_cases s c v
  · exact hr
  · rw [h] at hn; contradiction

/-- A trap in supervisor mode, outside a task, ends the grid where its record finds room (R264). EMPTY is left out: it may
lapse (R266). -/
theorem raise_sup {s : State} {c : Cause} (v : Word) (hc : c ≠ .empty) (hm : s.mmaInFlight s.cur = false)
    (hs : s.me.sup = true) (ht : s.me.taskId = 0) (hp : s.canPost (dieOf s.me.core) 3 = true) :
    s.raise c v = (s.dropTry s.cur).gridFatal s.myTeam.grid s.me.core c v s.me.pc s.me.team := by
  have hfatal : s.fatalTrap s.cur c = true := by
    rw [State.fatalTrap, show (s.grp s.cur).sup = true from hs]; rfl
  have henter : s.canEnter s.cur c = true := by
    have hroom : s.canPost (dieOf (s.grp s.cur).core) 3 = true := hp
    simp [State.canEnter, State.recordKind, hm, hfatal, hroom]
  have hlapse : s.emptyLapses s.cur c = false := by simp [State.emptyLapses, hc]
  rw [raise_of_canEnter v henter]
  exact enterTrap_fatal s s.cur (s.dueAt c v) hfatal hlapse ht

/-- A cause for TVEC from user mode, outside a task, is entered at once: the tried instruction is dropped, and the group
takes the trap record. PAGE and VPOOL have another destination (R262). -/
theorem raise_user {s : State} {c : Cause} (v : Word) (hd : s.myTeam.dest c = .tvec) (hp : c ≠ .page) (hv : c ≠ .vpool)
    (hm : s.mmaInFlight s.cur = false) (hs : s.me.sup = false) (ht : s.me.taskId = 0)
    (hvec : (s.ctx (s.ctxOf s.me)).tvec ≠ 0) :
    s.raise c v = (s.dropTry s.cur).modGrp s.cur fun g =>
      g.enterTvec (s.ctx (s.ctxOf s.me)).tvec { s.dueAt c v with task := 0 } := by
  have hfatal : s.fatalTrap s.cur c = false := by
    have hsup : (s.grp s.cur).sup = false := hs
    have hvec' : (s.ctx (s.ctxOf (s.grp s.cur))).tvec ≠ 0 := hvec
    simpa [State.fatalTrap, hsup] using fun _ => hvec'
  have hrecord : s.recordKind s.cur c = none := by
    unfold State.recordKind
    rw [hfatal]
    cases c
    case page => contradiction
    case vpool => contradiction
    all_goals rfl
  have henter : s.canEnter s.cur c = true := by simp [State.canEnter, hm, hrecord]
  rw [raise_of_canEnter v henter]
  exact enterTrap_tvec s s.cur (s.dueAt c v) hfatal ht rfl hd hp hv

/-! ### The instructions -/

theorem exec_trap {c : BitVec 7} {s : State} (h : Issues (.trap c) s) :
    exec (.trap c) s = .next (s.raise .trap (c.setWidth 64)) := issue_trap h rfl

theorem exec_svc {c : BitVec 7} {s : State} (h : Issues (.svc c) s) :
    exec (.svc c) s = .next (s.raise .svc (c.setWidth 64)) := issue_trap h rfl

theorem exec_bkpt {c : BitVec 7} {s : State} (h : Issues (.bkpt c) s) :
    exec (.bkpt c) s = .next (s.raise .bkpt (c.setWidth 64)) := issue_trap h rfl

/-- The trap record that BKPT leaves in user mode (R264, R329). -/
theorem raise_bkpt_record {s : State} (v : Word) (hE : s.me.E ≠ []) (hm : s.mmaInFlight s.cur = false)
    (hs : s.me.sup = false) (ht : s.me.taskId = 0) (hvec : (s.ctx (s.ctxOf s.me)).tvec ≠ 0) :
    (s.raise .bkpt v).me.sup = true ∧ (s.raise .bkpt v).me.epc = s.me.pc ∧ (s.raise .bkpt v).me.tval = v ∧
      (s.raise .bkpt v).me.cause = 0x19#64 := by
  rw [raise_user v rfl (by decide) (by decide) hm hs ht hvec, me_modGrp_dropTry hE]
  exact ⟨rfl, rfl, rfl, rfl⟩

/-- Settles O36: each of the three is an issue whose meaning traps; the record and the end of the grid are those of an
exception for TVEC. -/
theorem softwareTraps : Obligations.SoftwareTraps := by
  refine ⟨encode_bkpt, rfl, fun s c => ⟨exec_trap, exec_svc, fun h => ⟨exec_bkpt h, ?_, ?_⟩⟩⟩
  · exact raise_bkpt_record _ h.stands.E_ne_nil
  · exact raise_sup _ (by decide)

end Sys2Proof.Machine
end

section
/-!
JOIN, LEAVE, KSET, KLOG, WAITK and KGET (R36, R37, R358 to R361, R372): their words, what a mask write and CheckRelease
leave in every lane, and where the lanes of E go on behind them.
-/
namespace Sys2Proof.Machine

/-! ### The words -/

/-- A word with fields at bits 17 and 10 alone: they stand apart, so that adding and joining them agree. -/
theorem wordT_two_fields (o : Nat) (ho : o < 2 ^ 8) (d a : BitVec 7) :
    wordT (o * 2 ^ 24) d a 0 0 =
      some (BitVec.ofNat 32 (o * 2 ^ 24) ||| d.setWidth 32 <<< 17 ||| a.setWidth 32 <<< 10) := by
  have hd := d.isLt
  have ha := a.isLt
  have hfield : ∀ (x : BitVec 7) (n : Nat), n ≤ 17 → (x.setWidth 32 <<< n).toNat = x.toNat * 2 ^ n := fun x n hn => by
    have hx : x.toNat * 2 ^ n < 2 ^ 7 * 2 ^ 17 :=
      Nat.mul_lt_mul_of_lt_of_le x.isLt (Nat.pow_le_pow_right (by decide) hn) (by decide)
    rw [BitVec.toNat_shiftLeft, BitVec.toNat_setWidth, Nat.shiftLeft_eq, Nat.mod_eq_of_lt (a := x.toNat) (by omega)]
    exact Nat.mod_eq_of_lt (by omega)
  have hjoin : o * 2 ^ 24 + d.toNat * 2 ^ 17 + a.toNat * 2 ^ 10 = o * 2 ^ 24 ||| d.toNat * 2 ^ 17 ||| a.toNat * 2 ^ 10 :=
    calc o * 2 ^ 24 + d.toNat * 2 ^ 17 + a.toNat * 2 ^ 10
      _ = 2 ^ 17 * (o * 2 ^ 7 + d.toNat) + a.toNat * 2 ^ 10 := by omega
      _ = (2 ^ 24 * o + d.toNat * 2 ^ 17) ||| a.toNat * 2 ^ 10 := by
        rw [Nat.two_pow_add_eq_or_of_lt (by omega), show 2 ^ 17 * (o * 2 ^ 7 + d.toNat) = 2 ^ 24 * o + d.toNat * 2 ^ 17 by omega]
      _ = _ := by rw [Nat.two_pow_add_eq_or_of_lt (by omega), Nat.mul_comm o]
  rw [wordT, show (0 : BitVec 7).toNat * 2 ^ 3 = 0 from rfl, Nat.add_zero]
  refine congrArg some (BitVec.eq_of_toNat_eq ?_)
  rw [BitVec.toNat_ofNat, Nat.mod_eq_of_lt (by omega), BitVec.toNat_or, BitVec.toNat_or, hfield d 17 (by decide),
    hfield a 10 (by decide), BitVec.toNat_ofNat, Nat.mod_eq_of_lt (a := o * 2 ^ 24) (by omega), hjoin]

theorem wordT_one_field (o : Nat) (ho : o < 2 ^ 8) (d : BitVec 7) :
    wordT (o * 2 ^ 24) d 0 0 0 = some (BitVec.ofNat 32 (o * 2 ^ 24) ||| d.setWidth 32 <<< 17) :=
  (wordT_two_fields o ho d 0).trans (by simp)

theorem encode_join (k : BitVec 7) : encode (.join k) = some (0xD0000000#32 ||| k.setWidth 32 <<< 17) :=
  wordT_one_field 0xD0 (by decide) k

theorem encode_leave (k : BitVec 7) : encode (.leave k) = some (0xD1000000#32 ||| k.setWidth 32 <<< 17) :=
  wordT_one_field 0xD1 (by decide) k

theorem encode_kset (k : BitVec 7) (a : Spec) :
    encode (.kset k a) = some (0xD4000000#32 ||| k.setWidth 32 <<< 17 ||| a.setWidth 32 <<< 10) :=
  wordT_two_fields 0xD4 (by decide) k a

/-! ### Masks -/

/-- A mask register reads back what was written, less the bits at W and above (R61). -/
theorem mask_setMask_same (g : Group) (k m : Nat) (hW : g.W ≤ 64) : (g.setMask k m).mask k = m % 2 ^ g.W := by
  have hlt : m % 2 ^ g.W < 2 ^ 64 :=
    (Nat.mod_lt _ (by positivity)).trans_le (Nat.pow_le_pow_right (by decide) hW)
  simp only [Group.mask, Group.setMask, tgetD_tset_same, BitVec.toNat_ofNat, Nat.mod_eq_of_lt hlt, Nat.mod_mod]

theorem mask_setMask_other (g : Group) {k j : Nat} (m : Nat) (h : j ≠ k) : (g.setMask k m).mask j = g.mask j := by
  simp only [Group.mask, Group.setMask, tgetD_tset_other _ _ _ h]

/-- A mask reads the mask registers and the width alone. -/
theorem mask_congr {g h : Group} (hk : g.k = h.k) (hW : g.W = h.W) (j : Nat) : g.mask j = h.mask j := by
  simp only [Group.mask, hk, hW]

/-! ### CheckRelease -/

theorem length_imapFrom {α β : Type} (f : Nat → α → β) (n : Nat) (l : List α) : (imapFrom f n l).length = l.length := by
  induction l generalizing n with
  | nil => rfl
  | cons x r ih => simp [imapFrom, ih]

theorem modLanes_length (g : Group) (p : Nat → Bool) (f : Nat → Lane → Lane) :
    (g.modLanes p f).lanes.length = g.lanes.length := length_imapFrom _ _ _

/-- A lane that a group does not have waits at nothing. -/
theorem lt_length_of_waitK {g : Group} {l k : Nat} (h : (g.lane l).status = .waitK k) : l < g.lanes.length := by
  by_contra hl
  rw [lane_default hl] at h
  cases h

/-- The test of CheckRelease: every member of the mask waits at it. -/
theorem all_members_wait_iff (g : Group) (k : Nat) :
    ((upTo g.W).all fun i => !(g.mask k).testBit i || (g.lane i).status == .waitK k) = true ↔
      ∀ i, i < g.W → (g.mask k).testBit i = true → (g.lane i).status = .waitK k := by
  simp [upTo, List.all_eq_true, imp_iff_not_or]

theorem checkRelease_frame (g : Group) (k : Nat) : g.checkRelease k = { g with lanes := (g.checkRelease k).lanes } := by
  unfold Group.checkRelease
  dsimp only
  split <;> rfl

theorem checkRelease_length (g : Group) (k : Nat) : (g.checkRelease k).lanes.length = g.lanes.length := by
  unfold Group.checkRelease
  dsimp only
  split
  · exact modLanes_length _ _ _
  · rfl

/-- CheckRelease leaves in every lane what R37 says. -/
theorem lane_checkRelease (g : Group) (k l : Nat) : (g.checkRelease k).lane l = Say.released g k l := by
  unfold Group.checkRelease Say.released
  dsimp only
  simp only [all_members_wait_iff]
  by_cases hall : ∀ i, i < g.W → (g.mask k).testBit i = true → (g.lane i).status = .waitK k
  · rw [if_pos hall, lane_modLanes]
    by_cases hw : (g.lane l).status = .waitK k
    · rw [if_pos ⟨lt_length_of_waitK hw, by simpa using hw⟩, if_pos ⟨hall, hw⟩]
      rfl
    · rw [if_neg (by simp [hw]), if_neg fun h => hw h.2]
  · rw [if_neg hall, if_neg fun h => hall h.1]

/-- CheckRelease touches no lane that does not wait at the mask. -/
theorem released_of_not_waiting {g : Group} {k l : Nat} (h : (g.lane l).status ≠ .waitK k) :
    Say.released g k l = g.lane l := if_neg fun hr => h hr.2

theorem ready_of_mem_E {g : Group} {l : Nat} (h : l ∈ g.E) : (g.lane l).status = .ready := by
  have hr := runnable_of_mem_E h
  simp only [Group.runnable, Bool.and_eq_true, beq_iff_eq] at hr
  obtain ⟨⟨-, hready⟩, -⟩ := hr
  exact hready

/-! ### Lanes of E that go on in place -/

theorem goTo_frame (g : Group) (ts : List (Nat × Word)) : ∃ X, g.goTo ts = { g with lanes := X } := by
  unfold Group.goTo
  induction ts generalizing g with
  | nil => exact ⟨g.lanes, rfl⟩
  | cons t ts ih => exact ih (g.modLane t.1 _)

/-- A change of lanes and masks after which some lanes of E go on in place: nothing outside the present group changes, and in
it only lanes and masks. -/
theorem masksOnly_goneTo (s : State) (f : Group → Group) (L : List Lane) (K : Tab (BitVec 64))
    (hf : f s.me = { s.me with lanes := L, k := K }) (hL : L.length = s.me.lanes.length) (p : Nat → Bool) (v : Nat → Word)
    {ts : List (Nat × Word)} (hts : ts = (s.me.E.filter p).map fun l => (l, v l)) :
    let t := (s.modMe f).goneTo ts
    OnlyMe s t ∧ Say.masksOnly s.me t.me ∧ (∀ j, t.me.mask j = (f s.me).mask j) ∧
      ∀ l, t.me.lane l = if l ∈ s.me.E ∧ p l = true then { (f s.me).lane l with pcv := v l, freed := none }
        else (f s.me).lane l := by
  intro t
  have hme : t.me = { ((f s.me).goTo ts).noteWaiting s.tick with
      readyAt := s.tick, boosted := none, wait := .none, latched := none, fetched := [], last := false } :=
    (me_goneTo (s.modMe f) ts).trans (by rw [me_modMe, tick_modMe])
  have hrange : ∀ l ∈ s.me.E.filter p, l < (f s.me).lanes.length := fun l hl => by
    rw [hf]
    exact hL ▸ lt_length_of_mem_E (List.mem_of_mem_filter hl)
  obtain ⟨-, -, hlane⟩ := foldl_modLane (fun x y => { y with pcv := x, freed := none }) v (s.me.E.filter p) (f s.me)
    ((E_nodup s.me).filter p) hrange
  obtain ⟨X, hX⟩ := goTo_frame (f s.me) ts
  have hgo : (f s.me).goTo ts = { s.me with lanes := X, k := K } :=
    hX.trans (congrArg (fun g : Group => { g with lanes := X }) hf)
  refine ⟨onlyMe_goneTo s f ts, ?_, mask_congr ?_ ?_, fun l => ?_⟩
  · rw [hme, hgo]
    rfl
  · rw [hme, hgo, hf]
    rfl
  · rw [hme, hgo, hf]
    rfl
  · rw [← hts] at hlane
    rw [hme]
    exact (hlane l).trans (by simp only [List.mem_filter])

/-! ### The instructions that write a mask -/

/-- A group whose mask was written, after CheckRelease where it follows. -/
def Group.putMask (g : Group) (k m : Nat) (check : Bool) : Group :=
  if check then (g.setMask k m).checkRelease k else g.setMask k m

theorem putMask_frame (g : Group) (k m : Nat) (check : Bool) :
    g.putMask k m check = { g with lanes := (g.putMask k m check).lanes, k := (g.setMask k m).k } := by
  cases check with
  | false => rfl
  | true => exact checkRelease_frame (g.setMask k m) k

theorem putMask_length (g : Group) (k m : Nat) (check : Bool) : (g.putMask k m check).lanes.length = g.lanes.length := by
  cases check with
  | false => rfl
  | true => exact checkRelease_length (g.setMask k m) k

theorem mask_putMask (g : Group) (k m : Nat) (check : Bool) (j : Nat) :
    (g.putMask k m check).mask j = (g.setMask k m).mask j := by
  rw [putMask_frame]
  rfl

theorem lane_putMask (g : Group) (k m : Nat) (check : Bool) (l : Nat) :
    (g.putMask k m check).lane l = if check then Say.released (g.setMask k m) k l else g.lane l := by
  cases check with
  | false => rfl
  | true => exact lane_checkRelease (g.setMask k m) k l

/-- The lanes of E do not wait, so that a mask write leaves them as they are. -/
theorem lane_putMask_of_mem_E {g : Group} {l : Nat} (h : l ∈ g.E) (k m : Nat) (check : Bool) :
    (g.putMask k m check).lane l = g.lane l := by
  have hne : ((g.setMask k m).lane l).status ≠ .waitK k := by
    rw [show (g.setMask k m).lane l = g.lane l from rfl, ready_of_mem_E h]
    exact LaneStatus.noConfusion
  rw [lane_putMask, released_of_not_waiting hne]
  exact ite_self _

/-- A change of the present group is what it makes of that group. -/
theorem modMe_congr {s : State} {f g : Group → Group} (h : f s.me = g s.me) : s.modMe f = s.modMe g := congrArg s.setMe h

theorem exec_join (k : BitVec 7) (s : State) :
    exec (.join k) s =
      issue (.join k) (fun s => .done (s.modMe fun g => g.putMask k.toNat (Nat.lor (g.mask k.toNat) g.eMask) false)) s := rfl

theorem exec_leave (k : BitVec 7) (s : State) :
    exec (.leave k) s = issue (.leave k) (fun s =>
      .done (s.modMe fun g => g.putMask k.toNat (Nat.land (g.mask k.toNat) (2 ^ 64 - 1 - g.eMask)) true)) s := rfl

theorem exec_kset (k : BitVec 7) (a : Spec) (s : State) :
    exec (.kset k a) s = issue (.kset k a) (fun s =>
      .done (s.modMe fun g => g.putMask k.toNat (Nat.land (s.rd a s.me.lowE).toNat (maskOf g.aliveLanes)) true)) s := rfl

theorem exec_klog (k j m : BitVec 7) (op : BitVec 3) (s : State) :
    exec (.klog k j m op) s = issue (.klog k j m op) (fun s => .done (s.modMe fun g =>
      g.putMask k.toNat (Nat.land (klogOp op.toNat (g.mask j.toNat) (g.mask m.toNat)) (maskOf g.aliveLanes)) true)) s := rfl

/-- Each of the four is an issue that writes the mask said of it. -/
theorem exec_maskOp {i : Instr} {s : State} {k m : Nat} {check : Bool} (h : Say.maskOp s i = some (k, m, check)) :
    ∃ sem, exec i s = issue i sem s ∧ sem s = .done (s.modMe fun g => g.putMask k m check) := by
  unfold Say.maskOp at h
  split at h
  case h_1 => cases h; exact ⟨_, exec_join _ s, congrArg Res.done (modMe_congr rfl)⟩
  case h_2 => cases h; exact ⟨_, exec_leave _ s, congrArg Res.done (modMe_congr rfl)⟩
  case h_3 => cases h; exact ⟨_, exec_kset _ _ s, congrArg Res.done (modMe_congr rfl)⟩
  case h_4 => cases h; exact ⟨_, exec_klog _ _ _ _ s, congrArg Res.done (modMe_congr rfl)⟩
  case h_5 => cases h

/-- JOIN, LEAVE, KSET and KLOG complete. -/
theorem maskOp_effect {i : Instr} {s : State} {k m : Nat} {check : Bool} (hop : Say.maskOp s i = some (k, m, check))
    (hi : Issues i s) (hf : Falls s) (hW : s.me.W ≤ 64) :
    ∃ t, exec i s = .next t ∧ OnlyMe s t ∧ Say.masksOnly s.me t.me ∧ t.me.mask k = m % 2 ^ s.me.W ∧
      (∀ j, j ≠ k → t.me.mask j = s.me.mask j) ∧
      (∀ l, l ∉ s.me.E → t.me.lane l = if check then Say.released (s.me.setMask k m) k l else s.me.lane l) ∧
      ∀ l ∈ s.me.E, t.me.lane l = { s.me.lane l with pcv := s.me.pc + 4, freed := none } := by
  obtain ⟨sem, hexec, hsem⟩ := exec_maskOp hop
  obtain ⟨honly, hkept, hmask, hlane⟩ := masksOnly_goneTo s (fun g => g.putMask k m check) _ _
    (putMask_frame _ _ _ _) (putMask_length _ _ _ _) (fun _ => true) (fun _ => s.me.pc + 4)
    (ts := s.nextWord) (by rw [List.filter_true, State.nextWord])
  refine ⟨_, hexec.trans (issue_done hi hf hsem), honly, hkept, ?_, fun j hj => ?_, fun l hl => ?_, fun l hl => ?_⟩
  · exact ((hmask k).trans (mask_putMask _ _ _ _ _)).trans (mask_setMask_same _ _ _ hW)
  · exact ((hmask j).trans (mask_putMask _ _ _ _ _)).trans (mask_setMask_other _ _ hj)
  · exact ((hlane l).trans (if_neg fun h => hl h.1)).trans (lane_putMask _ _ _ _ _)
  · refine ((hlane l).trans (if_pos ⟨hl, rfl⟩)).trans ?_
    rw [lane_putMask_of_mem_E hl]

/-! ### WAITK -/

/-- The group in which the members of E wait at mask k and the others have passed (R37). -/
def Group.arrive (g : Group) (k : Nat) : Group :=
  g.modLanes (fun l => g.E.contains l) fun l x =>
    if (g.mask k).testBit l then { x with status := .waitK k } else { x with pcv := x.pcv + 4 }

theorem waitk_eq (g : Group) (k : Nat) : g.waitk k = (g.arrive k).checkRelease k := rfl

theorem waitk_frame (g : Group) (k : Nat) : g.waitk k = { g with lanes := (g.waitk k).lanes } :=
  (checkRelease_frame (g.arrive k) k).trans rfl

theorem waitk_length (g : Group) (k : Nat) : (g.waitk k).lanes.length = g.lanes.length :=
  (checkRelease_length (g.arrive k) k).trans (modLanes_length _ _ _)

theorem lane_arrive_of_mem_E {g : Group} {l : Nat} (h : l ∈ g.E) (k : Nat) :
    (g.arrive k).lane l =
      if (g.mask k).testBit l then { g.lane l with status := .waitK k } else { g.lane l with pcv := (g.lane l).pcv + 4 } :=
  (lane_modLanes _ _ _ _).trans (if_pos ⟨lt_length_of_mem_E h, by simpa using h⟩)

/-- A lane of E stands after WAITK where it stood, or behind it. -/
theorem pcv_waitk_of_mem_E {g : Group} {l : Nat} (h : l ∈ g.E) (k : Nat) :
    ((g.waitk k).lane l).pcv = g.pc ∨ ((g.waitk k).lane l).pcv = g.pc + 4 := by
  have hpc := pcv_of_mem_E h
  rw [waitk_eq, lane_checkRelease]
  by_cases hm : (g.mask k).testBit l = true
  · have harr : (g.arrive k).lane l = { g.lane l with status := .waitK k } := by rw [lane_arrive_of_mem_E h, if_pos hm]
    unfold Say.released
    rw [harr, hpc]
    split
    · exact .inr rfl
    · exact .inl hpc
  · have harr : (g.arrive k).lane l = { g.lane l with pcv := (g.lane l).pcv + 4 } := by
      rw [lane_arrive_of_mem_E h, if_neg hm]
    have hne : ((g.arrive k).lane l).status ≠ .waitK k := by
      rw [harr]
      exact fun hw => LaneStatus.noConfusion ((ready_of_mem_E h).symm.trans hw)
    rw [released_of_not_waiting hne, harr, hpc]
    exact .inr rfl

/-- The lanes that have moved, as those of E picked by where they stand. -/
theorem moved_modMe (s : State) (f : Group → Group) :
    s.moved (s.modMe f) =
      (s.me.E.filter fun l => ((f s.me).lane l).pcv != s.me.pc).map fun l => (l, ((f s.me).lane l).pcv) := by
  rw [State.moved, List.filter_map, me_modMe]
  rfl

/-- Lanes of E that go on at the next word alone stay in the segment, by whatever instruction they go. -/
theorem staysAt_of_falls {s : State} (hf : Falls s) {fall : Bool} {ts : List (Nat × Word)}
    (hts : ∀ t ∈ ts, t.1 ∈ s.me.E ∧ t.2 = s.me.pc + 4) : StaysAt s fall ts := by
  intro x hx t ht
  obtain ⟨hE, hpc⟩ := hts t ht
  have hstay := hf x hx (t.1, s.me.pc + 4) (List.mem_map.mpr ⟨t.1, hE, rfl⟩)
  rw [hpc]
  unfold State.departs at hstay ⊢
  simpa using hstay

/-- The lanes that WAITK lets go on stand at the next word. -/
theorem staysAt_moved_waitk {s : State} (hf : Falls s) (k : Nat) :
    StaysAt s false (s.moved (s.modMe fun g => g.waitk k)) := by
  refine staysAt_of_falls hf fun t ht => ?_
  rw [moved_modMe, List.mem_map] at ht
  obtain ⟨l, hl, rfl⟩ := ht
  obtain ⟨hE, hne⟩ := List.mem_filter.mp hl
  exact ⟨hE, (pcv_waitk_of_mem_E hE k).resolve_left (by simpa using hne)⟩

theorem exec_waitk (k : BitVec 7) (s : State) :
    exec (.waitk k) s = issue (.waitk k)
      (fun s => .branch (s.moved (s.modMe fun g => g.waitk k.toNat)) (s.modMe fun g => g.waitk k.toNat)) s := rfl

/-- WAITK completes. -/
theorem waitk_effect {s : State} {k : BitVec 7} (hi : Issues (.waitk k) s) (hf : Falls s) :
    ∃ t, exec (.waitk k) s = .next t ∧ OnlyMe s t ∧ Say.masksOnly s.me t.me ∧ (∀ j, t.me.mask j = s.me.mask j) ∧
      ∀ l, t.me.lane l =
        let x := Say.released (s.me.arrive k.toNat) k.toNat l
        if l ∈ s.me.E then { x with freed := if x.pcv = s.me.pc then x.freed else none } else x := by
  obtain ⟨honly, hkept, hmask, hlane⟩ := masksOnly_goneTo s (fun g => g.waitk k.toNat) _ _
    (waitk_frame _ _) (waitk_length _ _) (fun l => ((s.me.waitk k.toNat).lane l).pcv != s.me.pc)
    (fun l => ((s.me.waitk k.toNat).lane l).pcv) (moved_modMe s fun g => g.waitk k.toNat)
  refine ⟨_, (exec_waitk k s).trans (issue_branch hi (staysAt_moved_waitk hf k.toNat) rfl), honly, hkept,
    fun j => (hmask j).trans (by rw [waitk_frame]; rfl), fun l => ?_⟩
  rw [hlane l, show (s.me.waitk k.toNat).lane l = _ from lane_checkRelease (s.me.arrive k.toNat) k.toNat l]
  dsimp only
  by_cases hE : l ∈ s.me.E
  · by_cases hpc : (Say.released (s.me.arrive k.toNat) k.toNat l).pcv = s.me.pc
    · rw [if_neg (by simp [hpc]), if_pos hE, if_pos hpc]
    · rw [if_pos ⟨hE, by simpa using hpc⟩, if_pos hE, if_neg hpc]
  · rw [if_neg fun h => hE h.1, if_neg hE]

/-! ### KGET -/

theorem exec_kget (k : BitVec 7) (a : Spec) (s : State) :
    exec (.kget k a) s = issue (.kget k a)
      (fun s => .done (s.putDirect a (s.me.E.map fun l => (l, BitVec.ofNat 64 (s.me.mask k.toNat))))) s := rfl

theorem kget_effect {s : State} {k : BitVec 7} {a : Spec} (hi : Issues (.kget k a) s) (hf : Falls s) :
    ∃ t, exec (.kget k a) s = .next t ∧
      DirectEffect s t a (fun _ => BitVec.ofNat 64 (s.me.mask k.toNat)) (fun _ => none) fun _ => 0 :=
  exec_kget k a s ▸ issue_direct hi hf a _ rfl

/-- Settles O40: a mask write and CheckRelease change lanes that wait and masks alone, and the lanes of E that do not wait
go on in place. -/
theorem maskResults : Obligations.MaskResults :=
  ⟨fun k a => ⟨encode_join k, encode_leave k, encode_kset k a⟩, rfl, rfl, rfl,
    fun _ _ _ _ _ hop hi hf hW => maskOp_effect hop hi hf hW,
    fun _ _ hi hf => waitk_effect hi hf,
    fun _ _ _ hi hf => kget_effect hi hf⟩

end Sys2Proof.Machine
end

section
/-!
NOP (R379): no other word of its OP is an instruction, and what an instruction that only completes leaves in every lane.
-/
namespace Sys2Proof.Machine

/-! ### The words of OP 0xCB -/

/-- Every field of NOP must be zero. -/
theorem decode_of_op_nop {w : IWord} (h : w.toNat / 2 ^ 24 = 0xCB) :
    decode w = guardFixed (bitsAt w 0 24 == 0) .nop := by
  have hrow : bitsAt w 28 4 = 12 := by unfold bitsAt; omega
  have hcol : bitsAt w 24 4 = 11 := by unfold bitsAt; omega
  simp only [decode, hrow, hcol, decodeRowC]

/-- The word of NOP is the one of its OP whose fields are zero. -/
theorem decode_of_op_nop_ne {w : IWord} (h : w.toNat / 2 ^ 24 = 0xCB) (hne : w ≠ 0xCB000000#32) :
    decode w = .error .fixedField := by
  have hfield : bitsAt w 0 24 ≠ 0 := fun h0 => hne <| BitVec.eq_of_toNat_eq <| by
    unfold bitsAt at h0
    simp only [BitVec.toNat_ofNat]
    omega
  rw [decode_of_op_nop h, guardFixed, if_neg (by simpa using hfield)]

theorem Stands.canIssue {s : State} (h : Stands s) : s.canIssue = true := by
  obtain ⟨hstay, hable, hin, -⟩ := h
  simp [State.canIssue, hstay, hable, hin]

/-- A word that decodes to no instruction raises ILL with itself as TVAL (R80). -/
theorem exec_reservedEncoding_of_error {s : State} {w : IWord} {e : Reject} (h : Stands s) (hd : decode w = .error e) :
    exec (.reservedEncoding w) s = .next (s.raise .ill (w.setWidth 64)) := by
  rw [show exec (.reservedEncoding w) s = execReservedEncoding w s from rfl, execReservedEncoding, if_pos h.canIssue, hd]

/-! ### Going on at the next word, and nothing else -/

theorem exec_nop (s : State) : exec .nop s = issue .nop (fun s => .done s) s := rfl

theorem onlyMe_goneTo_self (s : State) (ts : List (Nat × Word)) : OnlyMe s (s.goneTo ts) :=
  ⟨goneTo_rest s ts, fun _ hn => goneTo_others s ts hn⟩

theorem kept_goneTo_self (s : State) (ts : List (Nat × Word)) :
    GroupKept s.me (s.goneTo ts).me ∧ (s.goneTo ts).me.q = s.me.q := by
  obtain ⟨L, hgo⟩ := goTo_frame s.me ts
  rw [me_goneTo, hgo]
  exact ⟨rfl, rfl⟩

theorem lane_goneTo_self (s : State) (v : Nat → Word) (l : Nat) :
    (s.goneTo (s.me.E.map fun l => (l, v l))).me.lane l =
      if l ∈ s.me.E then { s.me.lane l with pcv := v l, freed := none } else s.me.lane l := by
  obtain ⟨-, -, hlane⟩ := goTo_spec s.me s.me v rfl
  rw [me_goneTo]
  exact hlane l

/-- Settles O38: the fixed bits of NOP are its whole word, and its meaning leaves the state to the advance of pcv. -/
theorem nopOnlyAdvances : Obligations.NopOnlyAdvances := by
  refine ⟨rfl, fun w hop hne => ?_, fun s hi hf => ?_⟩
  · have hd := decode_of_op_nop_ne hop hne
    exact ⟨⟨_, hd⟩, fun s hs => exec_reservedEncoding_of_error hs hd⟩
  · obtain ⟨hkept, hq⟩ := kept_goneTo_self s s.nextWord
    exact ⟨s.goneTo s.nextWord, (exec_nop s).trans (issue_done hi hf rfl), onlyMe_goneTo_self s _, hkept, hq,
      lane_goneTo_self s fun _ => s.me.pc + 4⟩

end Sys2Proof.Machine
end
